-- ==== Sys2Proof/Word.lean ====
section
/-! DEFINITION. The word types. -/

namespace Sys2Proof

/-- A general register and an instruction word: 32 bits (02 R27, R44). -/
abbrev Word := BitVec 32
/-- A byte of memory. -/
abbrev Byte := BitVec 8
/-- A core-SRAM byte address (02 R27). -/
abbrev Addr := BitVec 16
/-- A register pair, an edge address, a time (02 R44, 10 R266, 13 R336). -/
abbrev Dword := BitVec 64

end Sys2Proof
end

