-- ==== Sys2Proof/Syntax.lean ====
section
/-! DEFINITION. The instruction set as syntax: one constructor for each row of the opcode table.
The 204 word rows carry the fields of their encoding (02 R27-R29); the 101 event rows carry what the
event acts on: `c` a core (row * 1024 + column), `k` a strand slot, `h` a hub, `b` a brick, `d` a row domain,
`p` a port, `ch` a channel, `id` a request in flight, `part` a partition. -/

namespace Sys2Proof

/-- The rows of spec/opcode_table.json: instruction words, then events of the machine's own agents and of the outside. -/
inductive Instr where
  /-- BRA, R96: Branches PC-relative to a clause header. -/
  | bra (o : BitVec 22)
  /-- BAL, R96: Branches PC-relative to a clause header and writes the return address to g15. -/
  | bal (o : BitVec 22)
  /-- BEQ, R97: Branches when g[a] equals g[b]; resolves one cycle after issue. -/
  | beq (a : BitVec 4) (b : BitVec 4) (o : BitVec 14)
  /-- BNE, R97: Branches when g[a] differs from g[b]. -/
  | bne (a : BitVec 4) (b : BitVec 4) (o : BitVec 14)
  /-- BLT, R97: Branches when g[a] is signed-less than g[b]. -/
  | blt (a : BitVec 4) (b : BitVec 4) (o : BitVec 14)
  /-- BGE, R97: Branches when g[a] is signed greater than or equal to g[b]. -/
  | bge (a : BitVec 4) (b : BitVec 4) (o : BitVec 14)
  /-- BLO, R97: Branches when g[a] is unsigned-less than g[b]. -/
  | blo (a : BitVec 4) (b : BitVec 4) (o : BitVec 14)
  /-- BHS, R97: Branches when g[a] is unsigned greater than or equal to g[b]. -/
  | bhs (a : BitVec 4) (b : BitVec 4) (o : BitVec 14)
  /-- BZ, R97: Branches when g[a] is zero. -/
  | bz (a : BitVec 4) (o : BitVec 14)
  /-- BNZ, R97: Branches when g[a] is non-zero. -/
  | bnz (a : BitVec 4) (o : BitVec 14)
  /-- JMP, R98: Jumps to g[a] plus an unsigned offset, which must be a clause header. -/
  | jmp (a : BitVec 4) (imm : BitVec 12)
  /-- JAL, R98: Jumps to g[a] plus an offset and writes the return address to g[d]. -/
  | jal (d : BitVec 4) (a : BitVec 4) (imm : BitVec 12)
  /-- LOOP, R98: Decrements the counter and branches backward while it stays non-zero; resolves at issue. -/
  | loop (d : BitVec 4) (imm : BitVec 12)
  /-- NOP, R100: Takes the issue slot for one cycle with no effect. -/
  | nop
  /-- YIELD, R101: Makes the strand lowest priority for the next selection. -/
  | yield
  /-- SLEEP, R102: Makes the strand wait for g[a]+imm12 core cycles. -/
  | sleep (a : BitVec 4) (imm : BitVec 12)
  /-- WAITM, R103: Waits for a standing message on any wake channel in a 64-bit mask, without taking it. -/
  | waitm (d : BitVec 4) (a : BitVec 4)
  /-- SPAWN, R104: Queues a spawn request for a strand entry and waits for the grant, or fails at once with .nw. -/
  | spawn (d : BitVec 4) (a : BitVec 4) (n : BitVec 1) (e : BitVec 4)
  /-- EXIT, R105: Ends the strand once its scoreboard clears and frees its slot and grants. -/
  | exit
  /-- EXIT_SPLICE, R105: Ends the strand as EXIT and sets the core's splice flag. -/
  | exitSplice
  /-- SEL, R107: Writes g[a] or g[b] to g[d] depending on whether g[c] is non-zero. -/
  | sel (d : BitVec 4) (a : BitVec 4) (b : BitVec 4) (c : BitVec 4)
  /-- ADD, R108: Adds two registers modulo 2^32. -/
  | add (d : BitVec 4) (a : BitVec 4) (b : BitVec 4)
  /-- SUB, R108: Subtracts two registers modulo 2^32. -/
  | sub (d : BitVec 4) (a : BitVec 4) (b : BitVec 4)
  /-- AND, R108: Bitwise AND of two registers. -/
  | and (d : BitVec 4) (a : BitVec 4) (b : BitVec 4)
  /-- OR, R108: Bitwise OR of two registers. -/
  | or (d : BitVec 4) (a : BitVec 4) (b : BitVec 4)
  /-- XOR, R108: Bitwise XOR of two registers. -/
  | xor (d : BitVec 4) (a : BitVec 4) (b : BitVec 4)
  /-- ANDN, R108: g[a] AND NOT g[b]. -/
  | andn (d : BitVec 4) (a : BitVec 4) (b : BitVec 4)
  /-- SHL, R108: Shifts left by g[b][4:0]. -/
  | shl (d : BitVec 4) (a : BitVec 4) (b : BitVec 4)
  /-- SHR, R108: Logical shift right by g[b][4:0]. -/
  | shr (d : BitVec 4) (a : BitVec 4) (b : BitVec 4)
  /-- SAR, R108: Arithmetic shift right by g[b][4:0]. -/
  | sar (d : BitVec 4) (a : BitVec 4) (b : BitVec 4)
  /-- ROL, R108: Rotates left by g[b][4:0]. -/
  | rol (d : BitVec 4) (a : BitVec 4) (b : BitVec 4)
  /-- SLT, R108: Sets 1 if g[a] is signed-less than g[b]. -/
  | slt (d : BitVec 4) (a : BitVec 4) (b : BitVec 4)
  /-- SLTU, R108: Sets 1 if g[a] is unsigned-less than g[b]. -/
  | sltu (d : BitVec 4) (a : BitVec 4) (b : BitVec 4)
  /-- MIN, R108: Signed minimum. -/
  | min (d : BitVec 4) (a : BitVec 4) (b : BitVec 4)
  /-- MAX, R108: Signed maximum. -/
  | max (d : BitVec 4) (a : BitVec 4) (b : BitVec 4)
  /-- MINU, R108: Unsigned minimum. -/
  | minu (d : BitVec 4) (a : BitVec 4) (b : BitVec 4)
  /-- MAXU, R108: Unsigned maximum. -/
  | maxu (d : BitVec 4) (a : BitVec 4) (b : BitVec 4)
  /-- CLZ, R108: Counts leading zeros of g[a]. -/
  | clz (d : BitVec 4) (a : BitVec 4)
  /-- CTZ, R108: Counts trailing zeros of g[a]. -/
  | ctz (d : BitVec 4) (a : BitVec 4)
  /-- POPC, R108: Counts set bits of g[a]. -/
  | popc (d : BitVec 4) (a : BitVec 4)
  /-- ADDI, R109: Adds a sign-extended 16-bit immediate. -/
  | addi (d : BitVec 4) (a : BitVec 4) (imm : BitVec 16)
  /-- SLTI, R109: Sets 1 if g[a] is signed-less than the immediate. -/
  | slti (d : BitVec 4) (a : BitVec 4) (imm : BitVec 16)
  /-- ANDI, R109: ANDs with a sign-extended immediate. -/
  | andi (d : BitVec 4) (a : BitVec 4) (imm : BitVec 16)
  /-- ORI, R109: ORs with a zero-extended immediate. -/
  | ori (d : BitVec 4) (a : BitVec 4) (imm : BitVec 16)
  /-- XORI, R109: XORs with a zero-extended immediate. -/
  | xori (d : BitVec 4) (a : BitVec 4) (imm : BitVec 16)
  /-- SHLI, R109: Shifts left by an immediate. -/
  | shli (d : BitVec 4) (a : BitVec 4) (n : BitVec 5)
  /-- SHRI, R109: Logical shift right by an immediate. -/
  | shri (d : BitVec 4) (a : BitVec 4) (n : BitVec 5)
  /-- SARI, R109: Arithmetic shift right by an immediate. -/
  | sari (d : BitVec 4) (a : BitVec 4) (n : BitVec 5)
  /-- LUI, R109: Loads a 16-bit immediate into the upper half. -/
  | lui (d : BitVec 4) (imm : BitVec 16)
  /-- ADD64, R110: Adds two register pairs modulo 2^64. -/
  | add64 (d : BitVec 4) (a : BitVec 4) (b : BitVec 4)
  /-- ADDI64, R110: Adds a 12-bit signed immediate to a register pair. -/
  | addi64 (d : BitVec 4) (a : BitVec 4) (ih : BitVec 4) (il : BitVec 8)
  /-- LEA, R110: Adds a shifted, optionally sign-extended register to a pair. -/
  | lea (d : BitVec 4) (a : BitVec 4) (b : BitVec 4) (sx : BitVec 1) (n : BitVec 3)
  /-- MUL, R111: Low 32 bits of the product. -/
  | mul (d : BitVec 4) (a : BitVec 4) (b : BitVec 4)
  /-- MULH, R111: High 32 bits of the signed product. -/
  | mulh (d : BitVec 4) (a : BitVec 4) (b : BitVec 4)
  /-- MULHU, R111: High 32 bits of the unsigned product. -/
  | mulhu (d : BitVec 4) (a : BitVec 4) (b : BitVec 4)
  /-- DIV, R111: Signed quotient with saturating results for zero divisor and overflow. -/
  | div (d : BitVec 4) (a : BitVec 4) (b : BitVec 4)
  /-- DIVU, R111: Unsigned quotient. -/
  | divu (d : BitVec 4) (a : BitVec 4) (b : BitVec 4)
  /-- REM, R111: Signed remainder. -/
  | rem (d : BitVec 4) (a : BitVec 4) (b : BitVec 4)
  /-- REMU, R111: Unsigned remainder. -/
  | remu (d : BitVec 4) (a : BitVec 4) (b : BitVec 4)
  /-- BFX, R112: Extracts a bit field, optionally sign-extended. -/
  | bfx (d : BitVec 4) (a : BitVec 4) (x : BitVec 1) (p : BitVec 5) (w : BitVec 5)
  /-- BFI, R112: Inserts the low bits of g[a] into a field of g[d]. -/
  | bfi (d : BitVec 4) (a : BitVec 4) (p : BitVec 5) (w : BitVec 5)
  /-- FADD, R113: Binary32 addition with the selected rounding mode. -/
  | fadd (d : BitVec 4) (a : BitVec 4) (b : BitVec 4) (m : BitVec 3)
  /-- FSUB, R113: Binary32 subtraction. -/
  | fsub (d : BitVec 4) (a : BitVec 4) (b : BitVec 4) (m : BitVec 3)
  /-- FMUL, R113: Binary32 multiplication. -/
  | fmul (d : BitVec 4) (a : BitVec 4) (b : BitVec 4) (m : BitVec 3)
  /-- FMA, R113: Fused multiply-add a*b+d with one rounding. -/
  | fma (d : BitVec 4) (a : BitVec 4) (b : BitVec 4) (m : BitVec 3)
  /-- FMIN, R113: minimumNumber of two binary32 values. -/
  | fmin (d : BitVec 4) (a : BitVec 4) (b : BitVec 4)
  /-- FMAX, R113: maximumNumber of two binary32 values. -/
  | fmax (d : BitVec 4) (a : BitVec 4) (b : BitVec 4)
  /-- FABS, R113: Clears the sign bit. -/
  | fabs (d : BitVec 4) (a : BitVec 4)
  /-- FNEG, R113: Inverts the sign bit. -/
  | fneg (d : BitVec 4) (a : BitVec 4)
  /-- FCMP, R114: Writes 1 if the selected comparison predicate holds. -/
  | fcmp (d : BitVec 4) (a : BitVec 4) (b : BitVec 4) (p : BitVec 3)
  /-- FDIV, R113: Binary32 division on the divide unit. -/
  | fdiv (d : BitVec 4) (a : BitVec 4) (b : BitVec 4) (m : BitVec 3)
  /-- FSQRT, R113: Binary32 square root on the divide unit. -/
  | fsqrt (d : BitVec 4) (a : BitVec 4) (m : BitVec 3)
  /-- FCVT, R116: Converts a scalar between BF16, FP32, INT8 and INT32 and sets ASTAT flags. -/
  | fcvt (d : BitVec 4) (a : BitVec 4) (sx : BitVec 3) (t : BitVec 3) (m : BitVec 3)
  /-- VADD, R123: Lane-wise vector add. -/
  | vadd (d : BitVec 4) (a : BitVec 4) (b : BitVec 4) (sx : BitVec 1) (k : BitVec 2) (f : BitVec 3)
  /-- VSUB, R123: Lane-wise vector subtract. -/
  | vsub (d : BitVec 4) (a : BitVec 4) (b : BitVec 4) (sx : BitVec 1) (k : BitVec 2) (f : BitVec 3)
  /-- VMUL, R123: Lane-wise vector multiply. -/
  | vmul (d : BitVec 4) (a : BitVec 4) (b : BitVec 4) (sx : BitVec 1) (k : BitVec 2) (f : BitVec 3)
  /-- VFMA, R123: Lane-wise fused multiply-add. -/
  | vfma (d : BitVec 4) (a : BitVec 4) (b : BitVec 4) (c : BitVec 4) (k : BitVec 2) (f : BitVec 3)
  /-- VMIN, R123: Lane-wise minimum. -/
  | vmin (d : BitVec 4) (a : BitVec 4) (b : BitVec 4) (k : BitVec 2) (f : BitVec 3)
  /-- VMAX, R123: Lane-wise maximum. -/
  | vmax (d : BitVec 4) (a : BitVec 4) (b : BitVec 4) (k : BitVec 2) (f : BitVec 3)
  /-- VABS, R123: Lane-wise absolute value. -/
  | vabs (d : BitVec 4) (a : BitVec 4) (sx : BitVec 1) (k : BitVec 2) (f : BitVec 3)
  /-- VNEG, R123: Lane-wise negation. -/
  | vneg (d : BitVec 4) (a : BitVec 4) (sx : BitVec 1) (k : BitVec 2) (f : BitVec 3)
  /-- VAND, R124: Raw lane AND. -/
  | vand (d : BitVec 4) (a : BitVec 4) (b : BitVec 4) (k : BitVec 2) (f : BitVec 3)
  /-- VOR, R124: Raw lane OR. -/
  | vor (d : BitVec 4) (a : BitVec 4) (b : BitVec 4) (k : BitVec 2) (f : BitVec 3)
  /-- VXOR, R124: Raw lane XOR. -/
  | vxor (d : BitVec 4) (a : BitVec 4) (b : BitVec 4) (k : BitVec 2) (f : BitVec 3)
  /-- VSHL, R124: Raw lane shift left. -/
  | vshl (d : BitVec 4) (a : BitVec 4) (b : BitVec 4) (k : BitVec 2) (f : BitVec 3)
  /-- VSHR, R124: Raw lane shift right, logical or arithmetic. -/
  | vshr (d : BitVec 4) (a : BitVec 4) (b : BitVec 4) (x : BitVec 1) (k : BitVec 2) (f : BitVec 3)
  /-- VCMP, R125: Compares lanes and writes a mask register. -/
  | vcmp (d : BitVec 2) (a : BitVec 4) (b : BitVec 4) (p : BitVec 4) (k : BitVec 2) (f : BitVec 3)
  /-- VSEL, R126: Selects lanes from va or vb by the mask. -/
  | vsel (d : BitVec 4) (a : BitVec 4) (b : BitVec 4) (k : BitVec 2) (f : BitVec 3)
  /-- VSHUF, R127: Permutes lanes of va by indices in vb. -/
  | vshuf (d : BitVec 4) (a : BitVec 4) (b : BitVec 4) (k : BitVec 2) (f : BitVec 3)
  /-- VCVT, R128: Converts lanes between formats, with SR advancing the VCVT generator. -/
  | vcvt (d : BitVec 4) (a : BitVec 4) (h : BitVec 1) (m : BitVec 3) (k : BitVec 2) (f : BitVec 3) (sx : BitVec 3)
  /-- VBLK, R129: Re-packs each block of va in its own format. -/
  | vblk (d : BitVec 4) (a : BitVec 4) (m : BitVec 3) (k : BitVec 2) (f : BitVec 3)
  /-- VSCL, R130: Multiplies every element by 2^k. -/
  | vscl (d : BitVec 4) (a : BitVec 4) (imm : BitVec 8) (k : BitVec 2) (f : BitVec 3)
  /-- VMOV, R131: Copies selected lanes raw. -/
  | vmov (d : BitVec 4) (a : BitVec 4) (k : BitVec 2) (f : BitVec 3)
  /-- VBCAST, R131: Broadcasts a scalar into selected lanes. -/
  | vbcast (d : BitVec 4) (a : BitVec 4) (k : BitVec 2) (f : BitVec 3)
  /-- VINS, R131: Inserts a scalar into one lane or the side band. -/
  | vins (d : BitVec 4) (a : BitVec 4) (l : BitVec 8) (f : BitVec 3)
  /-- VEXT, R131: Extracts one lane or the side band into a scalar. -/
  | vext (d : BitVec 4) (a : BitVec 4) (l : BitVec 8) (f : BitVec 3)
  /-- VMOV_MG, R131: Writes a mask register from a scalar. -/
  | vmovMg (d : BitVec 2) (a : BitVec 4)
  /-- VMOV_GM, R131: Writes a scalar from a mask register. -/
  | vmovGm (d : BitVec 4) (a : BitVec 2)
  /-- VRCP, R132: 12-bit reciprocal estimate per lane. -/
  | vrcp (d : BitVec 4) (a : BitVec 4) (k : BitVec 2) (f : BitVec 3)
  /-- VRSQ, R132: 12-bit reciprocal square-root estimate per lane. -/
  | vrsq (d : BitVec 4) (a : BitVec 4) (k : BitVec 2) (f : BitVec 3)
  /-- VRED, R133: Reduces selected lanes into lane 0 by sum, min or max. -/
  | vred (d : BitVec 4) (a : BitVec 4) (sx : BitVec 1) (o : BitVec 2) (k : BitVec 2) (f : BitVec 3)
  /-- LD, R150: Loads a byte, half, word or doubleword from core SRAM. -/
  | ld (d : BitVec 4) (a : BitVec 4) (sx : BitVec 2) (o : BitVec 16)
  /-- ST, R150: Stores a byte, half, word or doubleword to core SRAM. -/
  | st (d : BitVec 4) (a : BitVec 4) (sx : BitVec 2) (o : BitVec 16)
  /-- LDV, R151: Loads a vector register and, for blocks, its side band. -/
  | ldv (d : BitVec 4) (a : BitVec 4) (o : BitVec 13) (f : BitVec 3)
  /-- STV, R151: Stores a vector register and, for blocks, its side band. -/
  | stv (d : BitVec 4) (a : BitVec 4) (o : BitVec 13) (f : BitVec 3)
  /-- LDT, R153: Loads a tile through an operand header, optionally transposing. -/
  | ldt (t : BitVec 3) (a : BitVec 4) (o : BitVec 16)
  /-- STT, R153: Stores a tile through an operand header. -/
  | stt (t : BitVec 3) (a : BitVec 4) (o : BitVec 16)
  /-- COPY, R154: Queues an asynchronous SRAM-to-SRAM copy on the copy engine with a tag. -/
  | copy (d : BitVec 4) (a : BitVec 4) (b : BitVec 4) (k : BitVec 6)
  /-- COPY_B, R154: Queues a copy that deposits into a bobbin and makes it full. -/
  | copyB (d : BitVec 4) (a : BitVec 4) (b : BitVec 4) (k : BitVec 6)
  /-- LATOM, R155: Atomic read-modify-write on a core SRAM word or doubleword. -/
  | latom (d : BitVec 4) (a : BitVec 4) (b : BitVec 4) (o : BitVec 4) (w : BitVec 2)
  /-- BDECL, R157: Declares a bobbin from a two-word descriptor in SRAM. -/
  | bdecl (a : BitVec 4) (n : BitVec 5)
  /-- BSET_EMPTY, R158: Returns a full or draining bobbin to empty and releases held deposits. -/
  | bsetEmpty (a : BitVec 4) (n : BitVec 5)
  /-- BSET_FULL, R158: Makes an empty or filling bobbin full. -/
  | bsetFull (a : BitVec 4) (n : BitVec 5)
  /-- BSET_DRAIN, R158: Moves a full bobbin to draining. -/
  | bsetDrain (a : BitVec 4) (n : BitVec 5)
  /-- BSET_REL, R158: Releases n bytes of a draining bobbin, emptying it at the end. -/
  | bsetRel (a : BitVec 4) (n : BitVec 5)
  /-- BSET_UNDECL, R158: Undeclares an empty bobbin. -/
  | bsetUndecl (a : BitVec 4) (n : BitVec 5)
  /-- BQRY, R159: Snapshots a bobbin's state into a register. -/
  | bqry (d : BitVec 4) (h : BitVec 1) (n : BitVec 5)
  /-- TWANY, R160: Waits until any tag in the mask is set. -/
  | twany (d : BitVec 4) (a : BitVec 4) (c : BitVec 1)
  /-- TWALL, R160: Waits until every tag in the mask is set. -/
  | twall (a : BitVec 4) (c : BitVec 1)
  /-- TFF, R160: Returns the lowest set tag in the mask without waiting. -/
  | tff (d : BitVec 4) (a : BitVec 4)
  /-- TCLR, R160: Returns set or ended-faulted unbound tags to idle. -/
  | tclr (a : BitVec 4)
  /-- SEND, R198: Sends one payload flit of scalar registers on a channel. -/
  | send (c : BitVec 6) (sx : BitVec 4) (f : BitVec 3) (h : BitVec 1)
  /-- SENDV, R199: Sends a vector register as a message. -/
  | sendv (c : BitVec 6) (f : BitVec 3) (v : BitVec 4)
  /-- SENDT, R200: Sends a tile as one or two messages. -/
  | sendt (c : BitVec 6) (t : BitVec 3)
  /-- SENDB, R201: Sends an SRAM range as messages through the send engine with a tag. -/
  | sendb (c : BitVec 6) (sx : BitVec 4) (f : BitVec 3) (k : BitVec 6)
  /-- TRIG, R198: Sends a one-flit message of kind trigger. -/
  | trig (c : BitVec 6) (sx : BitVec 4)
  /-- RECV, R203: Takes a standing message on a wake channel and writes its first two words. -/
  | recv (c : BitVec 6) (sx : BitVec 4)
  /-- RECV_V, R203: Takes a standing message into a vector register. -/
  | recvV (c : BitVec 6) (v : BitVec 4)
  /-- WAITCH, R204: Takes a standing message and writes a summary of its header. -/
  | waitch (c : BitVec 6) (sx : BitVec 4)
  /-- JOIN, R205: Waits until every channel in the mask is satisfied. -/
  | join (sx : BitVec 4)
  /-- RCFG_R, R207: Rewrites the router's channel entry. -/
  | rcfgR (c : BitVec 6) (sx : BitVec 4)
  /-- RCFG_T, R207: Rewrites the core's trigger entry, rebinding bobbins. -/
  | rcfgT (c : BitVec 6) (sx : BitVec 4)
  /-- RCFG_QR, R207: Reads a router channel entry. -/
  | rcfgQr (c : BitVec 6) (sx : BitVec 4)
  /-- RCFG_QT, R207: Reads a trigger entry. -/
  | rcfgQt (c : BitVec 6) (sx : BitVec 4)
  /-- RRED, R208: Binds, rebinds or releases a trick unit from a descriptor. -/
  | rred (c : BitVec 6) (sx : BitVec 4)
  /-- RNQ, R209: Reads a trick slot's state. -/
  | rnq (c : BitVec 6) (sx : BitVec 4) (k : BitVec 4)
  /-- NBRQ, R210: Reads the neighbour status of a direction. -/
  | nbrq (sx : BitVec 4) (e : BitVec 2)
  /-- CHFLUSH, R211: Discards a channel's unsent and standing messages at the core. -/
  | chflush (c : BitVec 6) (sx : BitVec 4)
  /-- TSHAPE, R220: Sets a tile's shape, clearing it if the format changes. -/
  | tshape (t : BitVec 3) (r : BitVec 4) (c : BitVec 4) (f : BitVec 3)
  /-- TPARM, R221: Writes the tile parameter block TPR. -/
  | tparm (a : BitVec 4)
  /-- TZERO, R222: Clears a tile and sets its format. -/
  | tzero (t : BitVec 3) (f : BitVec 3)
  /-- ACCZ, R222: Clears an accumulator and its GMMA step count. -/
  | accz (a : BitVec 2)
  /-- TSTAT, R223: Reads tile, accumulator or TPR state. -/
  | tstat (d : BitVec 4) (k : BitVec 2) (imm : BitVec 3)
  /-- TMOVV, R225: Moves a row pair raw between a tile and a vector register. -/
  | tmovv (t : BitVec 3) (v : BitVec 4) (p : BitVec 3) (d : BitVec 1) (f : BitVec 3)
  /-- TMOVT, R226: Copies a tile with its shape. -/
  | tmovt (t : BitVec 3) (a : BitVec 3) (f : BitVec 3)
  /-- TXP, R226: Writes the transpose of a tile. -/
  | txp (t : BitVec 3) (a : BitVec 3) (f : BitVec 3)
  /-- TBLK, R227: Re-packs each row of a block tile. -/
  | tblk (t : BitVec 3) (a : BitVec 3) (f : BitVec 3) (m : BitVec 3)
  /-- TCVT, R227: Converts a tile between formats row by row. -/
  | tcvt (t : BitVec 3) (a : BitVec 3) (f : BitVec 3) (sx : BitVec 3) (m : BitVec 3)
  /-- MMA, R229: One k-tile multiply-accumulate step into an accumulator. -/
  | mma (a : BitVec 3) (b : BitVec 3) (c : BitVec 2) (f : BitVec 3) (g : BitVec 3) (y : BitVec 1) (x : BitVec 1)
  /-- MMA_Z, R229: Zeroes the accumulator, then performs one MMA step. -/
  | mmaZ (a : BitVec 3) (b : BitVec 3) (c : BitVec 2) (f : BitVec 3) (g : BitVec 3) (y : BitVec 1) (x : BitVec 1)
  /-- GMMA, R233: Runs K gang matrix steps fed from bobbins or channels. -/
  | gmma (a : BitVec 4) (c : BitVec 2) (f : BitVec 3) (g : BitVec 3) (z : BitVec 1) (y : BitVec 1) (x : BitVec 1)
  /-- DRAIN_T, R238: Converts an accumulator into a tile. -/
  | drainT (t : BitVec 3) (c : BitVec 2) (f : BitVec 3) (l : BitVec 1)
  /-- DRAIN_V, R238: Converts an accumulator row pair into a vector register. -/
  | drainV (v : BitVec 4) (h : BitVec 1) (p : BitVec 3) (c : BitVec 2) (f : BitVec 3) (l : BitVec 1)
  /-- DRAIN_M, R238: Converts an accumulator into core memory through an operand header. -/
  | drainM (d : BitVec 4) (c : BitVec 2) (f : BitVec 3) (l : BitVec 1)
  /-- SIGH, R250: Hashes one k-tile of a row panel into the projection register. -/
  | sigh (a : BitVec 3) (f : BitVec 3) (k : BitVec 4) (c : BitVec 1)
  /-- SIGB, R251: Forms buckets, writes MAP and compacts a tile. -/
  | sigb (t : BitVec 3) (a : BitVec 3) (n : BitVec 4) (f : BitVec 3) (r : BitVec 2)
  /-- SIGB_C, R251: Compacts a further k-tile under the existing MAP. -/
  | sigbC (t : BitVec 3) (a : BitVec 3) (f : BitVec 3)
  /-- SIGX, R253: Scatters accumulator rows to bucket members through MAP. -/
  | sigx (sx : BitVec 2) (d : BitVec 2) (z : BitVec 1)
  /-- SIGX_SCALE, R253: Scatters with the mean's derivative applied. -/
  | sigxScale (sx : BitVec 2) (d : BitVec 2) (z : BitVec 1)
  /-- SIGG, R254: Gather-sums member rows into representative rows. -/
  | sigg (t : BitVec 3) (a : BitVec 3) (f : BitVec 3)
  /-- SIGMS, R255: Stores MAP as a 24-byte image. -/
  | sigms (a : BitVec 4)
  /-- SIGML, R255: Loads MAP from a consistent image. -/
  | sigml (a : BitVec 4)
  /-- SIGQ, R256: Reads signature-stage statistics. -/
  | sigq (d : BitVec 4) (sx : BitVec 6)
  /-- SPBIND, R284: Binds a stream slot to a spindle-table entry and asks the brick for a spindle. -/
  | spbind (d : BitVec 4) (a : BitVec 4) (e : BitVec 6) (n : BitVec 1) (b : BitVec 5)
  /-- SPFREE, R284: Releases a bound slot and its spindle. -/
  | spfree (a : BitVec 4)
  /-- SPRUN, R285: Queues a read round on a slot with a tag and optional arc. -/
  | sprun (d : BitVec 4) (a : BitVec 4) (sx : BitVec 4) (k : BitVec 6)
  /-- SPRUN_W, R285: Queues a write round from core SRAM. -/
  | sprunW (d : BitVec 4) (a : BitVec 4) (sx : BitVec 4) (k : BitVec 6)
  /-- SPSET, R286: Overwrites one field of a slot's shape record. -/
  | spset (a : BitVec 4) (sx : BitVec 4) (e : BitVec 4)
  /-- ECANCEL, R287: Cancels the edge operation holding a tag. -/
  | ecancel (d : BitVec 4) (k : BitVec 6)
  /-- SPRUN_R, R287: Resumes the faulted edge operation holding a tag. -/
  | sprunR (k : BitVec 6)
  /-- ELD, R289: Reads 8 to 64 edge bytes into a reserved bobbin range. -/
  | eld (sx : BitVec 2) (a : BitVec 4) (e : BitVec 1) (b : BitVec 5) (k : BitVec 6)
  /-- ELD_B, R289: Reads one edge block into a bobbin. -/
  | eldB (a : BitVec 4) (e : BitVec 1) (b : BitVec 5) (k : BitVec 6)
  /-- EST, R290: Writes 4 or 8 bytes to edge memory. -/
  | est (d : BitVec 4) (a : BitVec 4) (w : BitVec 1) (k : BitVec 6)
  /-- EST_B, R290: Writes one block of a vector register to edge memory. -/
  | estB (v : BitVec 4) (a : BitVec 4) (h : BitVec 1) (f : BitVec 3) (k : BitVec 6)
  /-- EWATCH, R291: Watches an edge word and sets a tag when it differs from a comparand. -/
  | ewatch (d : BitVec 4) (a : BitVec 4) (k : BitVec 6)
  /-- EATOM, R303: Wafer- or system-scope edge atomic; the strand waits for the reply. -/
  | eatom (d : BitVec 4) (a : BitVec 4) (b : BitVec 4) (o : BitVec 4) (sx : BitVec 1) (w : BitVec 1)
  /-- EATOMSC, R303: Globally ordered edge atomic announced and performed in window order. -/
  | eatomsc (d : BitVec 4) (a : BitVec 4) (b : BitVec 4) (o : BitVec 4) (w : BitVec 1)
  /-- EFENCE, R299: Holds later edge requests of the strand until earlier ones complete. -/
  | efence
  /-- CATOM, R310: Atomic on cluster SRAM at the hub; the strand waits for the reply. -/
  | catom (d : BitVec 4) (a : BitVec 4) (o : BitVec 4) (w : BitVec 1)
  /-- CJOIN, R313: Arrives at a join element with optional release and acquire. -/
  | cjoin (d : BitVec 4) (q : BitVec 1) (r : BitVec 1) (j : BitVec 5)
  /-- CJOIN_CFG, R314: Sets a join element's arc count. -/
  | cjoinCfg (a : BitVec 4) (j : BitVec 5)
  /-- CJQ, R314: Reads a join element's state. -/
  | cjq (d : BitVec 4) (j : BitVec 5)
  /-- COLL, R328: Checks a collective parameter block and hands it to the sequencers. -/
  | coll (a : BitVec 4)
  /-- COLL_R, R329: Retries a collective's held chunk after EPF or EUE. -/
  | collR (k : BitVec 6)
  /-- COLL_X, R329: Aborts a collective in every module. -/
  | collX (k : BitVec 6)
  /-- COLLW, R329: Waits for a collective's tag and returns it to idle. -/
  | collw (d : BitVec 4) (k : BitVec 6)
  /-- COLLQ, R329: Reads a collective's progress record. -/
  | collq (d : BitVec 4) (sx : BitVec 2) (k : BitVec 6)
  /-- PHASE, R348: Declares or withdraws a tensor burst with the row arbiter. -/
  | phase (d : BitVec 4) (a : BitVec 4)
  /-- PHASEQ, R349: Reads declaration, arbiter or RDSTAT state. -/
  | phaseq (d : BitVec 4) (sx : BitVec 2)
  /-- TIME, R350: Reads the time base into a register pair. -/
  | time (d : BitVec 4)
  /-- TIMEW, R351: Waits until the time base reaches an absolute value. -/
  | timew (a : BitVec 4)
  /-- MONSET, R352: Configures and restarts a hub monitor. -/
  | monset (a : BitVec 4) (m : BitVec 2)
  /-- MONRD, R352: Reads a hub monitor field. -/
  | monrd (d : BitVec 4) (sx : BitVec 5) (m : BitVec 2)
  /-- TRAP, R378: Stops the strand with cause TRAP and spawns a handler if named. -/
  | trap (imm : BitVec 12)
  /-- BRK, R378: Stops the strand with cause BRK, offers a record and posts an alert. -/
  | brk (imm : BitVec 12)
  /-- HALT, R378: Stops the strand with cause HALT and offers a record. -/
  | halt (imm : BitVec 12)
  /-- ERET, R379: Resumes a stopped strand at its clause, optionally skipping the instruction. -/
  | eret (a : BitVec 4) (sx : BitVec 1)
  /-- ERET_REL, R380: Frees a stopped strand's slot and grants. -/
  | eretRel (a : BitVec 4)
  /-- FREEZE, R381: Asks the dealer to freeze a partition. -/
  | freeze (d : BitVec 4) (a : BitVec 4)
  /-- LAUNCH, R382: Appends a launch record to a launch queue through the serving brick. -/
  | launch (d : BitVec 4) (a : BitVec 4)
  /-- CSRR, R383: Reads a CSR. -/
  | csrr (d : BitVec 4) (c : BitVec 12)
  /-- CSRW, R383: Writes a CSR under its access codes and returns the new value. -/
  | csrw (d : BitVec 4) (a : BitVec 4) (c : BitVec 12)
  /-- CSRS, R383: Sets CSR bits from a mask. -/
  | csrs (d : BitVec 4) (a : BitVec 4) (c : BitVec 12)
  /-- CSRC, R383: Clears CSR bits from a mask, including W1C bits. -/
  | csrc (d : BitVec 4) (a : BitVec 4) (c : BitVec 12)
  /-- HANDLER_SPAWN, R358: A handler strand is spawned the cycle after a strand stops with a trap entry. -/
  | handlerSpawn (c : Nat) (k : Nat)
  /-- CLAUSE_FILL, R41: The fill port copies a clause into a strand's buffer and checks its header. -/
  | clauseFill (c : Nat) (k : Nat)
  /-- SPAWN_GRANT, R85: The spawn queue's head is granted a slot and registers when room exists. -/
  | spawnGrant (c : Nat)
  /-- RESULT_LATENCY_ELAPSED, R93: An instruction's result latency elapses, clearing its scoreboard entries and setting flags. -/
  | resultLatencyElapsed (c : Nat) (k : Nat)
  /-- SLEEP_END, R102: A sleeping strand's count expires and it becomes ready. -/
  | sleepEnd (c : Nat) (k : Nat)
  /-- TIMEW_EXPIRY, R351: The time base reaches a waiting TIMEW's target. -/
  | timewExpiry (c : Nat) (k : Nat)
  /-- IDLE_FLIT, R161: A router sends an idle flit carrying returned credits, at least every 16 mesh cycles. -/
  | idleFlit (c : Nat) (p : Nat)
  /-- MESSAGE_INJECT, R181: A queued message passes from the injection buffer into the router when credit allows. -/
  | messageInject (c : Nat)
  /-- HEAD_FLIT_ARRIVAL, R167: A message arrives at a router input and is routed, multicast or discarded. -/
  | headFlitArrival (c : Nat) (p : Nat) (ch : Nat)
  /-- TRIGGER_ACTION, R175: A message reaching a core is deposited, spawns, stands for a wake or faults. -/
  | triggerAction (c : Nat) (ch : Nat)
  /-- ADD_BLOCK, R189: A trick unit adds an arriving contribution, renormalising if it overflows. -/
  | addBlock (c : Nat) (p : Nat) (ch : Nat)
  /-- ON_RENORM, R189: A RENORM from a child raises a slot's exponent and is forwarded. -/
  | onRenorm (c : Nat) (p : Nat) (ch : Nat)
  /-- ON_COMPLETE, R189: Four mesh cycles after all arcs complete, a unit forwards its sum or the root delivers and settles. -/
  | onComplete (c : Nat) (ch : Nat)
  /-- ON_SETTLE, R189: A SETTLE from the parent sets final exponents and returns the unit to idle. -/
  | onSettle (c : Nat) (p : Nat) (ch : Nat)
  /-- CONFIG_CLASS_MESSAGE, R173: A configuration or freeze message arrives at a core's configuration port. -/
  | configClassMessage (c : Nat)
  /-- SPLICE_ACCEPT, R106: A core with splice flag set and no predecessor strand accepts the successor. -/
  | spliceAccept (c : Nat)
  /-- GMMA_STEP, R234: A GMMA k-step begins once its tiles have arrived and the array is free. -/
  | gmmaStep (c : Nat) (k : Nat)
  /-- DRAIN_M_WRITE, R237: At issue plus 12 the data port performs a DRAIN.M's writes. -/
  | drainMWrite (c : Nat) (k : Nat)
  /-- COPY_COMPLETE, R154: The copy engine finishes a copy and sets its tag. -/
  | copyComplete (c : Nat)
  /-- SENDB_COMPLETE, R201: The last flit of a SENDB enters the router and its tag is set. -/
  | sendbComplete (c : Nat)
  /-- SPBIND_REPLY, R284: The brick's reply binds the slot or frees it. -/
  | spbindReply (c : Nat) (n : Nat)
  /-- SPINDLE_UNIT_REQUEST, R276: A running round's spindle requests its next unit. -/
  | spindleUnitRequest (c : Nat) (n : Nat)
  /-- EDGE_REQUEST_ARRIVAL, R261: An edge request reaches its serving brick and is translated and forwarded. -/
  | edgeRequestArrival (id : Nat)
  /-- HOME_ACCESS, R295: An edge access is performed at its home brick, including watch compares. -/
  | homeAccess (id : Nat)
  /-- UNIT_REPLY, R276: A round unit's reply lands or completes, advancing FILL, faulting or ending the round. -/
  | unitReply (id : Nat)
  /-- ELD_RETURN, R289: An ELD's data land in its reserved bobbin range and its tag sets. -/
  | eldReturn (id : Nat)
  /-- EST_COMPLETE, R290: An EST's bytes are performed at their home and its tag sets. -/
  | estComplete (id : Nat)
  /-- EWATCH_ARM, R291: A watch is armed at its home brick and compares the word once. -/
  | ewatchArm (id : Nat)
  /-- ATOMIC_REPLY, R301: An atomic's reply reaches the core, writing the result or faulting. -/
  | atomicReply (id : Nat)
  /-- WINDOW_CLOSE, R306: At window w+8's close a home performs window w's EATOMSCs in key order. -/
  | windowClose (b : Nat) (win : Nat)
  /-- ATOMIC_LINE_WRITEBACK, R304: An atomic-unit line is written back 65,536 mesh cycles after its last atomic. -/
  | atomicLineWriteback (b : Nat) (line : Nat)
  /-- HOST_READ, R265: A host reads edge memory through CXL.mem. -/
  | hostRead (port : Nat) (pa : Nat) (len : Nat)
  /-- HOST_WRITE, R265: A host writes edge memory through CXL.mem. -/
  | hostWrite (port : Nat) (pa : Nat) (bytes : List (BitVec 8))
  /-- EFENCE_CLEAR, R299: A fence clears once every earlier edge request of its strand is complete. -/
  | efenceClear (c : Nat) (k : Nat)
  /-- CJOIN_REL_SEND, R313: A held .rel arrival is sent once earlier edge requests complete. -/
  | cjoinRelSend (c : Nat) (k : Nat)
  /-- CATOM_PERFORM, R310: The hub performs a CATOM request in arrival order. -/
  | catomPerform (h : Nat)
  /-- JOIN_ARRIVAL, R312: The hub counts a join arrival and fires the join when COUNT reaches N. -/
  | joinArrival (h : Nat)
  /-- JOIN_FIRE, R312: A join fire reaches a core and releases waiting strands. -/
  | joinFire (c : Nat) (j : Nat)
  /-- FAULT_OFFER, R361: A core's fault-record offer reaches the hub and is accepted or refused. -/
  | faultOffer (h : Nat)
  /-- FAULT_REOFFER, R361: A refused offer is made again after 256 core cycles. -/
  | faultReoffer (c : Nat)
  /-- FAULT_RECORD_WRITE, R362: A hub, brick or sequencer writes a fault record to the partition queue. -/
  | faultRecordWrite (src : Nat)
  /-- FQHEAD_WRITE, R362: Software advances FQHEAD and record writers resume. -/
  | fqheadWrite (part : Nat) (v : Nat)
  /-- MQHEAD_WRITE, R281: Software advances MQHEAD, clearing QUEUED and scanning saturated counters. -/
  | mqheadWrite (b : Nat) (v : Nat)
  /-- MIGCTL_WRITE, R282: A write to MIGCTL sets counting and clears MISSED. -/
  | migctlWrite (b : Nat) (v : Nat)
  /-- QUEUE_DESCRIPTOR_WRITE, R368: A queue descriptor write updates the bricks and triggers a selection. -/
  | queueDescriptorWrite (q : Nat) (half : Nat) (v : BitVec 64)
  /-- BOOTCFG_WRITE, R392: A BOOTCFG write is stored to both flash devices for the next boot. -/
  | bootcfgWrite (v : BitVec 32)
  /-- OCAUSE_WRITE, R345: Writing 1 to OC clears the over-current latch. -/
  | ocauseWrite (v : BitVec 32)
  /-- NL_COUNTER_WRITE, R333: A write of any value clears a Nirber port counter. -/
  | nlCounterWrite (b : Nat) (p : Nat) (n : Nat)
  /-- REGISTER_WRITE, R384: A management-window write to a register without behaviour of its own. -/
  | registerWrite (port : Nat) (off : Nat) (len : Nat) (v : BitVec 64)
  /-- ETINV, R271: Drops matching lookaside entries in every brick and reports completion. -/
  | etinv
  /-- RETRY, R385: Resumes a context save stalled with SAVEF. -/
  | retry
  /-- MAPCOMMIT, R403: Commits the swept salvage map to copies A and B. -/
  | mapcommit
  /-- ABORT, R385: Stops a partition at once, fails its record with cause 8 and frees it. -/
  | abort
  /-- RELEASE, R385: Frees a stopped strand of a partition as ERET.REL does. -/
  | release
  /-- DEALER_SELECTION, R368: On a tail change, skein end or descriptor write the dealer selects a ready record. -/
  | dealerSelection
  /-- LAUNCH_LOAD, R23: The dealer checks, programs and deals a launch, resume or splice onto a partition. -/
  | launchLoad
  /-- EXIT_REPORT, R370: A core with no strands and nothing outstanding reports exit to its hub. -/
  | exitReport (c : Nat)
  /-- DRAIN_PROBE, R370: The dealer probes a partition for flits and ends the skein when none remain. -/
  | drainProbe (part : Nat)
  /-- FREEZE_WAVE, R372: A hub sends freeze to its cores and routers and stops accepting requests. -/
  | freezeWave (h : Nat)
  /-- ROUTER_DRAINED, R372: A router reports drained after 16 quiet mesh cycles. -/
  | routerDrained (c : Nat)
  /-- CORE_QUIESCENT, R372: A core finishes in-flight work, freezes its strands and reports quiescent. -/
  | coreQuiescent (c : Nat)
  /-- CONTEXT_SAVE, R374: The hub's context-save engine writes the cluster segment to the save area. -/
  | contextSave (h : Nat)
  /-- FREEZE_COMPLETE, R372: Once every hub has saved, the dealer marks the record frozen and frees the rectangle. -/
  | freezeComplete (part : Nat)
  /-- INRUSH_TOKEN_GRANT, R342: The row pool grants a core's token request and the gated unit wakes. -/
  | inrushTokenGrant (d : Nat)
  /-- TOKEN_RETURN, R341: Tokens return to the pool 64 domain cycles after their grant. -/
  | tokenReturn (d : Nat)
  /-- UNIT_GATE, R341: An idle vector or tensor unit gates after its idle count expires. -/
  | unitGate (c : Nat) (u : Nat)
  /-- PHASE_REPLY, R338: The arbiter's reply writes the start offset and admits the declaration. -/
  | phaseReply (c : Nat) (k : Nat)
  /-- ARBITER_SLOT_END, R339: At a slot's end the arbiter admits that slot's requests in order. -/
  | arbiterSlotEnd (d : Nat)
  /-- DECLARATION_START, R338: A declaration becomes active at its start cycle. -/
  | declarationStart (c : Nat) (k : Nat)
  /-- DECLARATION_END, R338: A declaration ends after length x 256 domain cycles. -/
  | declarationEnd (c : Nat) (k : Nat)
  /-- DROOP_ALARM, R344: A hub droop alarm starts a clock stretch on every core of the cluster. -/
  | droopAlarm (h : Nat) (mv : Nat)
  /-- STRETCH_END, R344: The stretch count expires and the halved-issue window begins. -/
  | stretchEnd (c : Nat)
  /-- HALVED_WINDOW_END, R344: The halved-issue window count expires and full issue resumes. -/
  | halvedWindowEnd (c : Nat)
  /-- OVER_CURRENT_ALARM, R345: A regulator over-current withdraws boost, holds domains at ÷2 and latches OCAUSE. -/
  | overCurrentAlarm (reticle : Nat)
  /-- OC_HOLD_END, R345: The 1 ms over-current hold expires and OCLIM clears. -/
  | ocHoldEnd (reticle : Nat)
  /-- GRANT_CHANGE, R335: A row domain's divider or boost grant changes at a clock edge. -/
  | grantChange (d : Nat)
  /-- BOOST_SUPPLY_SETTLED, R335: The raised supply settles and the domain switches to boost clock. -/
  | boostSupplySettled (d : Nat)
  /-- REFERENCE_LOSS, R337: The leader loses the reference and the time base free-runs. -/
  | referenceLoss
  /-- REFERENCE_RETURN, R337: The reference returns and the time base starts slewing. -/
  | referenceReturn (phase : Int)
  /-- SLEW_COMPLETE, R337: The time base's phase error reaches zero and SLEW clears. -/
  | slewComplete
  /-- COLL_MATCH, R317: Sequencers exchange match flits and check group entries before a collective. -/
  | collMatch (id : Nat)
  /-- COLL_CHUNK_STEP, R322: A sequencer runs one chunk of a collective step. -/
  | collChunkStep (id : Nat) (b : Nat)
  /-- COLL_COMPLETE, R324: A participant's receive buffer is complete and its tag sets. -/
  | collComplete (id : Nat) (c : Nat)
  /-- NIRBER_FLIT_RECEIVE, R332: A Nirber flit arrives and is delivered, acked or naked. -/
  | nirberFlitReceive (b : Nat) (p : Nat) (bytes : List (BitVec 8))
  /-- NIRBER_REPLAY_TIMEOUT, R332: An unacknowledged flit held 2 µs triggers a replay. -/
  | nirberReplayTimeout (b : Nat) (p : Nat)
  /-- NIRBER_RETRAIN, R332: After 16 replays without progress the port retrains. -/
  | nirberRetrain (b : Nat) (p : Nat)
  /-- RETRAIN_TIMEOUT, R332: A retrain not complete within 10 ms leaves the port down. -/
  | retrainTimeout (b : Nat) (p : Nat)
  /-- NIRBER_LINK_TRAINING, R330: A Nirber port trains its lanes and checks its peer's rail. -/
  | nirberLinkTraining (b : Nat) (p : Nat) (lanes : Nat)
  /-- CXL_LINK_TRAINING, R264: A CXL port trains and enumerates or is left untrained. -/
  | cxlLinkTraining (b : Nat) (p : Nat) (kind : Nat)
  /-- HEARTBEAT, R400: The leader sends a heartbeat with its dealer checkpoint every 1 ms. -/
  | heartbeat
  /-- HEARTBEAT_MISS, R400: After three missed heartbeats a standby claims and takes over leadership. -/
  | heartbeatMiss (n : Nat)
  /-- POWER_ON, R401: Power applied: self-test, election, map verification or salvage, placement and boot. -/
  | powerOn (stage : Nat)
  /-- DISCOVERY_FLIT, R401: The discovery flood reaches a router, which latches coordinates and forwards it. -/
  | discoveryFlit (x : Nat) (y : Nat)
  /-- TRANSIENT_ERROR, R404: An operation succeeds on its one retry and the error is logged. -/
  | transientError (site : Nat) (kind : Nat)
  /-- CONTROL_REPLY_TIMEOUT, R404: A missed control-network reply is resent after 64 hub cycles. -/
  | controlReplyTimeout (c : Nat)
  /-- LASTING_FAILURE, R405: A lasting failure freezes affected partitions, updates the map, remaps and resumes. -/
  | lastingFailure (site : Nat) (kind : Nat)
  /-- HUB_REQUEST_ARRIVAL, R310: A CJOIN.CFG, CJQ, MONSET, MONRD or hub CSR request reaches the hub over the control network and the hub acts on it in arrival order. -/
  | hubRequestArrival (h : Nat)
  /-- HUB_REPLY_ARRIVAL, R310: A hub reply or acknowledgement reaches the core, writing a pending CJOIN, CJQ, MONRD or hub CSR result, making a CJOIN.CFG or hub CSR write strand eligible, or removing an accepted report from the report buffer. -/
  | hubReplyArrival (c : Nat)
  /-- FREEZE_ANSWER, R381: The dealer's answer to a FREEZE arrives over the management network and writes g[d] with 0, 1, 2 or 3. -/
  | freezeAnswer (c : Nat) (k : Nat)
  /-- COLL_ABORT_DONE, R329: Once every brick has stopped a collective that COLL.X aborted, the collective's tags become faulted with COLLX subcode 4. -/
  | collAbortDone (id : Nat)
  /-- POWER_REMOVAL, R391: Power is removed from the module, losing all state except flash copies, fuses and nothing else, including the ST fields. -/
  | powerRemoval
  deriving DecidableEq, Repr

end Sys2Proof
end

