-- ==== Sys2Proof/Decode.lean ====
section
/-! DEFINITION. Decoding of instruction words (02 R27-R33), total on any bytes and rejecting by name, the encoder
written from the same tables, and the operand conditions of R32. -/

namespace Sys2Proof

/-- The `len` bits of `w` from bit `lo` up. -/
def slice (w : BitVec 32) (lo len : Nat) : BitVec len := BitVec.ofNat len (w.toNat / 2 ^ lo)

/-- The 32-bit word of a sum of placed fields. -/
def word (n : Nat) : BitVec 32 := BitVec.ofNat 32 n

/-- Why a word is no instruction: R32's cases, and the header of R34 (ILLCL subcode 1 when issued, R33). -/
inductive Reject where
  /-- Major 0x00 or 0x3F. -/
  | illegalMajor
  /-- A major Table 2.2 reserves. -/
  | reservedMajor
  /-- Major 0x3E, a clause header. -/
  | clauseHeader
  /-- The owning chapter assigns no such function code, or a field that must be zero is not. -/
  | unassigned
  /-- Fewer than four bytes. -/
  | truncated
  deriving DecidableEq, Repr

/-- The rows of major 0x01 (R96 on): the fixed fields select the row. -/
def decodeMajor01 (w : BitVec 32) : Option Instr :=
  if slice w 22 4 = 0#4 then some (.bra (slice w 0 22))
  else if slice w 22 4 = 8#4 then some (.bal (slice w 0 22))
  else none

/-- The rows of major 0x02 (R97 on): the fixed fields select the row. -/
def decodeMajor02 (w : BitVec 32) : Option Instr :=
  if slice w 22 4 = 0#4 then some (.beq (slice w 18 4) (slice w 14 4) (slice w 0 14))
  else if slice w 22 4 = 1#4 then some (.bne (slice w 18 4) (slice w 14 4) (slice w 0 14))
  else if slice w 22 4 = 2#4 then some (.blt (slice w 18 4) (slice w 14 4) (slice w 0 14))
  else if slice w 22 4 = 3#4 then some (.bge (slice w 18 4) (slice w 14 4) (slice w 0 14))
  else if slice w 22 4 = 4#4 then some (.blo (slice w 18 4) (slice w 14 4) (slice w 0 14))
  else if slice w 22 4 = 5#4 then some (.bhs (slice w 18 4) (slice w 14 4) (slice w 0 14))
  else if slice w 14 4 = 0#4 ∧ slice w 22 4 = 6#4 then some (.bz (slice w 18 4) (slice w 0 14))
  else if slice w 14 4 = 0#4 ∧ slice w 22 4 = 7#4 then some (.bnz (slice w 18 4) (slice w 0 14))
  else none

/-- The rows of major 0x03 (R98 on): the fixed fields select the row. -/
def decodeMajor03 (w : BitVec 32) : Option Instr :=
  if slice w 16 10 = 0#10 then some (.jmp (slice w 12 4) (slice w 0 12))
  else if slice w 20 6 = 1#6 then some (.jal (slice w 16 4) (slice w 12 4) (slice w 0 12))
  else if slice w 12 4 = 0#4 ∧ slice w 20 6 = 2#6 then some (.loop (slice w 16 4) (slice w 0 12))
  else none

/-- The rows of major 0x04 (R100 on): the fixed fields select the row. -/
def decodeMajor04 (w : BitVec 32) : Option Instr :=
  if slice w 0 26 = 0#26 then some (.nop)
  else if slice w 0 26 = 1048576#26 then some (.yield)
  else if slice w 16 10 = 32#10 then some (.sleep (slice w 12 4) (slice w 0 12))
  else if slice w 0 12 = 0#12 ∧ slice w 20 6 = 3#6 then some (.waitm (slice w 16 4) (slice w 12 4))
  else if slice w 5 7 = 0#7 ∧ slice w 20 6 = 4#6 then some (.spawn (slice w 16 4) (slice w 12 4) (slice w 4 1) (slice w 0 4))
  else if slice w 0 26 = 5242880#26 then some (.exit)
  else if slice w 0 26 = 6291456#26 then some (.exitSplice)
  else if slice w 0 4 = 0#4 ∧ slice w 20 6 = 7#6 then some (.sel (slice w 16 4) (slice w 12 4) (slice w 8 4) (slice w 4 4))
  else none

/-- The rows of major 0x08 (R108 on): the fixed fields select the row. -/
def decodeMajor08 (w : BitVec 32) : Option Instr :=
  if slice w 0 14 = 0#14 then some (.add (slice w 22 4) (slice w 18 4) (slice w 14 4))
  else if slice w 0 14 = 256#14 then some (.sub (slice w 22 4) (slice w 18 4) (slice w 14 4))
  else if slice w 0 14 = 512#14 then some (.and (slice w 22 4) (slice w 18 4) (slice w 14 4))
  else if slice w 0 14 = 768#14 then some (.or (slice w 22 4) (slice w 18 4) (slice w 14 4))
  else if slice w 0 14 = 1024#14 then some (.xor (slice w 22 4) (slice w 18 4) (slice w 14 4))
  else if slice w 0 14 = 1280#14 then some (.andn (slice w 22 4) (slice w 18 4) (slice w 14 4))
  else if slice w 0 14 = 1536#14 then some (.shl (slice w 22 4) (slice w 18 4) (slice w 14 4))
  else if slice w 0 14 = 1792#14 then some (.shr (slice w 22 4) (slice w 18 4) (slice w 14 4))
  else if slice w 0 14 = 2048#14 then some (.sar (slice w 22 4) (slice w 18 4) (slice w 14 4))
  else if slice w 0 14 = 2304#14 then some (.rol (slice w 22 4) (slice w 18 4) (slice w 14 4))
  else if slice w 0 14 = 2560#14 then some (.slt (slice w 22 4) (slice w 18 4) (slice w 14 4))
  else if slice w 0 14 = 2816#14 then some (.sltu (slice w 22 4) (slice w 18 4) (slice w 14 4))
  else if slice w 0 14 = 3072#14 then some (.min (slice w 22 4) (slice w 18 4) (slice w 14 4))
  else if slice w 0 14 = 3328#14 then some (.max (slice w 22 4) (slice w 18 4) (slice w 14 4))
  else if slice w 0 14 = 3584#14 then some (.minu (slice w 22 4) (slice w 18 4) (slice w 14 4))
  else if slice w 0 14 = 3840#14 then some (.maxu (slice w 22 4) (slice w 18 4) (slice w 14 4))
  else if slice w 0 18 = 4096#18 then some (.clz (slice w 22 4) (slice w 18 4))
  else if slice w 0 18 = 4352#18 then some (.ctz (slice w 22 4) (slice w 18 4))
  else if slice w 0 18 = 4608#18 then some (.popc (slice w 22 4) (slice w 18 4))
  else none

/-- The rows of major 0x09 (R109 on): the fixed fields select the row. -/
def decodeMajor09 (w : BitVec 32) : Option Instr :=
  if slice w 16 2 = 0#2 then some (.addi (slice w 22 4) (slice w 18 4) (slice w 0 16))
  else if slice w 16 2 = 1#2 then some (.slti (slice w 22 4) (slice w 18 4) (slice w 0 16))
  else none

/-- The rows of major 0x0A (R109 on): the fixed fields select the row. -/
def decodeMajor0A (w : BitVec 32) : Option Instr :=
  if slice w 16 2 = 0#2 then some (.andi (slice w 22 4) (slice w 18 4) (slice w 0 16))
  else if slice w 16 2 = 1#2 then some (.ori (slice w 22 4) (slice w 18 4) (slice w 0 16))
  else if slice w 16 2 = 2#2 then some (.xori (slice w 22 4) (slice w 18 4) (slice w 0 16))
  else none

/-- The rows of major 0x0B (R109 on): the fixed fields select the row. -/
def decodeMajor0B (w : BitVec 32) : Option Instr :=
  if slice w 5 13 = 0#13 then some (.shli (slice w 22 4) (slice w 18 4) (slice w 0 5))
  else if slice w 5 13 = 2048#13 then some (.shri (slice w 22 4) (slice w 18 4) (slice w 0 5))
  else if slice w 5 13 = 4096#13 then some (.sari (slice w 22 4) (slice w 18 4) (slice w 0 5))
  else none

/-- The rows of major 0x0C (R109 on): the fixed fields select the row. -/
def decodeMajor0C (w : BitVec 32) : Option Instr :=
  if slice w 16 6 = 0#6 then some (.lui (slice w 22 4) (slice w 0 16))
  else none

/-- The rows of major 0x0D (R110 on): the fixed fields select the row. -/
def decodeMajor0D (w : BitVec 32) : Option Instr :=
  if slice w 0 14 = 0#14 then some (.add64 (slice w 22 4) (slice w 18 4) (slice w 14 4))
  else if slice w 8 6 = 1#6 then some (.addi64 (slice w 22 4) (slice w 18 4) (slice w 14 4) (slice w 0 8))
  else if slice w 4 10 = 32#10 then some (.lea (slice w 22 4) (slice w 18 4) (slice w 14 4) (slice w 3 1) (slice w 0 3))
  else none

/-- The rows of major 0x0E (R111 on): the fixed fields select the row. -/
def decodeMajor0E (w : BitVec 32) : Option Instr :=
  if slice w 0 14 = 0#14 then some (.mul (slice w 22 4) (slice w 18 4) (slice w 14 4))
  else if slice w 0 14 = 256#14 then some (.mulh (slice w 22 4) (slice w 18 4) (slice w 14 4))
  else if slice w 0 14 = 512#14 then some (.mulhu (slice w 22 4) (slice w 18 4) (slice w 14 4))
  else if slice w 0 14 = 768#14 then some (.div (slice w 22 4) (slice w 18 4) (slice w 14 4))
  else if slice w 0 14 = 1024#14 then some (.divu (slice w 22 4) (slice w 18 4) (slice w 14 4))
  else if slice w 0 14 = 1280#14 then some (.rem (slice w 22 4) (slice w 18 4) (slice w 14 4))
  else if slice w 0 14 = 1536#14 then some (.remu (slice w 22 4) (slice w 18 4) (slice w 14 4))
  else none

/-- The rows of major 0x0F (R112 on): the fixed fields select the row. -/
def decodeMajor0F (w : BitVec 32) : Option Instr :=
  if slice w 11 1 = 0#1 ∧ slice w 20 6 = 0#6 then some (.bfx (slice w 16 4) (slice w 12 4) (slice w 10 1) (slice w 5 5) (slice w 0 5))
  else if slice w 10 2 = 0#2 ∧ slice w 20 6 = 1#6 then some (.bfi (slice w 16 4) (slice w 12 4) (slice w 5 5) (slice w 0 5))
  else none

/-- The rows of major 0x10 (R113 on): the fixed fields select the row. -/
def decodeMajor10 (w : BitVec 32) : Option Instr :=
  if slice w 3 11 = 0#11 then some (.fadd (slice w 22 4) (slice w 18 4) (slice w 14 4) (slice w 0 3))
  else if slice w 3 11 = 32#11 then some (.fsub (slice w 22 4) (slice w 18 4) (slice w 14 4) (slice w 0 3))
  else if slice w 3 11 = 64#11 then some (.fmul (slice w 22 4) (slice w 18 4) (slice w 14 4) (slice w 0 3))
  else if slice w 3 11 = 96#11 then some (.fma (slice w 22 4) (slice w 18 4) (slice w 14 4) (slice w 0 3))
  else if slice w 0 14 = 1024#14 then some (.fmin (slice w 22 4) (slice w 18 4) (slice w 14 4))
  else if slice w 0 14 = 1280#14 then some (.fmax (slice w 22 4) (slice w 18 4) (slice w 14 4))
  else if slice w 0 18 = 1536#18 then some (.fabs (slice w 22 4) (slice w 18 4))
  else if slice w 0 18 = 1792#18 then some (.fneg (slice w 22 4) (slice w 18 4))
  else if slice w 3 11 = 256#11 then some (.fcmp (slice w 22 4) (slice w 18 4) (slice w 14 4) (slice w 0 3))
  else if slice w 3 11 = 288#11 then some (.fdiv (slice w 22 4) (slice w 18 4) (slice w 14 4) (slice w 0 3))
  else if slice w 3 15 = 320#15 then some (.fsqrt (slice w 22 4) (slice w 18 4) (slice w 0 3))
  else none

/-- The rows of major 0x11 (R116 on): the fixed fields select the row. -/
def decodeMajor11 (w : BitVec 32) : Option Instr :=
  if slice w 3 5 = 0#5 ∧ slice w 14 4 = 0#4 then some (.fcvt (slice w 22 4) (slice w 18 4) (slice w 11 3) (slice w 8 3) (slice w 0 3))
  else none

/-- The rows of major 0x14 (R123 on): the fixed fields select the row. -/
def decodeMajor14 (w : BitVec 32) : Option Instr :=
  if slice w 0 5 = 0#5 ∧ slice w 11 3 = 0#3 then some (.vadd (slice w 22 4) (slice w 18 4) (slice w 14 4) (slice w 10 1) (slice w 8 2) (slice w 5 3))
  else if slice w 0 5 = 1#5 ∧ slice w 11 3 = 0#3 then some (.vsub (slice w 22 4) (slice w 18 4) (slice w 14 4) (slice w 10 1) (slice w 8 2) (slice w 5 3))
  else if slice w 0 5 = 2#5 ∧ slice w 11 3 = 0#3 then some (.vmul (slice w 22 4) (slice w 18 4) (slice w 14 4) (slice w 10 1) (slice w 8 2) (slice w 5 3))
  else if slice w 0 5 = 3#5 then some (.vfma (slice w 22 4) (slice w 18 4) (slice w 14 4) (slice w 10 4) (slice w 8 2) (slice w 5 3))
  else if slice w 0 5 = 4#5 ∧ slice w 10 4 = 0#4 then some (.vmin (slice w 22 4) (slice w 18 4) (slice w 14 4) (slice w 8 2) (slice w 5 3))
  else if slice w 0 5 = 5#5 ∧ slice w 10 4 = 0#4 then some (.vmax (slice w 22 4) (slice w 18 4) (slice w 14 4) (slice w 8 2) (slice w 5 3))
  else if slice w 0 5 = 6#5 ∧ slice w 11 7 = 0#7 then some (.vabs (slice w 22 4) (slice w 18 4) (slice w 10 1) (slice w 8 2) (slice w 5 3))
  else if slice w 0 5 = 7#5 ∧ slice w 11 7 = 0#7 then some (.vneg (slice w 22 4) (slice w 18 4) (slice w 10 1) (slice w 8 2) (slice w 5 3))
  else none

/-- The rows of major 0x15 (R124 on): the fixed fields select the row. -/
def decodeMajor15 (w : BitVec 32) : Option Instr :=
  if slice w 0 5 = 0#5 ∧ slice w 10 4 = 0#4 then some (.vand (slice w 22 4) (slice w 18 4) (slice w 14 4) (slice w 8 2) (slice w 5 3))
  else if slice w 0 5 = 1#5 ∧ slice w 10 4 = 0#4 then some (.vor (slice w 22 4) (slice w 18 4) (slice w 14 4) (slice w 8 2) (slice w 5 3))
  else if slice w 0 5 = 2#5 ∧ slice w 10 4 = 0#4 then some (.vxor (slice w 22 4) (slice w 18 4) (slice w 14 4) (slice w 8 2) (slice w 5 3))
  else if slice w 0 5 = 3#5 ∧ slice w 10 4 = 0#4 then some (.vshl (slice w 22 4) (slice w 18 4) (slice w 14 4) (slice w 8 2) (slice w 5 3))
  else if slice w 0 5 = 4#5 ∧ slice w 11 3 = 0#3 then some (.vshr (slice w 22 4) (slice w 18 4) (slice w 14 4) (slice w 10 1) (slice w 8 2) (slice w 5 3))
  else none

/-- The rows of major 0x16 (R125 on): the fixed fields select the row. -/
def decodeMajor16 (w : BitVec 32) : Option Instr :=
  if slice w 0 5 = 0#5 ∧ slice w 24 2 = 0#2 then some (.vcmp (slice w 22 2) (slice w 18 4) (slice w 14 4) (slice w 10 4) (slice w 8 2) (slice w 5 3))
  else if slice w 0 5 = 1#5 ∧ slice w 10 4 = 0#4 then some (.vsel (slice w 22 4) (slice w 18 4) (slice w 14 4) (slice w 8 2) (slice w 5 3))
  else if slice w 0 5 = 2#5 ∧ slice w 10 4 = 0#4 then some (.vshuf (slice w 22 4) (slice w 18 4) (slice w 14 4) (slice w 8 2) (slice w 5 3))
  else none

/-- The rows of major 0x17 (R128 on): the fixed fields select the row. -/
def decodeMajor17 (w : BitVec 32) : Option Instr :=
  if slice w 3 2 = 0#2 ∧ slice w 10 1 = 0#1 ∧ slice w 15 3 = 0#3 then some (.vcvt (slice w 22 4) (slice w 18 4) (slice w 14 1) (slice w 11 3) (slice w 8 2) (slice w 5 3) (slice w 0 3))
  else if slice w 0 5 = 8#5 ∧ slice w 10 1 = 0#1 ∧ slice w 14 4 = 0#4 then some (.vblk (slice w 22 4) (slice w 18 4) (slice w 11 3) (slice w 8 2) (slice w 5 3))
  else if slice w 0 5 = 9#5 then some (.vscl (slice w 22 4) (slice w 18 4) (slice w 10 8) (slice w 8 2) (slice w 5 3))
  else none

/-- The rows of major 0x18 (R131 on): the fixed fields select the row. -/
def decodeMajor18 (w : BitVec 32) : Option Instr :=
  if slice w 0 5 = 0#5 ∧ slice w 10 8 = 0#8 then some (.vmov (slice w 22 4) (slice w 18 4) (slice w 8 2) (slice w 5 3))
  else if slice w 0 5 = 1#5 ∧ slice w 10 8 = 0#8 then some (.vbcast (slice w 22 4) (slice w 18 4) (slice w 8 2) (slice w 5 3))
  else if slice w 0 5 = 2#5 ∧ slice w 8 2 = 0#2 then some (.vins (slice w 22 4) (slice w 18 4) (slice w 10 8) (slice w 5 3))
  else if slice w 0 5 = 3#5 ∧ slice w 8 2 = 0#2 then some (.vext (slice w 22 4) (slice w 18 4) (slice w 10 8) (slice w 5 3))
  else if slice w 0 18 = 4#18 ∧ slice w 24 2 = 0#2 then some (.vmovMg (slice w 22 2) (slice w 18 4))
  else if slice w 0 18 = 5#18 ∧ slice w 20 2 = 0#2 then some (.vmovGm (slice w 22 4) (slice w 18 2))
  else none

/-- The rows of major 0x19 (R132 on): the fixed fields select the row. -/
def decodeMajor19 (w : BitVec 32) : Option Instr :=
  if slice w 0 5 = 0#5 ∧ slice w 10 8 = 0#8 then some (.vrcp (slice w 22 4) (slice w 18 4) (slice w 8 2) (slice w 5 3))
  else if slice w 0 5 = 1#5 ∧ slice w 10 8 = 0#8 then some (.vrsq (slice w 22 4) (slice w 18 4) (slice w 8 2) (slice w 5 3))
  else if slice w 0 5 = 2#5 ∧ slice w 13 5 = 0#5 then some (.vred (slice w 22 4) (slice w 18 4) (slice w 12 1) (slice w 10 2) (slice w 8 2) (slice w 5 3))
  else none

/-- The rows of major 0x1C (R150 on): the fixed fields select the row. -/
def decodeMajor1C (w : BitVec 32) : Option Instr :=
  some (.ld (slice w 22 4) (slice w 18 4) (slice w 16 2) (slice w 0 16))

/-- The rows of major 0x1D (R150 on): the fixed fields select the row. -/
def decodeMajor1D (w : BitVec 32) : Option Instr :=
  some (.st (slice w 22 4) (slice w 18 4) (slice w 16 2) (slice w 0 16))

/-- The rows of major 0x1E (R151 on): the fixed fields select the row. -/
def decodeMajor1E (w : BitVec 32) : Option Instr :=
  if slice w 16 2 = 0#2 then some (.ldv (slice w 22 4) (slice w 18 4) (slice w 3 13) (slice w 0 3))
  else if slice w 16 2 = 2#2 then some (.stv (slice w 22 4) (slice w 18 4) (slice w 3 13) (slice w 0 3))
  else none

/-- The rows of major 0x1F (R153 on): the fixed fields select the row. -/
def decodeMajor1F (w : BitVec 32) : Option Instr :=
  if slice w 16 2 = 0#2 ∧ slice w 25 1 = 0#1 then some (.ldt (slice w 22 3) (slice w 18 4) (slice w 0 16))
  else if slice w 16 2 = 2#2 ∧ slice w 25 1 = 0#1 then some (.stt (slice w 22 3) (slice w 18 4) (slice w 0 16))
  else none

/-- The rows of major 0x20 (R154 on): the fixed fields select the row. -/
def decodeMajor20 (w : BitVec 32) : Option Instr :=
  if slice w 6 8 = 0#8 then some (.copy (slice w 22 4) (slice w 18 4) (slice w 14 4) (slice w 0 6))
  else if slice w 6 8 = 4#8 then some (.copyB (slice w 22 4) (slice w 18 4) (slice w 14 4) (slice w 0 6))
  else if slice w 2 6 = 0#6 ∧ slice w 12 2 = 1#2 then some (.latom (slice w 22 4) (slice w 18 4) (slice w 14 4) (slice w 8 4) (slice w 0 2))
  else none

/-- The rows of major 0x21 (R157 on): the fixed fields select the row. -/
def decodeMajor21 (w : BitVec 32) : Option Instr :=
  if slice w 5 7 = 0#7 ∧ slice w 16 10 = 0#10 then some (.bdecl (slice w 12 4) (slice w 0 5))
  else if slice w 5 7 = 0#7 ∧ slice w 16 10 = 16#10 then some (.bsetEmpty (slice w 12 4) (slice w 0 5))
  else if slice w 5 7 = 1#7 ∧ slice w 16 10 = 16#10 then some (.bsetFull (slice w 12 4) (slice w 0 5))
  else if slice w 5 7 = 2#7 ∧ slice w 16 10 = 16#10 then some (.bsetDrain (slice w 12 4) (slice w 0 5))
  else if slice w 5 7 = 3#7 ∧ slice w 16 10 = 16#10 then some (.bsetRel (slice w 12 4) (slice w 0 5))
  else if slice w 5 7 = 4#7 ∧ slice w 16 10 = 16#10 then some (.bsetUndecl (slice w 12 4) (slice w 0 5))
  else if slice w 6 10 = 0#10 ∧ slice w 20 6 = 2#6 then some (.bqry (slice w 16 4) (slice w 5 1) (slice w 0 5))
  else if slice w 1 11 = 0#11 ∧ slice w 20 6 = 3#6 then some (.twany (slice w 16 4) (slice w 12 4) (slice w 0 1))
  else if slice w 1 11 = 0#11 ∧ slice w 16 10 = 64#10 then some (.twall (slice w 12 4) (slice w 0 1))
  else if slice w 0 12 = 0#12 ∧ slice w 20 6 = 5#6 then some (.tff (slice w 16 4) (slice w 12 4))
  else if slice w 0 12 = 0#12 ∧ slice w 16 10 = 96#10 then some (.tclr (slice w 12 4))
  else none

/-- The rows of major 0x22 (R198 on): the fixed fields select the row. -/
def decodeMajor22 (w : BitVec 32) : Option Instr :=
  if slice w 4 12 = 0#12 then some (.send (slice w 20 6) (slice w 16 4) (slice w 1 3) (slice w 0 1))
  else if slice w 7 13 = 32#13 then some (.sendv (slice w 20 6) (slice w 4 3) (slice w 0 4))
  else if slice w 3 17 = 1024#17 then some (.sendt (slice w 20 6) (slice w 0 3))
  else if slice w 9 7 = 24#7 then some (.sendb (slice w 20 6) (slice w 16 4) (slice w 6 3) (slice w 0 6))
  else if slice w 0 16 = 16384#16 then some (.trig (slice w 20 6) (slice w 16 4))
  else none

/-- The rows of major 0x23 (R203 on): the fixed fields select the row. -/
def decodeMajor23 (w : BitVec 32) : Option Instr :=
  if slice w 0 16 = 0#16 then some (.recv (slice w 20 6) (slice w 16 4))
  else if slice w 4 16 = 256#16 then some (.recvV (slice w 20 6) (slice w 0 4))
  else if slice w 0 16 = 8192#16 then some (.waitch (slice w 20 6) (slice w 16 4))
  else if slice w 0 16 = 12288#16 ∧ slice w 20 6 = 0#6 then some (.join (slice w 16 4))
  else none

/-- The rows of major 0x24 (R207 on): the fixed fields select the row. -/
def decodeMajor24 (w : BitVec 32) : Option Instr :=
  if slice w 0 16 = 0#16 then some (.rcfgR (slice w 20 6) (slice w 16 4))
  else if slice w 0 16 = 4096#16 then some (.rcfgT (slice w 20 6) (slice w 16 4))
  else if slice w 0 16 = 8192#16 then some (.rcfgQr (slice w 20 6) (slice w 16 4))
  else if slice w 0 16 = 12288#16 then some (.rcfgQt (slice w 20 6) (slice w 16 4))
  else if slice w 0 16 = 16384#16 then some (.rred (slice w 20 6) (slice w 16 4))
  else if slice w 4 12 = 1280#12 then some (.rnq (slice w 20 6) (slice w 16 4) (slice w 0 4))
  else if slice w 2 14 = 6144#14 ∧ slice w 20 6 = 0#6 then some (.nbrq (slice w 16 4) (slice w 0 2))
  else if slice w 0 16 = 28672#16 then some (.chflush (slice w 20 6) (slice w 16 4))
  else none

/-- The rows of major 0x28 (R220 on): the fixed fields select the row. -/
def decodeMajor28 (w : BitVec 32) : Option Instr :=
  if slice w 0 12 = 0#12 then some (.tshape (slice w 23 3) (slice w 19 4) (slice w 15 4) (slice w 12 3))
  else if slice w 0 22 = 1#22 then some (.tparm (slice w 22 4))
  else if slice w 0 12 = 2#12 ∧ slice w 15 8 = 0#8 then some (.tzero (slice w 23 3) (slice w 12 3))
  else if slice w 0 15 = 3#15 ∧ slice w 17 9 = 0#9 then some (.accz (slice w 15 2))
  else if slice w 0 17 = 4#17 then some (.tstat (slice w 22 4) (slice w 20 2) (slice w 17 3))
  else none

/-- The rows of major 0x29 (R225 on): the fixed fields select the row. -/
def decodeMajor29 (w : BitVec 32) : Option Instr :=
  if slice w 0 12 = 0#12 then some (.tmovv (slice w 23 3) (slice w 19 4) (slice w 16 3) (slice w 15 1) (slice w 12 3))
  else if slice w 0 12 = 1#12 ∧ slice w 15 5 = 0#5 then some (.tmovt (slice w 23 3) (slice w 20 3) (slice w 12 3))
  else if slice w 0 12 = 2#12 ∧ slice w 15 5 = 0#5 then some (.txp (slice w 23 3) (slice w 20 3) (slice w 12 3))
  else if slice w 0 4 = 3#4 ∧ slice w 7 5 = 0#5 ∧ slice w 15 5 = 0#5 then some (.tblk (slice w 23 3) (slice w 20 3) (slice w 12 3) (slice w 4 3))
  else if slice w 0 4 = 4#4 ∧ slice w 7 2 = 0#2 ∧ slice w 15 5 = 0#5 then some (.tcvt (slice w 23 3) (slice w 20 3) (slice w 12 3) (slice w 9 3) (slice w 4 3))
  else none

/-- The rows of major 0x2A (R229 on): the fixed fields select the row. -/
def decodeMajor2A (w : BitVec 32) : Option Instr :=
  if slice w 0 4 = 0#4 ∧ slice w 6 3 = 0#3 ∧ slice w 23 3 = 0#3 then some (.mma (slice w 20 3) (slice w 17 3) (slice w 15 2) (slice w 12 3) (slice w 9 3) (slice w 5 1) (slice w 4 1))
  else if slice w 0 4 = 1#4 ∧ slice w 6 3 = 0#3 ∧ slice w 23 3 = 0#3 then some (.mmaZ (slice w 20 3) (slice w 17 3) (slice w 15 2) (slice w 12 3) (slice w 9 3) (slice w 5 1) (slice w 4 1))
  else none

/-- The rows of major 0x2B (R233 on): the fixed fields select the row. -/
def decodeMajor2B (w : BitVec 32) : Option Instr :=
  if slice w 0 4 = 0#4 ∧ slice w 7 2 = 0#2 ∧ slice w 17 5 = 0#5 then some (.gmma (slice w 22 4) (slice w 15 2) (slice w 12 3) (slice w 9 3) (slice w 6 1) (slice w 5 1) (slice w 4 1))
  else none

/-- The rows of major 0x2C (R238 on): the fixed fields select the row. -/
def decodeMajor2C (w : BitVec 32) : Option Instr :=
  if slice w 0 8 = 0#8 ∧ slice w 9 3 = 0#3 ∧ slice w 17 6 = 0#6 then some (.drainT (slice w 23 3) (slice w 15 2) (slice w 12 3) (slice w 8 1))
  else if slice w 0 8 = 1#8 ∧ slice w 9 3 = 0#3 ∧ slice w 20 1 = 0#1 then some (.drainV (slice w 22 4) (slice w 21 1) (slice w 17 3) (slice w 15 2) (slice w 12 3) (slice w 8 1))
  else if slice w 0 8 = 2#8 ∧ slice w 9 3 = 0#3 ∧ slice w 17 5 = 0#5 then some (.drainM (slice w 22 4) (slice w 15 2) (slice w 12 3) (slice w 8 1))
  else none

/-- The rows of major 0x30 (R250 on): the fixed fields select the row. -/
def decodeMajor30 (w : BitVec 32) : Option Instr :=
  if slice w 0 4 = 0#4 ∧ slice w 9 3 = 0#3 ∧ slice w 15 5 = 0#5 ∧ slice w 23 3 = 0#3 then some (.sigh (slice w 20 3) (slice w 12 3) (slice w 5 4) (slice w 4 1))
  else if slice w 0 7 = 1#7 ∧ slice w 9 3 = 0#3 ∧ slice w 15 1 = 0#1 then some (.sigb (slice w 23 3) (slice w 20 3) (slice w 16 4) (slice w 12 3) (slice w 7 2))
  else if slice w 0 12 = 1#12 ∧ slice w 15 5 = 1#5 then some (.sigbC (slice w 23 3) (slice w 20 3) (slice w 12 3))
  else none

/-- The rows of major 0x31 (R253 on): the fixed fields select the row. -/
def decodeMajor31 (w : BitVec 32) : Option Instr :=
  if slice w 0 4 = 0#4 ∧ slice w 5 10 = 0#10 ∧ slice w 19 7 = 0#7 then some (.sigx (slice w 17 2) (slice w 15 2) (slice w 4 1))
  else if slice w 0 4 = 1#4 ∧ slice w 5 10 = 0#10 ∧ slice w 19 7 = 0#7 then some (.sigxScale (slice w 17 2) (slice w 15 2) (slice w 4 1))
  else if slice w 0 12 = 2#12 ∧ slice w 15 5 = 0#5 then some (.sigg (slice w 23 3) (slice w 20 3) (slice w 12 3))
  else none

/-- The rows of major 0x32 (R255 on): the fixed fields select the row. -/
def decodeMajor32 (w : BitVec 32) : Option Instr :=
  if slice w 0 22 = 0#22 then some (.sigms (slice w 22 4))
  else if slice w 0 22 = 1#22 then some (.sigml (slice w 22 4))
  else if slice w 0 16 = 2#16 then some (.sigq (slice w 22 4) (slice w 16 6))
  else none

/-- The rows of major 0x34 (R284 on): the fixed fields select the row. -/
def decodeMajor34 (w : BitVec 32) : Option Instr :=
  if slice w 20 6 = 0#6 then some (.spbind (slice w 16 4) (slice w 12 4) (slice w 6 6) (slice w 5 1) (slice w 0 5))
  else if slice w 0 12 = 0#12 ∧ slice w 16 10 = 16#10 then some (.spfree (slice w 12 4))
  else if slice w 6 2 = 0#2 ∧ slice w 20 6 = 2#6 then some (.sprun (slice w 16 4) (slice w 12 4) (slice w 8 4) (slice w 0 6))
  else if slice w 6 2 = 0#2 ∧ slice w 20 6 = 3#6 then some (.sprunW (slice w 16 4) (slice w 12 4) (slice w 8 4) (slice w 0 6))
  else if slice w 4 4 = 0#4 ∧ slice w 16 10 = 64#10 then some (.spset (slice w 12 4) (slice w 8 4) (slice w 0 4))
  else if slice w 6 10 = 0#10 ∧ slice w 20 6 = 5#6 then some (.ecancel (slice w 16 4) (slice w 0 6))
  else if slice w 6 20 = 98304#20 then some (.sprunR (slice w 0 6))
  else none

/-- The rows of major 0x35 (R289 on): the fixed fields select the row. -/
def decodeMajor35 (w : BitVec 32) : Option Instr :=
  if slice w 18 8 = 0#8 then some (.eld (slice w 16 2) (slice w 12 4) (slice w 11 1) (slice w 6 5) (slice w 0 6))
  else if slice w 16 10 = 16#10 then some (.eldB (slice w 12 4) (slice w 11 1) (slice w 6 5) (slice w 0 6))
  else if slice w 6 5 = 0#5 ∧ slice w 20 6 = 2#6 then some (.est (slice w 16 4) (slice w 12 4) (slice w 11 1) (slice w 0 6))
  else if slice w 6 2 = 0#2 ∧ slice w 20 6 = 3#6 then some (.estB (slice w 16 4) (slice w 12 4) (slice w 11 1) (slice w 8 3) (slice w 0 6))
  else if slice w 6 6 = 0#6 ∧ slice w 20 6 = 4#6 then some (.ewatch (slice w 16 4) (slice w 12 4) (slice w 0 6))
  else none

/-- The rows of major 0x36 (R303 on): the fixed fields select the row. -/
def decodeMajor36 (w : BitVec 32) : Option Instr :=
  if slice w 2 6 = 0#6 ∧ slice w 12 2 = 0#2 then some (.eatom (slice w 22 4) (slice w 18 4) (slice w 14 4) (slice w 8 4) (slice w 1 1) (slice w 0 1))
  else if slice w 1 7 = 0#7 ∧ slice w 12 2 = 1#2 then some (.eatomsc (slice w 22 4) (slice w 18 4) (slice w 14 4) (slice w 8 4) (slice w 0 1))
  else if slice w 0 26 = 8192#26 then some (.efence)
  else none

/-- The rows of major 0x37 (R310 on): the fixed fields select the row. -/
def decodeMajor37 (w : BitVec 32) : Option Instr :=
  if slice w 0 7 = 0#7 ∧ slice w 20 6 = 0#6 then some (.catom (slice w 16 4) (slice w 12 4) (slice w 8 4) (slice w 7 1))
  else if slice w 7 9 = 0#9 ∧ slice w 20 6 = 1#6 then some (.cjoin (slice w 16 4) (slice w 6 1) (slice w 5 1) (slice w 0 5))
  else if slice w 5 7 = 0#7 ∧ slice w 16 10 = 32#10 then some (.cjoinCfg (slice w 12 4) (slice w 0 5))
  else if slice w 5 11 = 0#11 ∧ slice w 20 6 = 3#6 then some (.cjq (slice w 16 4) (slice w 0 5))
  else none

/-- The rows of major 0x38 (R328 on): the fixed fields select the row. -/
def decodeMajor38 (w : BitVec 32) : Option Instr :=
  if slice w 0 12 = 0#12 ∧ slice w 16 10 = 0#10 then some (.coll (slice w 12 4))
  else if slice w 6 20 = 16384#20 then some (.collR (slice w 0 6))
  else if slice w 6 20 = 32768#20 then some (.collX (slice w 0 6))
  else if slice w 6 10 = 0#10 ∧ slice w 20 6 = 3#6 then some (.collw (slice w 16 4) (slice w 0 6))
  else if slice w 8 8 = 0#8 ∧ slice w 20 6 = 4#6 then some (.collq (slice w 16 4) (slice w 6 2) (slice w 0 6))
  else none

/-- The rows of major 0x39 (R348 on): the fixed fields select the row. -/
def decodeMajor39 (w : BitVec 32) : Option Instr :=
  if slice w 0 12 = 0#12 ∧ slice w 20 6 = 0#6 then some (.phase (slice w 16 4) (slice w 12 4))
  else if slice w 2 14 = 0#14 ∧ slice w 20 6 = 1#6 then some (.phaseq (slice w 16 4) (slice w 0 2))
  else if slice w 0 16 = 0#16 ∧ slice w 20 6 = 2#6 then some (.time (slice w 16 4))
  else if slice w 0 12 = 0#12 ∧ slice w 16 10 = 48#10 then some (.timew (slice w 12 4))
  else if slice w 2 10 = 0#10 ∧ slice w 16 10 = 64#10 then some (.monset (slice w 12 4) (slice w 0 2))
  else if slice w 2 2 = 0#2 ∧ slice w 9 7 = 0#7 ∧ slice w 20 6 = 5#6 then some (.monrd (slice w 16 4) (slice w 4 5) (slice w 0 2))
  else none

/-- The rows of major 0x3C (R378 on): the fixed fields select the row. -/
def decodeMajor3C (w : BitVec 32) : Option Instr :=
  if slice w 12 14 = 0#14 then some (.trap (slice w 0 12))
  else if slice w 12 14 = 256#14 then some (.brk (slice w 0 12))
  else if slice w 12 14 = 512#14 then some (.halt (slice w 0 12))
  else if slice w 1 11 = 0#11 ∧ slice w 16 10 = 48#10 then some (.eret (slice w 12 4) (slice w 0 1))
  else if slice w 0 12 = 0#12 ∧ slice w 16 10 = 64#10 then some (.eretRel (slice w 12 4))
  else if slice w 0 12 = 0#12 ∧ slice w 20 6 = 5#6 then some (.freeze (slice w 16 4) (slice w 12 4))
  else if slice w 0 12 = 0#12 ∧ slice w 20 6 = 6#6 then some (.launch (slice w 16 4) (slice w 12 4))
  else none

/-- The rows of major 0x3D (R383 on): the fixed fields select the row. -/
def decodeMajor3D (w : BitVec 32) : Option Instr :=
  if slice w 12 4 = 0#4 ∧ slice w 20 6 = 0#6 then some (.csrr (slice w 16 4) (slice w 0 12))
  else if slice w 20 6 = 1#6 then some (.csrw (slice w 16 4) (slice w 12 4) (slice w 0 12))
  else if slice w 20 6 = 2#6 then some (.csrs (slice w 16 4) (slice w 12 4) (slice w 0 12))
  else if slice w 20 6 = 3#6 then some (.csrc (slice w 16 4) (slice w 12 4) (slice w 0 12))
  else none

/-- The opcode-table row whose fixed bits a word has (Table 2.2 and the owning chapters). -/
def decodeRow (w : BitVec 32) : Option Instr :=
  match w.toNat / 67108864 with
  | 1 => decodeMajor01 w
  | 2 => decodeMajor02 w
  | 3 => decodeMajor03 w
  | 4 => decodeMajor04 w
  | 8 => decodeMajor08 w
  | 9 => decodeMajor09 w
  | 10 => decodeMajor0A w
  | 11 => decodeMajor0B w
  | 12 => decodeMajor0C w
  | 13 => decodeMajor0D w
  | 14 => decodeMajor0E w
  | 15 => decodeMajor0F w
  | 16 => decodeMajor10 w
  | 17 => decodeMajor11 w
  | 20 => decodeMajor14 w
  | 21 => decodeMajor15 w
  | 22 => decodeMajor16 w
  | 23 => decodeMajor17 w
  | 24 => decodeMajor18 w
  | 25 => decodeMajor19 w
  | 28 => decodeMajor1C w
  | 29 => decodeMajor1D w
  | 30 => decodeMajor1E w
  | 31 => decodeMajor1F w
  | 32 => decodeMajor20 w
  | 33 => decodeMajor21 w
  | 34 => decodeMajor22 w
  | 35 => decodeMajor23 w
  | 36 => decodeMajor24 w
  | 40 => decodeMajor28 w
  | 41 => decodeMajor29 w
  | 42 => decodeMajor2A w
  | 43 => decodeMajor2B w
  | 44 => decodeMajor2C w
  | 48 => decodeMajor30 w
  | 49 => decodeMajor31 w
  | 50 => decodeMajor32 w
  | 52 => decodeMajor34 w
  | 53 => decodeMajor35 w
  | 54 => decodeMajor36 w
  | 55 => decodeMajor37 w
  | 56 => decodeMajor38 w
  | 57 => decodeMajor39 w
  | 60 => decodeMajor3C w
  | 61 => decodeMajor3D w
  | _ => none

/-- Reads a word as an instruction, or says by name why it is none (R32, Table 2.2). -/
def decode (w : BitVec 32) : Except Reject Instr :=
  match decodeRow w with
  | some i => .ok i
  | none =>
    let m := w.toNat / 67108864
    if m = 0 ∨ m = 0x3F then .error .illegalMajor
    else if m = 0x3E then .error .clauseHeader
    else if m ≤ 4 ∨ (8 ≤ m ∧ m ≤ 0x11) ∨ (0x14 ≤ m ∧ m ≤ 0x19) ∨ (0x1C ≤ m ∧ m ≤ 0x24) ∨ (0x28 ≤ m ∧ m ≤ 0x2C)
        ∨ (0x30 ≤ m ∧ m ≤ 0x32) ∨ (0x34 ≤ m ∧ m ≤ 0x39) ∨ m = 0x3C ∨ m = 0x3D then .error .unassigned
    else .error .reservedMajor

/-- Words are little-endian in memory (R27): the first word of a byte list, and the bytes after it. -/
def decodeBytes : List (BitVec 8) → Except Reject (Instr × List (BitVec 8))
  | b0 :: b1 :: b2 :: b3 :: rest =>
    match decode (b3 ++ b2 ++ b1 ++ b0) with
    | .ok i => .ok (i, rest)
    | .error e => .error e
  | _ => .error .truncated

/-- The word of an instruction, its fields laid where Table 2.1 and the owning chapter put them; an event has no word. -/
def encode : Instr → Option (BitVec 32)
  | .bra o => some (word (0x04000000 + o.toNat))
  | .bal o => some (word (0x06000000 + o.toNat))
  | .beq a b o => some (word (0x08000000 + a.toNat * 262144 + b.toNat * 16384 + o.toNat))
  | .bne a b o => some (word (0x08400000 + a.toNat * 262144 + b.toNat * 16384 + o.toNat))
  | .blt a b o => some (word (0x08800000 + a.toNat * 262144 + b.toNat * 16384 + o.toNat))
  | .bge a b o => some (word (0x08C00000 + a.toNat * 262144 + b.toNat * 16384 + o.toNat))
  | .blo a b o => some (word (0x09000000 + a.toNat * 262144 + b.toNat * 16384 + o.toNat))
  | .bhs a b o => some (word (0x09400000 + a.toNat * 262144 + b.toNat * 16384 + o.toNat))
  | .bz a o => some (word (0x09800000 + a.toNat * 262144 + o.toNat))
  | .bnz a o => some (word (0x09C00000 + a.toNat * 262144 + o.toNat))
  | .jmp a imm => some (word (0x0C000000 + a.toNat * 4096 + imm.toNat))
  | .jal d a imm => some (word (0x0C100000 + d.toNat * 65536 + a.toNat * 4096 + imm.toNat))
  | .loop d imm => some (word (0x0C200000 + d.toNat * 65536 + imm.toNat))
  | .nop => some (word (0x10000000))
  | .yield => some (word (0x10100000))
  | .sleep a imm => some (word (0x10200000 + a.toNat * 4096 + imm.toNat))
  | .waitm d a => some (word (0x10300000 + d.toNat * 65536 + a.toNat * 4096))
  | .spawn d a n e => some (word (0x10400000 + d.toNat * 65536 + a.toNat * 4096 + n.toNat * 16 + e.toNat))
  | .exit => some (word (0x10500000))
  | .exitSplice => some (word (0x10600000))
  | .sel d a b c => some (word (0x10700000 + d.toNat * 65536 + a.toNat * 4096 + b.toNat * 256 + c.toNat * 16))
  | .add d a b => some (word (0x20000000 + d.toNat * 4194304 + a.toNat * 262144 + b.toNat * 16384))
  | .sub d a b => some (word (0x20000100 + d.toNat * 4194304 + a.toNat * 262144 + b.toNat * 16384))
  | .and d a b => some (word (0x20000200 + d.toNat * 4194304 + a.toNat * 262144 + b.toNat * 16384))
  | .or d a b => some (word (0x20000300 + d.toNat * 4194304 + a.toNat * 262144 + b.toNat * 16384))
  | .xor d a b => some (word (0x20000400 + d.toNat * 4194304 + a.toNat * 262144 + b.toNat * 16384))
  | .andn d a b => some (word (0x20000500 + d.toNat * 4194304 + a.toNat * 262144 + b.toNat * 16384))
  | .shl d a b => some (word (0x20000600 + d.toNat * 4194304 + a.toNat * 262144 + b.toNat * 16384))
  | .shr d a b => some (word (0x20000700 + d.toNat * 4194304 + a.toNat * 262144 + b.toNat * 16384))
  | .sar d a b => some (word (0x20000800 + d.toNat * 4194304 + a.toNat * 262144 + b.toNat * 16384))
  | .rol d a b => some (word (0x20000900 + d.toNat * 4194304 + a.toNat * 262144 + b.toNat * 16384))
  | .slt d a b => some (word (0x20000A00 + d.toNat * 4194304 + a.toNat * 262144 + b.toNat * 16384))
  | .sltu d a b => some (word (0x20000B00 + d.toNat * 4194304 + a.toNat * 262144 + b.toNat * 16384))
  | .min d a b => some (word (0x20000C00 + d.toNat * 4194304 + a.toNat * 262144 + b.toNat * 16384))
  | .max d a b => some (word (0x20000D00 + d.toNat * 4194304 + a.toNat * 262144 + b.toNat * 16384))
  | .minu d a b => some (word (0x20000E00 + d.toNat * 4194304 + a.toNat * 262144 + b.toNat * 16384))
  | .maxu d a b => some (word (0x20000F00 + d.toNat * 4194304 + a.toNat * 262144 + b.toNat * 16384))
  | .clz d a => some (word (0x20001000 + d.toNat * 4194304 + a.toNat * 262144))
  | .ctz d a => some (word (0x20001100 + d.toNat * 4194304 + a.toNat * 262144))
  | .popc d a => some (word (0x20001200 + d.toNat * 4194304 + a.toNat * 262144))
  | .addi d a imm => some (word (0x24000000 + d.toNat * 4194304 + a.toNat * 262144 + imm.toNat))
  | .slti d a imm => some (word (0x24010000 + d.toNat * 4194304 + a.toNat * 262144 + imm.toNat))
  | .andi d a imm => some (word (0x28000000 + d.toNat * 4194304 + a.toNat * 262144 + imm.toNat))
  | .ori d a imm => some (word (0x28010000 + d.toNat * 4194304 + a.toNat * 262144 + imm.toNat))
  | .xori d a imm => some (word (0x28020000 + d.toNat * 4194304 + a.toNat * 262144 + imm.toNat))
  | .shli d a n => some (word (0x2C000000 + d.toNat * 4194304 + a.toNat * 262144 + n.toNat))
  | .shri d a n => some (word (0x2C010000 + d.toNat * 4194304 + a.toNat * 262144 + n.toNat))
  | .sari d a n => some (word (0x2C020000 + d.toNat * 4194304 + a.toNat * 262144 + n.toNat))
  | .lui d imm => some (word (0x30000000 + d.toNat * 4194304 + imm.toNat))
  | .add64 d a b => some (word (0x34000000 + d.toNat * 4194304 + a.toNat * 262144 + b.toNat * 16384))
  | .addi64 d a ih il => some (word (0x34000100 + d.toNat * 4194304 + a.toNat * 262144 + ih.toNat * 16384 + il.toNat))
  | .lea d a b sx n => some (word (0x34000200 + d.toNat * 4194304 + a.toNat * 262144 + b.toNat * 16384 + sx.toNat * 8 + n.toNat))
  | .mul d a b => some (word (0x38000000 + d.toNat * 4194304 + a.toNat * 262144 + b.toNat * 16384))
  | .mulh d a b => some (word (0x38000100 + d.toNat * 4194304 + a.toNat * 262144 + b.toNat * 16384))
  | .mulhu d a b => some (word (0x38000200 + d.toNat * 4194304 + a.toNat * 262144 + b.toNat * 16384))
  | .div d a b => some (word (0x38000300 + d.toNat * 4194304 + a.toNat * 262144 + b.toNat * 16384))
  | .divu d a b => some (word (0x38000400 + d.toNat * 4194304 + a.toNat * 262144 + b.toNat * 16384))
  | .rem d a b => some (word (0x38000500 + d.toNat * 4194304 + a.toNat * 262144 + b.toNat * 16384))
  | .remu d a b => some (word (0x38000600 + d.toNat * 4194304 + a.toNat * 262144 + b.toNat * 16384))
  | .bfx d a x p w => some (word (0x3C000000 + d.toNat * 65536 + a.toNat * 4096 + x.toNat * 1024 + p.toNat * 32 + w.toNat))
  | .bfi d a p w => some (word (0x3C100000 + d.toNat * 65536 + a.toNat * 4096 + p.toNat * 32 + w.toNat))
  | .fadd d a b m => some (word (0x40000000 + d.toNat * 4194304 + a.toNat * 262144 + b.toNat * 16384 + m.toNat))
  | .fsub d a b m => some (word (0x40000100 + d.toNat * 4194304 + a.toNat * 262144 + b.toNat * 16384 + m.toNat))
  | .fmul d a b m => some (word (0x40000200 + d.toNat * 4194304 + a.toNat * 262144 + b.toNat * 16384 + m.toNat))
  | .fma d a b m => some (word (0x40000300 + d.toNat * 4194304 + a.toNat * 262144 + b.toNat * 16384 + m.toNat))
  | .fmin d a b => some (word (0x40000400 + d.toNat * 4194304 + a.toNat * 262144 + b.toNat * 16384))
  | .fmax d a b => some (word (0x40000500 + d.toNat * 4194304 + a.toNat * 262144 + b.toNat * 16384))
  | .fabs d a => some (word (0x40000600 + d.toNat * 4194304 + a.toNat * 262144))
  | .fneg d a => some (word (0x40000700 + d.toNat * 4194304 + a.toNat * 262144))
  | .fcmp d a b p => some (word (0x40000800 + d.toNat * 4194304 + a.toNat * 262144 + b.toNat * 16384 + p.toNat))
  | .fdiv d a b m => some (word (0x40000900 + d.toNat * 4194304 + a.toNat * 262144 + b.toNat * 16384 + m.toNat))
  | .fsqrt d a m => some (word (0x40000A00 + d.toNat * 4194304 + a.toNat * 262144 + m.toNat))
  | .fcvt d a sx t m => some (word (0x44000000 + d.toNat * 4194304 + a.toNat * 262144 + sx.toNat * 2048 + t.toNat * 256 + m.toNat))
  | .vadd d a b sx k f => some (word (0x50000000 + d.toNat * 4194304 + a.toNat * 262144 + b.toNat * 16384 + sx.toNat * 1024 + k.toNat * 256 + f.toNat * 32))
  | .vsub d a b sx k f => some (word (0x50000001 + d.toNat * 4194304 + a.toNat * 262144 + b.toNat * 16384 + sx.toNat * 1024 + k.toNat * 256 + f.toNat * 32))
  | .vmul d a b sx k f => some (word (0x50000002 + d.toNat * 4194304 + a.toNat * 262144 + b.toNat * 16384 + sx.toNat * 1024 + k.toNat * 256 + f.toNat * 32))
  | .vfma d a b c k f => some (word (0x50000003 + d.toNat * 4194304 + a.toNat * 262144 + b.toNat * 16384 + c.toNat * 1024 + k.toNat * 256 + f.toNat * 32))
  | .vmin d a b k f => some (word (0x50000004 + d.toNat * 4194304 + a.toNat * 262144 + b.toNat * 16384 + k.toNat * 256 + f.toNat * 32))
  | .vmax d a b k f => some (word (0x50000005 + d.toNat * 4194304 + a.toNat * 262144 + b.toNat * 16384 + k.toNat * 256 + f.toNat * 32))
  | .vabs d a sx k f => some (word (0x50000006 + d.toNat * 4194304 + a.toNat * 262144 + sx.toNat * 1024 + k.toNat * 256 + f.toNat * 32))
  | .vneg d a sx k f => some (word (0x50000007 + d.toNat * 4194304 + a.toNat * 262144 + sx.toNat * 1024 + k.toNat * 256 + f.toNat * 32))
  | .vand d a b k f => some (word (0x54000000 + d.toNat * 4194304 + a.toNat * 262144 + b.toNat * 16384 + k.toNat * 256 + f.toNat * 32))
  | .vor d a b k f => some (word (0x54000001 + d.toNat * 4194304 + a.toNat * 262144 + b.toNat * 16384 + k.toNat * 256 + f.toNat * 32))
  | .vxor d a b k f => some (word (0x54000002 + d.toNat * 4194304 + a.toNat * 262144 + b.toNat * 16384 + k.toNat * 256 + f.toNat * 32))
  | .vshl d a b k f => some (word (0x54000003 + d.toNat * 4194304 + a.toNat * 262144 + b.toNat * 16384 + k.toNat * 256 + f.toNat * 32))
  | .vshr d a b x k f => some (word (0x54000004 + d.toNat * 4194304 + a.toNat * 262144 + b.toNat * 16384 + x.toNat * 1024 + k.toNat * 256 + f.toNat * 32))
  | .vcmp d a b p k f => some (word (0x58000000 + d.toNat * 4194304 + a.toNat * 262144 + b.toNat * 16384 + p.toNat * 1024 + k.toNat * 256 + f.toNat * 32))
  | .vsel d a b k f => some (word (0x58000001 + d.toNat * 4194304 + a.toNat * 262144 + b.toNat * 16384 + k.toNat * 256 + f.toNat * 32))
  | .vshuf d a b k f => some (word (0x58000002 + d.toNat * 4194304 + a.toNat * 262144 + b.toNat * 16384 + k.toNat * 256 + f.toNat * 32))
  | .vcvt d a h m k f sx => some (word (0x5C000000 + d.toNat * 4194304 + a.toNat * 262144 + h.toNat * 16384 + m.toNat * 2048 + k.toNat * 256 + f.toNat * 32 + sx.toNat))
  | .vblk d a m k f => some (word (0x5C000008 + d.toNat * 4194304 + a.toNat * 262144 + m.toNat * 2048 + k.toNat * 256 + f.toNat * 32))
  | .vscl d a imm k f => some (word (0x5C000009 + d.toNat * 4194304 + a.toNat * 262144 + imm.toNat * 1024 + k.toNat * 256 + f.toNat * 32))
  | .vmov d a k f => some (word (0x60000000 + d.toNat * 4194304 + a.toNat * 262144 + k.toNat * 256 + f.toNat * 32))
  | .vbcast d a k f => some (word (0x60000001 + d.toNat * 4194304 + a.toNat * 262144 + k.toNat * 256 + f.toNat * 32))
  | .vins d a l f => some (word (0x60000002 + d.toNat * 4194304 + a.toNat * 262144 + l.toNat * 1024 + f.toNat * 32))
  | .vext d a l f => some (word (0x60000003 + d.toNat * 4194304 + a.toNat * 262144 + l.toNat * 1024 + f.toNat * 32))
  | .vmovMg d a => some (word (0x60000004 + d.toNat * 4194304 + a.toNat * 262144))
  | .vmovGm d a => some (word (0x60000005 + d.toNat * 4194304 + a.toNat * 262144))
  | .vrcp d a k f => some (word (0x64000000 + d.toNat * 4194304 + a.toNat * 262144 + k.toNat * 256 + f.toNat * 32))
  | .vrsq d a k f => some (word (0x64000001 + d.toNat * 4194304 + a.toNat * 262144 + k.toNat * 256 + f.toNat * 32))
  | .vred d a sx o k f => some (word (0x64000002 + d.toNat * 4194304 + a.toNat * 262144 + sx.toNat * 4096 + o.toNat * 1024 + k.toNat * 256 + f.toNat * 32))
  | .ld d a sx o => some (word (0x70000000 + d.toNat * 4194304 + a.toNat * 262144 + sx.toNat * 65536 + o.toNat))
  | .st d a sx o => some (word (0x74000000 + d.toNat * 4194304 + a.toNat * 262144 + sx.toNat * 65536 + o.toNat))
  | .ldv d a o f => some (word (0x78000000 + d.toNat * 4194304 + a.toNat * 262144 + o.toNat * 8 + f.toNat))
  | .stv d a o f => some (word (0x78020000 + d.toNat * 4194304 + a.toNat * 262144 + o.toNat * 8 + f.toNat))
  | .ldt t a o => some (word (0x7C000000 + t.toNat * 4194304 + a.toNat * 262144 + o.toNat))
  | .stt t a o => some (word (0x7C020000 + t.toNat * 4194304 + a.toNat * 262144 + o.toNat))
  | .copy d a b k => some (word (0x80000000 + d.toNat * 4194304 + a.toNat * 262144 + b.toNat * 16384 + k.toNat))
  | .copyB d a b k => some (word (0x80000100 + d.toNat * 4194304 + a.toNat * 262144 + b.toNat * 16384 + k.toNat))
  | .latom d a b o w => some (word (0x80001000 + d.toNat * 4194304 + a.toNat * 262144 + b.toNat * 16384 + o.toNat * 256 + w.toNat))
  | .bdecl a n => some (word (0x84000000 + a.toNat * 4096 + n.toNat))
  | .bsetEmpty a n => some (word (0x84100000 + a.toNat * 4096 + n.toNat))
  | .bsetFull a n => some (word (0x84100020 + a.toNat * 4096 + n.toNat))
  | .bsetDrain a n => some (word (0x84100040 + a.toNat * 4096 + n.toNat))
  | .bsetRel a n => some (word (0x84100060 + a.toNat * 4096 + n.toNat))
  | .bsetUndecl a n => some (word (0x84100080 + a.toNat * 4096 + n.toNat))
  | .bqry d h n => some (word (0x84200000 + d.toNat * 65536 + h.toNat * 32 + n.toNat))
  | .twany d a c => some (word (0x84300000 + d.toNat * 65536 + a.toNat * 4096 + c.toNat))
  | .twall a c => some (word (0x84400000 + a.toNat * 4096 + c.toNat))
  | .tff d a => some (word (0x84500000 + d.toNat * 65536 + a.toNat * 4096))
  | .tclr a => some (word (0x84600000 + a.toNat * 4096))
  | .send c sx f h => some (word (0x88000000 + c.toNat * 1048576 + sx.toNat * 65536 + f.toNat * 2 + h.toNat))
  | .sendv c f v => some (word (0x88001000 + c.toNat * 1048576 + f.toNat * 16 + v.toNat))
  | .sendt c t => some (word (0x88002000 + c.toNat * 1048576 + t.toNat))
  | .sendb c sx f k => some (word (0x88003000 + c.toNat * 1048576 + sx.toNat * 65536 + f.toNat * 64 + k.toNat))
  | .trig c sx => some (word (0x88004000 + c.toNat * 1048576 + sx.toNat * 65536))
  | .recv c sx => some (word (0x8C000000 + c.toNat * 1048576 + sx.toNat * 65536))
  | .recvV c v => some (word (0x8C001000 + c.toNat * 1048576 + v.toNat))
  | .waitch c sx => some (word (0x8C002000 + c.toNat * 1048576 + sx.toNat * 65536))
  | .join sx => some (word (0x8C003000 + sx.toNat * 65536))
  | .rcfgR c sx => some (word (0x90000000 + c.toNat * 1048576 + sx.toNat * 65536))
  | .rcfgT c sx => some (word (0x90001000 + c.toNat * 1048576 + sx.toNat * 65536))
  | .rcfgQr c sx => some (word (0x90002000 + c.toNat * 1048576 + sx.toNat * 65536))
  | .rcfgQt c sx => some (word (0x90003000 + c.toNat * 1048576 + sx.toNat * 65536))
  | .rred c sx => some (word (0x90004000 + c.toNat * 1048576 + sx.toNat * 65536))
  | .rnq c sx k => some (word (0x90005000 + c.toNat * 1048576 + sx.toNat * 65536 + k.toNat))
  | .nbrq sx e => some (word (0x90006000 + sx.toNat * 65536 + e.toNat))
  | .chflush c sx => some (word (0x90007000 + c.toNat * 1048576 + sx.toNat * 65536))
  | .tshape t r c f => some (word (0xA0000000 + t.toNat * 8388608 + r.toNat * 524288 + c.toNat * 32768 + f.toNat * 4096))
  | .tparm a => some (word (0xA0000001 + a.toNat * 4194304))
  | .tzero t f => some (word (0xA0000002 + t.toNat * 8388608 + f.toNat * 4096))
  | .accz a => some (word (0xA0000003 + a.toNat * 32768))
  | .tstat d k imm => some (word (0xA0000004 + d.toNat * 4194304 + k.toNat * 1048576 + imm.toNat * 131072))
  | .tmovv t v p d f => some (word (0xA4000000 + t.toNat * 8388608 + v.toNat * 524288 + p.toNat * 65536 + d.toNat * 32768 + f.toNat * 4096))
  | .tmovt t a f => some (word (0xA4000001 + t.toNat * 8388608 + a.toNat * 1048576 + f.toNat * 4096))
  | .txp t a f => some (word (0xA4000002 + t.toNat * 8388608 + a.toNat * 1048576 + f.toNat * 4096))
  | .tblk t a f m => some (word (0xA4000003 + t.toNat * 8388608 + a.toNat * 1048576 + f.toNat * 4096 + m.toNat * 16))
  | .tcvt t a f sx m => some (word (0xA4000004 + t.toNat * 8388608 + a.toNat * 1048576 + f.toNat * 4096 + sx.toNat * 512 + m.toNat * 16))
  | .mma a b c f g y x => some (word (0xA8000000 + a.toNat * 1048576 + b.toNat * 131072 + c.toNat * 32768 + f.toNat * 4096 + g.toNat * 512 + y.toNat * 32 + x.toNat * 16))
  | .mmaZ a b c f g y x => some (word (0xA8000001 + a.toNat * 1048576 + b.toNat * 131072 + c.toNat * 32768 + f.toNat * 4096 + g.toNat * 512 + y.toNat * 32 + x.toNat * 16))
  | .gmma a c f g z y x => some (word (0xAC000000 + a.toNat * 4194304 + c.toNat * 32768 + f.toNat * 4096 + g.toNat * 512 + z.toNat * 64 + y.toNat * 32 + x.toNat * 16))
  | .drainT t c f l => some (word (0xB0000000 + t.toNat * 8388608 + c.toNat * 32768 + f.toNat * 4096 + l.toNat * 256))
  | .drainV v h p c f l => some (word (0xB0000001 + v.toNat * 4194304 + h.toNat * 2097152 + p.toNat * 131072 + c.toNat * 32768 + f.toNat * 4096 + l.toNat * 256))
  | .drainM d c f l => some (word (0xB0000002 + d.toNat * 4194304 + c.toNat * 32768 + f.toNat * 4096 + l.toNat * 256))
  | .sigh a f k c => some (word (0xC0000000 + a.toNat * 1048576 + f.toNat * 4096 + k.toNat * 32 + c.toNat * 16))
  | .sigb t a n f r => some (word (0xC0000001 + t.toNat * 8388608 + a.toNat * 1048576 + n.toNat * 65536 + f.toNat * 4096 + r.toNat * 128))
  | .sigbC t a f => some (word (0xC0008001 + t.toNat * 8388608 + a.toNat * 1048576 + f.toNat * 4096))
  | .sigx sx d z => some (word (0xC4000000 + sx.toNat * 131072 + d.toNat * 32768 + z.toNat * 16))
  | .sigxScale sx d z => some (word (0xC4000001 + sx.toNat * 131072 + d.toNat * 32768 + z.toNat * 16))
  | .sigg t a f => some (word (0xC4000002 + t.toNat * 8388608 + a.toNat * 1048576 + f.toNat * 4096))
  | .sigms a => some (word (0xC8000000 + a.toNat * 4194304))
  | .sigml a => some (word (0xC8000001 + a.toNat * 4194304))
  | .sigq d sx => some (word (0xC8000002 + d.toNat * 4194304 + sx.toNat * 65536))
  | .spbind d a e n b => some (word (0xD0000000 + d.toNat * 65536 + a.toNat * 4096 + e.toNat * 64 + n.toNat * 32 + b.toNat))
  | .spfree a => some (word (0xD0100000 + a.toNat * 4096))
  | .sprun d a sx k => some (word (0xD0200000 + d.toNat * 65536 + a.toNat * 4096 + sx.toNat * 256 + k.toNat))
  | .sprunW d a sx k => some (word (0xD0300000 + d.toNat * 65536 + a.toNat * 4096 + sx.toNat * 256 + k.toNat))
  | .spset a sx e => some (word (0xD0400000 + a.toNat * 4096 + sx.toNat * 256 + e.toNat))
  | .ecancel d k => some (word (0xD0500000 + d.toNat * 65536 + k.toNat))
  | .sprunR k => some (word (0xD0600000 + k.toNat))
  | .eld sx a e b k => some (word (0xD4000000 + sx.toNat * 65536 + a.toNat * 4096 + e.toNat * 2048 + b.toNat * 64 + k.toNat))
  | .eldB a e b k => some (word (0xD4100000 + a.toNat * 4096 + e.toNat * 2048 + b.toNat * 64 + k.toNat))
  | .est d a w k => some (word (0xD4200000 + d.toNat * 65536 + a.toNat * 4096 + w.toNat * 2048 + k.toNat))
  | .estB v a h f k => some (word (0xD4300000 + v.toNat * 65536 + a.toNat * 4096 + h.toNat * 2048 + f.toNat * 256 + k.toNat))
  | .ewatch d a k => some (word (0xD4400000 + d.toNat * 65536 + a.toNat * 4096 + k.toNat))
  | .eatom d a b o sx w => some (word (0xD8000000 + d.toNat * 4194304 + a.toNat * 262144 + b.toNat * 16384 + o.toNat * 256 + sx.toNat * 2 + w.toNat))
  | .eatomsc d a b o w => some (word (0xD8001000 + d.toNat * 4194304 + a.toNat * 262144 + b.toNat * 16384 + o.toNat * 256 + w.toNat))
  | .efence => some (word (0xD8002000))
  | .catom d a o w => some (word (0xDC000000 + d.toNat * 65536 + a.toNat * 4096 + o.toNat * 256 + w.toNat * 128))
  | .cjoin d q r j => some (word (0xDC100000 + d.toNat * 65536 + q.toNat * 64 + r.toNat * 32 + j.toNat))
  | .cjoinCfg a j => some (word (0xDC200000 + a.toNat * 4096 + j.toNat))
  | .cjq d j => some (word (0xDC300000 + d.toNat * 65536 + j.toNat))
  | .coll a => some (word (0xE0000000 + a.toNat * 4096))
  | .collR k => some (word (0xE0100000 + k.toNat))
  | .collX k => some (word (0xE0200000 + k.toNat))
  | .collw d k => some (word (0xE0300000 + d.toNat * 65536 + k.toNat))
  | .collq d sx k => some (word (0xE0400000 + d.toNat * 65536 + sx.toNat * 64 + k.toNat))
  | .phase d a => some (word (0xE4000000 + d.toNat * 65536 + a.toNat * 4096))
  | .phaseq d sx => some (word (0xE4100000 + d.toNat * 65536 + sx.toNat))
  | .time d => some (word (0xE4200000 + d.toNat * 65536))
  | .timew a => some (word (0xE4300000 + a.toNat * 4096))
  | .monset a m => some (word (0xE4400000 + a.toNat * 4096 + m.toNat))
  | .monrd d sx m => some (word (0xE4500000 + d.toNat * 65536 + sx.toNat * 16 + m.toNat))
  | .trap imm => some (word (0xF0000000 + imm.toNat))
  | .brk imm => some (word (0xF0100000 + imm.toNat))
  | .halt imm => some (word (0xF0200000 + imm.toNat))
  | .eret a sx => some (word (0xF0300000 + a.toNat * 4096 + sx.toNat))
  | .eretRel a => some (word (0xF0400000 + a.toNat * 4096))
  | .freeze d a => some (word (0xF0500000 + d.toNat * 65536 + a.toNat * 4096))
  | .launch d a => some (word (0xF0600000 + d.toNat * 65536 + a.toNat * 4096))
  | .csrr d c => some (word (0xF4000000 + d.toNat * 65536 + c.toNat))
  | .csrw d a c => some (word (0xF4100000 + d.toNat * 65536 + a.toNat * 4096 + c.toNat))
  | .csrs d a c => some (word (0xF4200000 + d.toNat * 65536 + a.toNat * 4096 + c.toNat))
  | .csrc d a c => some (word (0xF4300000 + d.toNat * 65536 + a.toNat * 4096 + c.toNat))
  | .handlerSpawn _ _ => none
  | .clauseFill _ _ => none
  | .spawnGrant _ => none
  | .resultLatencyElapsed _ _ => none
  | .sleepEnd _ _ => none
  | .timewExpiry _ _ => none
  | .idleFlit _ _ => none
  | .messageInject _ => none
  | .headFlitArrival _ _ _ => none
  | .triggerAction _ _ => none
  | .addBlock _ _ _ => none
  | .onRenorm _ _ _ => none
  | .onComplete _ _ => none
  | .onSettle _ _ _ => none
  | .configClassMessage _ => none
  | .spliceAccept _ => none
  | .gmmaStep _ _ => none
  | .drainMWrite _ _ => none
  | .copyComplete _ => none
  | .sendbComplete _ => none
  | .spbindReply _ _ => none
  | .spindleUnitRequest _ _ => none
  | .edgeRequestArrival _ => none
  | .homeAccess _ => none
  | .unitReply _ => none
  | .eldReturn _ => none
  | .estComplete _ => none
  | .ewatchArm _ => none
  | .atomicReply _ => none
  | .windowClose _ _ => none
  | .atomicLineWriteback _ _ => none
  | .hostRead _ _ _ => none
  | .hostWrite _ _ _ => none
  | .efenceClear _ _ => none
  | .cjoinRelSend _ _ => none
  | .catomPerform _ => none
  | .joinArrival _ => none
  | .joinFire _ _ => none
  | .faultOffer _ => none
  | .faultReoffer _ => none
  | .faultRecordWrite _ => none
  | .fqheadWrite _ _ => none
  | .mqheadWrite _ _ => none
  | .migctlWrite _ _ => none
  | .queueDescriptorWrite _ _ _ => none
  | .bootcfgWrite _ => none
  | .ocauseWrite _ => none
  | .nlCounterWrite _ _ _ => none
  | .registerWrite _ _ _ _ => none
  | .etinv => none
  | .retry => none
  | .mapcommit => none
  | .abort => none
  | .release => none
  | .dealerSelection => none
  | .launchLoad => none
  | .exitReport _ => none
  | .drainProbe _ => none
  | .freezeWave _ => none
  | .routerDrained _ => none
  | .coreQuiescent _ => none
  | .contextSave _ => none
  | .freezeComplete _ => none
  | .inrushTokenGrant _ => none
  | .tokenReturn _ => none
  | .unitGate _ _ => none
  | .phaseReply _ _ => none
  | .arbiterSlotEnd _ => none
  | .declarationStart _ _ => none
  | .declarationEnd _ _ => none
  | .droopAlarm _ _ => none
  | .stretchEnd _ => none
  | .halvedWindowEnd _ => none
  | .overCurrentAlarm _ => none
  | .ocHoldEnd _ => none
  | .grantChange _ => none
  | .boostSupplySettled _ => none
  | .referenceLoss => none
  | .referenceReturn _ => none
  | .slewComplete => none
  | .collMatch _ => none
  | .collChunkStep _ _ => none
  | .collComplete _ _ => none
  | .nirberFlitReceive _ _ _ => none
  | .nirberReplayTimeout _ _ => none
  | .nirberRetrain _ _ => none
  | .retrainTimeout _ _ => none
  | .nirberLinkTraining _ _ _ => none
  | .cxlLinkTraining _ _ _ => none
  | .heartbeat => none
  | .heartbeatMiss _ => none
  | .powerOn _ => none
  | .discoveryFlit _ _ => none
  | .transientError _ _ => none
  | .controlReplyTimeout _ => none
  | .lastingFailure _ _ => none
  | .hubRequestArrival _ => none
  | .hubReplyArrival _ => none
  | .freezeAnswer _ _ => none
  | .collAbortDone _ => none
  | .powerRemoval => none

/-- The instruction the decoder reads from a word numbered as the opcode table numbers its bits; every row of the
table that has bits has 32 of them. -/
def decodeTableWord (nbits w : Nat) : Option Instr :=
  if nbits = 32 then
    match decodeBytes [BitVec.ofNat 8 w, BitVec.ofNat 8 (w / 256), BitVec.ofNat 8 (w / 65536), BitVec.ofNat 8 (w / 16777216)] with
    | .ok (i, _) => some i
    | .error _ => none
  else none

/-! ### The operand conditions of R32

A word whose row is known still raises ILLOP when a pair field names an odd register, a tag is not accepted, or a field
holds a code its entry reserves. The conditions that depend on the machine's state (R154, R284, R381, R383) are checked by
the meanings. -/

/-- A pair names its even register (R44). -/
def evenReg (r : BitVec 4) : Bool := decide (r.toNat % 2 = 0)
/-- A register quad starts at a multiple of 4 (R288). -/
def quadReg (r : BitVec 4) : Bool := decide (r.toNat % 4 = 0)
/-- The block formats B16, B8 and B4 (Table 3.1). -/
def tagB (f : BitVec 3) : Bool := decide (f.toNat ≤ 2)
/-- B16, B8, B4 and BF16, which tiles hold (R212). -/
def tagTile (f : BitVec 3) : Bool := decide (f.toNat ≤ 3)
/-- Every tag but W16 (Table 3.1). -/
def tagVec (f : BitVec 3) : Bool := f != 7
/-- INT8 and INT32. -/
def tagInt (f : BitVec 3) : Bool := f == 5 || f == 6
/-- FP32 and INT32 have 16 lanes, the other tags 32 (Table 5.7). -/
def lanesOf (f : BitVec 3) : Nat := if f == 4 || f == 6 then 16 else 32
/-- A rounding mode without SR (R64). -/
def modeOk (m : BitVec 3) : Bool := decide (m.toNat ≤ 3)
/-- R123, R133: the saturate bit is for integers only. -/
def satOk (s : BitVec 1) (f : BitVec 3) : Bool := s == 0 || tagInt f
/-- R131: the lane operand of VINS and VEXT. -/
def laneOk (l : BitVec 8) (f : BitVec 3) : Bool := decide (l.toNat < lanesOf f) || (l == 32 && tagB f)

/-- R32's operand conditions of every instruction, with the rule of each entry. An event is no word. -/
def operandsLegal : Instr → Bool
  | .bra _ => true
  | .bal _ => true
  | .beq _ _ _ => true
  | .bne _ _ _ => true
  | .blt _ _ _ => true
  | .bge _ _ _ => true
  | .blo _ _ _ => true
  | .bhs _ _ _ => true
  | .bz _ _ => true
  | .bnz _ _ => true
  | .jmp _ _ => true
  | .jal _ _ _ => true
  | .loop d _ => d != 0
  | .nop => true
  | .yield => true
  | .sleep _ _ => true
  | .waitm _ a => evenReg a
  | .spawn _ _ _ _ => true
  | .exit => true
  | .exitSplice => true
  | .sel _ _ _ _ => true
  | .add _ _ _ => true
  | .sub _ _ _ => true
  | .and _ _ _ => true
  | .or _ _ _ => true
  | .xor _ _ _ => true
  | .andn _ _ _ => true
  | .shl _ _ _ => true
  | .shr _ _ _ => true
  | .sar _ _ _ => true
  | .rol _ _ _ => true
  | .slt _ _ _ => true
  | .sltu _ _ _ => true
  | .min _ _ _ => true
  | .max _ _ _ => true
  | .minu _ _ _ => true
  | .maxu _ _ _ => true
  | .clz _ _ => true
  | .ctz _ _ => true
  | .popc _ _ => true
  | .addi _ _ _ => true
  | .slti _ _ _ => true
  | .andi _ _ _ => true
  | .ori _ _ _ => true
  | .xori _ _ _ => true
  | .shli _ _ _ => true
  | .shri _ _ _ => true
  | .sari _ _ _ => true
  | .lui _ _ => true
  | .add64 d a b => evenReg d && evenReg a && evenReg b
  | .addi64 d a _ _ => evenReg d && evenReg a
  | .lea d a _ _ _ => evenReg d && evenReg a
  | .mul _ _ _ => true
  | .mulh _ _ _ => true
  | .mulhu _ _ _ => true
  | .div _ _ _ => true
  | .divu _ _ _ => true
  | .rem _ _ _ => true
  | .remu _ _ _ => true
  | .bfx _ _ _ p w => decide (p.toNat + w.toNat + 1 ≤ 32)
  | .bfi _ _ p w => decide (p.toNat + w.toNat + 1 ≤ 32)
  | .fadd _ _ _ m => modeOk m
  | .fsub _ _ _ m => modeOk m
  | .fmul _ _ _ m => modeOk m
  | .fma _ _ _ m => modeOk m
  | .fmin _ _ _ => true
  | .fmax _ _ _ => true
  | .fabs _ _ => true
  | .fneg _ _ => true
  | .fcmp _ _ _ p => decide (p.toNat ≤ 4)
  | .fdiv _ _ _ m => modeOk m
  | .fsqrt _ _ m => modeOk m
  | .fcvt _ _ sx t m => decide (3 ≤ sx.toNat) && decide (sx.toNat ≤ 6) && decide (3 ≤ t.toNat) && decide (t.toNat ≤ 6) && modeOk m
  | .vadd _ _ _ sx _ f => tagVec f && satOk sx f
  | .vsub _ _ _ sx _ f => tagVec f && satOk sx f
  | .vmul _ _ _ sx _ f => tagVec f && satOk sx f
  | .vfma _ _ _ _ _ f => tagVec f
  | .vmin _ _ _ _ f => tagVec f
  | .vmax _ _ _ _ f => tagVec f
  | .vabs _ _ sx _ f => tagVec f && satOk sx f
  | .vneg _ _ sx _ f => tagVec f && satOk sx f
  | .vand _ _ _ _ f => tagVec f
  | .vor _ _ _ _ f => tagVec f
  | .vxor _ _ _ _ f => tagVec f
  | .vshl _ _ _ _ f => tagVec f
  | .vshr _ _ _ _ _ f => tagVec f
  | .vcmp _ _ _ p _ f => tagVec f && decide (p.toNat ≤ 6)
  | .vsel _ _ _ _ f => tagVec f
  | .vshuf _ _ _ _ f => tagVec f
  | .vcvt _ _ h m _ f sx => tagVec f && tagVec sx && decide (m.toNat ≤ 4) && (h == 0 || lanesOf f != lanesOf sx)
  | .vblk _ _ m _ f => tagB f && modeOk m
  | .vscl _ _ _ _ f => decide (f.toNat ≤ 4)
  | .vmov _ _ _ f => tagVec f
  | .vbcast _ _ _ f => tagVec f
  | .vins _ _ l f => tagVec f && laneOk l f
  | .vext _ _ l f => tagVec f && laneOk l f
  | .vmovMg _ _ => true
  | .vmovGm _ _ => true
  | .vrcp _ _ _ f => f == 3 || f == 4
  | .vrsq _ _ _ f => f == 3 || f == 4
  | .vred _ _ sx o _ f => tagVec f && o != 3 && satOk sx f
  | .ld d _ sx _ => sx != 3 || evenReg d
  | .st d _ sx _ => sx != 3 || evenReg d
  | .ldv _ a _ f => tagVec f && evenReg a
  | .stv _ a _ f => tagVec f && evenReg a
  | .ldt _ _ _ => true
  | .stt _ _ _ => true
  | .copy _ _ _ _ => true
  | .copyB _ _ _ _ => true
  | .latom d _ b o w => decide (o.toNat ≤ 9) && decide (2 ≤ w.toNat) && (w == 2 || (evenReg d && evenReg b))
  | .bdecl _ _ => true
  | .bsetEmpty _ _ => true
  | .bsetFull _ _ => true
  | .bsetDrain _ _ => true
  | .bsetRel _ _ => true
  | .bsetUndecl _ _ => true
  | .bqry _ _ _ => true
  | .twany _ a _ => evenReg a
  | .twall a _ => evenReg a
  | .tff _ a => evenReg a
  | .tclr a => evenReg a
  | .send _ sx f h => (f == 4 || f == 6) && decide (sx.toNat ≤ if h == 0 then 12 else 14)
  | .sendv _ f _ => tagVec f
  | .sendt _ _ => true
  | .sendb _ sx f _ => tagVec f && evenReg sx
  | .trig _ _ => true
  | .recv _ sx => evenReg sx
  | .recvV _ _ => true
  | .waitch _ _ => true
  | .join sx => evenReg sx
  | .rcfgR _ _ => true
  | .rcfgT _ _ => true
  | .rcfgQr _ _ => true
  | .rcfgQt _ _ => true
  | .rred _ _ => true
  | .rnq _ _ _ => true
  | .nbrq _ _ => true
  | .chflush _ _ => true
  | .tshape _ _ _ f => tagTile f
  | .tparm _ => true
  | .tzero _ f => tagTile f
  | .accz _ => true
  | .tstat _ k imm => decide (k.toNat ≤ 2) && (k != 2 || imm == 0)
  | .tmovv _ _ _ _ f => tagTile f
  | .tmovt _ _ f => tagTile f
  | .txp _ _ f => tagTile f
  | .tblk _ _ f m => tagB f && modeOk m
  | .tcvt _ _ f sx m => tagTile f && tagTile sx && modeOk m
  | .mma _ _ _ f g _ _ => tagTile f && tagTile g
  | .mmaZ _ _ _ f g _ _ => tagTile f && tagTile g
  | .gmma _ _ f g _ _ _ => tagTile f && tagTile g
  | .drainT _ _ f _ => tagTile f
  | .drainV _ h _ _ f _ => decide (f.toNat ≤ 4) && (h == 0 || f == 4)
  | .drainM _ _ f _ => decide (f.toNat ≤ 4)
  | .sigh _ f k _ => tagTile f && decide (k.toNat ≤ 11)
  | .sigb _ _ _ f r => tagTile f && r != 3
  | .sigbC _ _ f => tagTile f
  | .sigx _ _ _ => true
  | .sigxScale _ _ _ => true
  | .sigg _ _ f => tagTile f
  | .sigms _ => true
  | .sigml _ => true
  | .sigq _ sx => decide (sx.toNat ≤ 2) || (decide (16 ≤ sx.toNat) && decide (sx.toNat ≤ 47))
  | .spbind _ _ _ _ _ => true
  | .spfree _ => true
  | .sprun _ _ _ _ => true
  | .sprunW _ a _ _ => evenReg a
  | .spset a _ e => evenReg a && decide (e.toNat ≤ 9)
  | .ecancel _ _ => true
  | .sprunR _ => true
  | .eld _ a _ _ _ => evenReg a
  | .eldB a _ _ _ => quadReg a
  | .est d a w _ => evenReg a && (w == 0 || evenReg d)
  | .estB _ a _ f _ => quadReg a && tagB f
  | .ewatch d a _ => evenReg a && evenReg d
  | .eatom d a b o _ w => decide (o.toNat ≤ 9) && evenReg a && (w == 0 || (evenReg d && evenReg b))
  | .eatomsc d a b o w => decide (o.toNat ≤ 9) && evenReg a && (w == 0 || (evenReg d && evenReg b))
  | .efence => true
  | .catom d _ o w => decide (o.toNat ≤ 9) && (if w == 0 then o != 7 || evenReg d else if o == 7 then quadReg d else evenReg d)
  | .cjoin _ _ _ _ => true
  | .cjoinCfg _ _ => true
  | .cjq _ _ => true
  | .coll _ => true
  | .collR _ => true
  | .collX _ => true
  | .collw _ _ => true
  | .collq _ sx _ => sx != 3
  | .phase _ _ => true
  | .phaseq _ sx => sx != 3
  | .time d => evenReg d
  | .timew a => evenReg a
  | .monset _ _ => true
  | .monrd _ sx _ => decide (sx.toNat ≤ 19)
  | .trap _ => true
  | .brk _ => true
  | .halt _ => true
  | .eret _ _ => true
  | .eretRel _ => true
  | .freeze _ _ => true
  | .launch _ a => evenReg a
  | .csrr _ _ => true
  | .csrw _ _ _ => true
  | .csrs _ _ _ => true
  | .csrc _ _ _ => true
  | .handlerSpawn _ _ => true
  | .clauseFill _ _ => true
  | .spawnGrant _ => true
  | .resultLatencyElapsed _ _ => true
  | .sleepEnd _ _ => true
  | .timewExpiry _ _ => true
  | .idleFlit _ _ => true
  | .messageInject _ => true
  | .headFlitArrival _ _ _ => true
  | .triggerAction _ _ => true
  | .addBlock _ _ _ => true
  | .onRenorm _ _ _ => true
  | .onComplete _ _ => true
  | .onSettle _ _ _ => true
  | .configClassMessage _ => true
  | .spliceAccept _ => true
  | .gmmaStep _ _ => true
  | .drainMWrite _ _ => true
  | .copyComplete _ => true
  | .sendbComplete _ => true
  | .spbindReply _ _ => true
  | .spindleUnitRequest _ _ => true
  | .edgeRequestArrival _ => true
  | .homeAccess _ => true
  | .unitReply _ => true
  | .eldReturn _ => true
  | .estComplete _ => true
  | .ewatchArm _ => true
  | .atomicReply _ => true
  | .windowClose _ _ => true
  | .atomicLineWriteback _ _ => true
  | .hostRead _ _ _ => true
  | .hostWrite _ _ _ => true
  | .efenceClear _ _ => true
  | .cjoinRelSend _ _ => true
  | .catomPerform _ => true
  | .joinArrival _ => true
  | .joinFire _ _ => true
  | .faultOffer _ => true
  | .faultReoffer _ => true
  | .faultRecordWrite _ => true
  | .fqheadWrite _ _ => true
  | .mqheadWrite _ _ => true
  | .migctlWrite _ _ => true
  | .queueDescriptorWrite _ _ _ => true
  | .bootcfgWrite _ => true
  | .ocauseWrite _ => true
  | .nlCounterWrite _ _ _ => true
  | .registerWrite _ _ _ _ => true
  | .etinv => true
  | .retry => true
  | .mapcommit => true
  | .abort => true
  | .release => true
  | .dealerSelection => true
  | .launchLoad => true
  | .exitReport _ => true
  | .drainProbe _ => true
  | .freezeWave _ => true
  | .routerDrained _ => true
  | .coreQuiescent _ => true
  | .contextSave _ => true
  | .freezeComplete _ => true
  | .inrushTokenGrant _ => true
  | .tokenReturn _ => true
  | .unitGate _ _ => true
  | .phaseReply _ _ => true
  | .arbiterSlotEnd _ => true
  | .declarationStart _ _ => true
  | .declarationEnd _ _ => true
  | .droopAlarm _ _ => true
  | .stretchEnd _ => true
  | .halvedWindowEnd _ => true
  | .overCurrentAlarm _ => true
  | .ocHoldEnd _ => true
  | .grantChange _ => true
  | .boostSupplySettled _ => true
  | .referenceLoss => true
  | .referenceReturn _ => true
  | .slewComplete => true
  | .collMatch _ => true
  | .collChunkStep _ _ => true
  | .collComplete _ _ => true
  | .nirberFlitReceive _ _ _ => true
  | .nirberReplayTimeout _ _ => true
  | .nirberRetrain _ _ => true
  | .retrainTimeout _ _ => true
  | .nirberLinkTraining _ _ _ => true
  | .cxlLinkTraining _ _ _ => true
  | .heartbeat => true
  | .heartbeatMiss _ => true
  | .powerOn _ => true
  | .discoveryFlit _ _ => true
  | .transientError _ _ => true
  | .controlReplyTimeout _ => true
  | .lastingFailure _ _ => true
  | .hubRequestArrival _ => true
  | .hubReplyArrival _ => true
  | .freezeAnswer _ _ => true
  | .collAbortDone _ => true
  | .powerRemoval => true

end Sys2Proof
end

