-- ==== Sys2Proof/Machine/Numbers.lean ====
section
/-! DEFINITION. The arithmetic of spec/03_block_numbers.md: exact values, the one rounding, packing, the encoders and
decoders, the stochastic generator, and the transposed read. -/

namespace Sys2Proof.Machine

/-- An exact rational `num / den`, with `den` positive. -/
structure Q where
  num : Int
  den : Nat
  deriving DecidableEq, Repr

/-- The integer n as a rational. -/
def Q.ofInt (n : Int) : Q := ⟨n, 1⟩
/-- q * 2^k for an integer k. -/
def Q.scale (q : Q) (k : Int) : Q :=
  if 0 ≤ k then ⟨q.num * ((2 ^ k.toNat : Nat) : Int), q.den⟩ else ⟨q.num, q.den * 2 ^ (-k).toNat⟩
/-- The exact sum; equal denominators are kept. -/
def Q.add (a b : Q) : Q :=
  if a.den = b.den then ⟨a.num + b.num, a.den⟩ else ⟨a.num * (b.den : Int) + b.num * (a.den : Int), a.den * b.den⟩
/-- The exact product. -/
def Q.mul (a b : Q) : Q := ⟨a.num * b.num, a.den * b.den⟩
/-- The exact negative. -/
def Q.neg (a : Q) : Q := ⟨-a.num, a.den⟩
/-- The exact quotient of a by a non-zero b. -/
def Q.div (a b : Q) : Q :=
  if b.num < 0 then ⟨-(a.num * (b.den : Int)), a.den * b.num.natAbs⟩ else ⟨a.num * (b.den : Int), a.den * b.num.natAbs⟩
/-- a < b. -/
def Q.lt (a b : Q) : Bool := decide (a.num * (b.den : Int) < b.num * (a.den : Int))
/-- a = b as numbers. -/
def Q.same (a b : Q) : Bool := decide (a.num * (b.den : Int) = b.num * (a.den : Int))

/-- An element value: NaN, an infinity, or a finite number; `nz` marks the negative zero of the floating formats. -/
inductive Val where
  | nan
  | inf (neg : Bool)
  | fin (q : Q) (nz : Bool)
  deriving DecidableEq, Repr

/-- A finite value with no negative zero. -/
def Val.ofQ (q : Q) : Val := .fin q false
/-- An integer as a value. -/
def Val.ofInt (n : Int) : Val := .fin (Q.ofInt n) false
/-- The value is NaN. -/
def Val.isNan : Val → Bool | .nan => true | _ => false
/-- The value is an infinity. -/
def Val.isInf : Val → Bool | .inf _ => true | _ => false
/-- The value is a zero of either sign. -/
def Val.isZero : Val → Bool | .fin q _ => q.num == 0 | _ => false
/-- The sign of a number: negative, negative infinity or negative zero. -/
def Val.isNeg : Val → Bool | .nan => false | .inf n => n | .fin q nz => decide (q.num < 0) || (q.num == 0 && nz)
/-- The sign reversed. -/
def Val.neg : Val → Val | .nan => .nan | .inf n => .inf (!n) | .fin q nz => .fin q.neg (q.num == 0 && !nz)
/-- The magnitude. -/
def Val.abs (v : Val) : Val := if v.isNeg then v.neg else v

/-- The rounding modes of Table 3.3, and the internal AWAY of R65. -/
inductive Mode where
  | rne | rz | rd | ru | sr | away
  deriving DecidableEq, Repr

/-- Table 3.3; codes 5 to 7 are refused before a mode is used. -/
def Mode.ofCode (c : BitVec 3) : Mode :=
  if c = 1 then .rz else if c = 2 then .rd else if c = 3 then .ru else if c = 4 then .sr else .rne

/-- ROUND of R65: the exact value y in units of the destination's least significant bit; `rnd` is the draw of SR. -/
def round (y : Q) (mode : Mode) (rnd : Nat) : Int :=
  let fl := y.num / (y.den : Int)
  let r := y.num - fl * (y.den : Int)
  if r = 0 then fl
  else match mode with
    | .rne => if (y.den : Int) < 2 * r ∨ (2 * r = (y.den : Int) ∧ fl % 2 ≠ 0) then fl + 1 else fl
    | .rz => if 0 < y.num then fl else fl + 1
    | .rd => fl
    | .ru => fl + 1
    | .away => if 0 < y.num then fl + 1 else fl
    | .sr => if 65536 ≤ (r * 65536 / (y.den : Int)).toNat + rnd then fl + 1 else fl

/-- The sum of two values (R121): NaN propagates, opposite infinities give NaN. A zero sum of zeros of one sign keeps
it; any other zero sum is +0, or −0 when rounding down (IEEE 754, R113). -/
def Val.add (a b : Val) (mode : Mode) : Val :=
  match a, b with
  | .nan, _ => .nan
  | _, .nan => .nan
  | .inf x, .inf y => if x = y then .inf x else .nan
  | .inf x, .fin _ _ => .inf x
  | .fin _ _, .inf y => .inf y
  | .fin p pz, .fin q qz =>
    let r := p.add q
    .fin r (r.num == 0 && (if p.num == 0 && q.num == 0 then (if pz == qz then pz else mode == .rd) else mode == .rd))

/-- The product of two values (R121): 0 × ∞ is NaN. -/
def Val.mul (a b : Val) : Val :=
  match a, b with
  | .nan, _ => .nan
  | _, .nan => .nan
  | .inf x, y => if y.isZero then .nan else .inf (x != y.isNeg)
  | x, .inf y => if x.isZero then .nan else .inf (x.isNeg != y)
  | .fin p pz, .fin q qz =>
    let r := p.mul q
    .fin r (r.num == 0 && ((Val.fin p pz).isNeg != (Val.fin q qz).isNeg))

/-- The quotient (R113): 0 ÷ 0 and ∞ ÷ ∞ are NaN, a non-zero over a zero is an infinity. -/
def Val.div (a b : Val) : Val :=
  match a, b with
  | .nan, _ => .nan
  | _, .nan => .nan
  | .inf _, .inf _ => .nan
  | .inf x, .fin q qz => .inf (x != (Val.fin q qz).isNeg)
  | .fin p pz, .inf y => .fin ⟨0, 1⟩ ((Val.fin p pz).isNeg != y)
  | .fin p pz, .fin q qz =>
    let neg := (Val.fin p pz).isNeg != (Val.fin q qz).isNeg
    if q.num == 0 then (if p.num == 0 then .nan else .inf neg)
    else let r := p.div q; .fin r (r.num == 0 && neg)

/-- a < b for values that are not NaN; zeros are equal. -/
def Val.lt (a b : Val) : Bool :=
  match a, b with
  | .nan, _ => false
  | _, .nan => false
  | .inf x, .inf y => x && !y
  | .inf x, .fin _ _ => x
  | .fin _ _, .inf y => !y
  | .fin p _, .fin q _ => p.lt q

/-- a = b for values that are not NaN; +0 equals −0. -/
def Val.eq (a b : Val) : Bool :=
  match a, b with
  | .inf x, .inf y => x == y
  | .fin p _, .fin q _ => p.same q
  | _, _ => false

/-- Minimum of R113 and R123: a number beats NaN, −0 lies below +0. -/
def Val.min (a b : Val) : Val :=
  if a.isNan then b else if b.isNan then a
  else if a.lt b then a else if b.lt a then b else if a.isNeg then a else b
/-- Maximum of R113 and R123. -/
def Val.max (a b : Val) : Val :=
  if a.isNan then b else if b.isNan then a
  else if a.lt b then b else if b.lt a then a else if a.isNeg then b else a

/-- The integer square root, bit pair by bit pair (`k` pairs of bits). -/
def isqrt : Nat → Nat → Nat
  | 0, _ => 0
  | k + 1, n => let r := 2 * isqrt k (n / 4); if (r + 1) * (r + 1) ≤ n then r + 1 else r

/-- A rational that rounds as √q does at up to 30 bits: the root cut to 2^-200 relative to a scaled radicand, with a
half unit added when it is not exact (no rounding point of a shorter grid lies in between). -/
def Q.sqrt (q : Q) : Q :=
  let n := q.num.natAbs * q.den * 2 ^ 400
  let r := isqrt (n.log2 / 2 + 1) n
  if r * r = n then ⟨r, q.den * 2 ^ 200⟩ else ⟨2 * r + 1, q.den * 2 ^ 201⟩

/-- Square root (R113, R132): −0 keeps its sign, other negatives give NaN. -/
def Val.sqrt (v : Val) : Val :=
  match v with
  | .nan => .nan
  | .inf n => if n then .nan else .inf false
  | .fin q nz => if q.num == 0 then .fin q nz else if q.num < 0 then .nan else .fin q.sqrt false

/-! ### Formats -/

/-- MBITS of Table 3.2: the mantissa width of a B format. -/
def mbits (fmt : BitVec 3) : Nat := if fmt = 0 then 16 else if fmt = 1 then 8 else 4
/-- FBITS of Table 3.2. -/
def fbits (fmt : BitVec 3) : Nat := mbits fmt - 2
/-- Tags 0 to 2 are the block formats (Table 3.1). -/
def isB (fmt : BitVec 3) : Bool := decide (fmt.toNat < 3)
/-- 2^(M-1) - 1 (R58). -/
def top (fmt : BitVec 3) : Int := 2 ^ (mbits fmt - 1) - 1

/-- The low n bits of x as a two's-complement integer (SEXT). -/
def sext (x n : Nat) : Int :=
  let m := x % 2 ^ n
  if 2 * m < 2 ^ n then (m : Int) else (m : Int) - ((2 ^ n : Nat) : Int)

/-- An integer as an n-bit pattern. -/
def bits (n : Nat) (v : Int) : BitVec n := BitVec.ofInt n v

/-- One block: its exponent, ply byte and 16 mantissas (R58). -/
structure Block where
  e : Nat
  ply : Nat
  m : List Int
  deriving DecidableEq, Repr

/-- BDEC of one element (R58, R59). -/
def bdec1 (fmt : BitVec 3) (e : Nat) (q : Bool) (m : Int) : Val :=
  if m = -(top fmt + 1) then .nan
  else if e = 255 then (if m = 0 then .nan else .inf (decide (m < 0)))
  else .fin ((Q.ofInt m).scale ((e : Int) - 127 - (fbits fmt : Int) - (if q then 1 else 0))) false

/-- BDEC (R80): the 16 exact values of a block. -/
def bdec (fmt : BitVec 3) (b : Block) : List Val :=
  b.m.zipIdx.map fun (m, j) => bdec1 fmt b.e (b.ply.testBit (j / 2)) m

/-- FITS of R66: value v fits exponent e with ply bit q. -/
def fits (fmt : BitVec 3) (mode : Mode) (v : Val) (e : Nat) (q : Bool) : Bool :=
  match v with
  | .nan => true
  | .inf _ => false
  | .fin x _ =>
    x.num == 0 ||
    decide ((round (x.scale (127 + (fbits fmt : Int) + (if q then 1 else 0) - (e : Int)))
      (if mode = .sr then .away else mode) 0).natAbs ≤ (top fmt).natAbs)

/-- SATBLOCK of R66. -/
def satblock (fmt : BitVec 3) (x : List Val) : Block :=
  ⟨255, 0, x.map fun v => if v.isNan then -(top fmt + 1) else if v.isZero then 0 else if v.isNeg then -(top fmt) else top fmt⟩

/-- The ply byte of R66 at exponent e. -/
def plyOf (fmt : BitVec 3) (mode : Mode) (x : List Val) (e : Nat) : Nat :=
  (List.range 8).foldl (fun p i =>
    if fits fmt mode (x.getD (2 * i) .nan) e true && fits fmt mode (x.getD (2 * i + 1) .nan) e true then p + 2 ^ i else p) 0

/-- The mantissas of R66 at exponent e under a ply byte; `rnd` gives the draws of SR. -/
def mantsOf (fmt : BitVec 3) (mode : Mode) (rnd : List Nat) (x : List Val) (e ply : Nat) : List Int :=
  x.zipIdx.map fun (v, j) =>
    match v with
    | .fin q _ => round (q.scale (127 + (fbits fmt : Int) + (if ply.testBit (j / 2) then 1 else 0) - (e : Int))) mode (rnd.getD j 0)
    | _ => -(top fmt + 1)

/-- PACK of R66. -/
def pack (fmt : BitVec 3) (x : List Val) (mode : Mode) (rnd : List Nat) : Block :=
  if x.any Val.isInf then satblock fmt x
  else match (List.range 255).find? fun e => x.all fun v => fits fmt mode v e false with
    | none => satblock fmt x
    | some e =>
      let ply := plyOf fmt mode x e
      ⟨e, ply, mantsOf fmt mode rnd x e ply⟩

/-! ### The floating-point encoders (R68) -/

/-- The exponent k with 2^k ≤ |q| < 2^(k+1), for q non-zero. -/
def Q.log2 (q : Q) : Int :=
  let k : Int := (q.num.natAbs.log2 : Int) - (q.den.log2 : Int)
  let one := (⟨(q.num.natAbs : Int), q.den⟩ : Q).scale (-k)
  if (one.den : Int) ≤ one.num then k else k - 1

/-- What an encoder raises: IV, DZ, OV, UN, IX in bits 0 to 4 (Table 5.6). -/
abbrev FFlags := BitVec 5

/-- Rounding q to `prec` significant bits, on the grid no finer than 2^lmin: the integer and the grid exponent. -/
def roundFp (prec : Nat) (lmin : Int) (q : Q) (mode : Mode) (rnd : Nat) : Int × Int :=
  let l := max (q.log2 - (prec : Int) + 1) lmin
  (round (q.scale (-l)) mode rnd, l)

/-- n * 2^l ≥ 2^128 in magnitude. -/
def overflows (n l : Int) : Bool := decide ((2 : Int) ^ 128 * 2 ^ (if l < 0 then (-l).toNat else 0) ≤ (n.natAbs : Int) * 2 ^ (if l < 0 then 0 else l.toNat))
/-- n * 2^l is non-zero and below 2^-126 in magnitude. -/
def tiny (n l : Int) : Bool := n != 0 && ((Q.ofInt (n.natAbs : Int)).scale l).lt ((Q.ofInt 1).scale (-126))

/-- Overflow gives infinity, or the largest finite value where the mode rounds toward zero on that side (R68). -/
def ovfInf (mode : Mode) (neg : Bool) : Bool :=
  match mode with
  | .rz => false
  | .rd => neg
  | .ru => !neg
  | _ => true

/-- ENC_FP32 (R68), with the flags it raises (R115, R116). -/
def encFp32F (v : Val) (mode : Mode) (rnd : Nat) : BitVec 32 × FFlags :=
  match v with
  | .nan => (0x7FC00000#32, 0)
  | .inf n => (if n then 0xFF800000#32 else 0x7F800000#32, 0)
  | .fin q nz =>
    if q.num == 0 then (if nz then 0x80000000#32 else 0#32, 0)
    else
      let neg := decide (q.num < 0)
      let sgn := if neg then 2 ^ 31 else 0
      let (n, l) := roundFp 24 (-149) q mode rnd
      let inexact := !((Q.ofInt n).scale l).same q
      if overflows n l then
        ((if ovfInf mode neg then BitVec.ofNat 32 (sgn + 0x7F800000) else BitVec.ofNat 32 (sgn + 0x7F7FFFFF)), 0b10100#5)
      else
        let (tn, tl) := roundFp 24 (-100000) q mode rnd
        let un := inexact && tiny tn tl
        (if n = 0 then BitVec.ofNat 32 sgn else BitVec.ofNat 32 (sgn + ((l + 149).toNat * 2 ^ 23 + n.natAbs)),
          (if inexact then 0b10000#5 else 0) ||| (if un then 0b01000#5 else 0))

/-- ENC_BF16 (R68): 8 significant bits as if the exponent had no lower bound, then the flush below 2^-126. -/
def encBf16F (v : Val) (mode : Mode) (rnd : Nat) : BitVec 16 × FFlags :=
  match v with
  | .nan => (0x7FC0#16, 0)
  | .inf n => (if n then 0xFF80#16 else 0x7F80#16, 0)
  | .fin q nz =>
    if q.num == 0 then (if nz then 0x8000#16 else 0#16, 0)
    else
      let neg := decide (q.num < 0)
      let sgn := if neg then 2 ^ 15 else 0
      let (n, l) := roundFp 8 (-100000) q mode rnd
      let inexact := !((Q.ofInt n).scale l).same q
      if overflows n l then
        ((if ovfInf mode neg then BitVec.ofNat 16 (sgn + 0x7F80) else BitVec.ofNat 16 (sgn + 0x7F7F)), 0b10100#5)
      else if tiny n l then (BitVec.ofNat 16 sgn, 0b11000#5)
      else (BitVec.ofNat 16 (sgn + ((l + 133) * 2 ^ 7 + n.natAbs).toNat), if inexact then 0b10000#5 else 0)

/-- Clamping to n-bit two's complement. -/
def clampInt (n : Nat) (v : Int) : Int := max (-(2 ^ (n - 1))) (min (2 ^ (n - 1) - 1) v)

/-- ENC_INT (R68) with its flags (R115, R116): a NaN or an out-of-range value raises IV, an inexact one IX. A value that is both raises
IV alone (DESIGN CHOICE, log entry 48). -/
def encIntF (v : Val) (mode : Mode) (rnd n : Nat) : Int × FFlags :=
  match v with
  | .nan => (0, 0b00001#5)
  | .inf neg => (if neg then -(2 ^ (n - 1)) else 2 ^ (n - 1) - 1, 0b00001#5)
  | .fin q _ =>
    let r := round q mode rnd
    let c := clampInt n r
    (c, if c ≠ r then 0b00001#5 else if (Q.ofInt r).same q then 0 else 0b10000#5)

/-- ENC_FP32 without flags. -/
def encFp32 (v : Val) (mode : Mode) (rnd : Nat) : BitVec 32 := (encFp32F v mode rnd).1
/-- ENC_BF16 without flags. -/
def encBf16 (v : Val) (mode : Mode) (rnd : Nat) : BitVec 16 := (encBf16F v mode rnd).1

/-- The exact value of a binary32 pattern (R61). -/
def decFp32 (w : BitVec 32) : Val :=
  let neg := w.getLsbD 31
  let ex : Nat := w.toNat / 2 ^ 23 % 256
  let fr : Nat := w.toNat % 2 ^ 23
  if ex = 255 then (if fr = 0 then .inf neg else .nan)
  else
    let m : Int := if ex = 0 then (fr : Int) else (fr : Int) + 2 ^ 23
    .fin ((Q.ofInt (if neg then -m else m)).scale ((if ex = 0 then 1 else (ex : Int)) - 150)) (m == 0 && neg)
/-- The exact value of a BF16 pattern (R61). -/
def decBf16 (h : BitVec 16) : Val := decFp32 (h ++ 0#16)
/-- A binary32 NaN is signalling when bit 22 is 0 (R114). -/
def isSnan (w : BitVec 32) : Bool :=
  decide (w.toNat / 2 ^ 23 % 256 = 255) && decide (w.toNat % 2 ^ 23 ≠ 0) && !w.getLsbD 22

/-! ### Stochastic rounding (R69, R71) -/

/-- XS32 of R69. -/
def xs32 (x : BitVec 32) : BitVec 32 :=
  let x := x ^^^ (x <<< 13)
  let x := x ^^^ (x >>> 17)
  x ^^^ (x <<< 5)
/-- A generator load: zero becomes one (R69). -/
def srLoad (x : BitVec 32) : BitVec 32 := if x = 0 then 1 else x
/-- SRDRAW of R80. -/
def srdraw (g : BitVec 32) (i : Nat) : Nat := (g.rotateLeft (7 * i % 32)).toNat % 65536
/-- The 32 draws of one conversion step (R71). -/
def srdraws (g : BitVec 32) : List Nat := (List.range 32).map (srdraw g)

/-! ### Accumulator arithmetic and transposed reads -/

/-- The NaN code of an accumulator element (R74). -/
def accNan : Int := -(2 ^ 39)
/-- The largest magnitude of an accumulator element (R74). -/
def accMax : Int := 2 ^ 39 - 1

/-- A partial of one element of a k-tile step: NaN, an infinity, or an exact integer at its exponent (R75, R76). -/
inductive Partial where
  | nan
  | inf (neg : Bool)
  | fin (p : Int) (x : Int)
  deriving DecidableEq, Repr

/-- An operand of the multiplier along one row or column: 16 integers u at one scale, each possibly NaN or infinite. -/
structure MulVec where
  s : Int
  u : List Val
  deriving DecidableEq, Repr

/-- TCOL's multiplier path of R78 and R75's block read across rows, from the exponents, ply bits and mantissas of a
column. -/
def tcolMul (fmt : BitVec 3) (col : List (Nat × Bool × Int)) : MulVec :=
  let f : Int := fbits fmt
  if col.any fun (e, _, m) => e = 255 ∨ m = -(top fmt + 1) then
    let b := pack fmt (col.map fun (e, q, m) => bdec1 fmt e q m) .rne []
    ⟨(b.e : Int) - 127 - f - 1, b.m.zipIdx.map fun (m, j) =>
      if m = -(top fmt + 1) then .nan
      else if b.e = 255 then (if m = 0 then .nan else .inf (decide (m < 0)))
      else Val.ofInt (if b.ply.testBit (j / 2) then m else 2 * m)⟩
  else
    let g : Int := col.foldl (fun a (e, q, _) => max a ((e : Int) - (if q then 1 else 0))) (-1)
    ⟨g - 127 - f - 8, col.map fun (e, q, m) =>
      Val.ofInt (round ((Q.ofInt m).scale (8 - (g - (e : Int) + (if q then 1 else 0)))) .rne 0)⟩

/-- TCOL's stored path of R78: a column re-blocked for LDT and TXP. -/
def tcolStore (fmt : BitVec 3) (col : List (Nat × Bool × Int)) : Block :=
  let x := col.map fun (e, q, m) => bdec1 fmt e q m
  if col.any fun (e, _, m) => e = 255 ∨ m = -(top fmt + 1) then pack fmt x .rne []
  else
    let g : Int := col.foldl (fun a (e, q, _) => max a ((e : Int) - (if q then 1 else 0))) (-1)
    let ecol := (max g 0).toNat
    let ply := plyOf fmt .rne x ecol
    ⟨ecol, ply, mantsOf fmt .rne [] x ecol ply⟩

/-- A block read along its rows as a multiplier operand (R75). -/
def blockMul (fmt : BitVec 3) (b : Block) : MulVec :=
  ⟨(b.e : Int) - 127 - (fbits fmt : Int) - 1, b.m.zipIdx.map fun (m, j) =>
    if m = -(top fmt + 1) then .nan
    else if b.e = 255 then (if m = 0 then .nan else .inf (decide (m < 0)))
    else Val.ofInt (if b.ply.testBit (j / 2) then m else 2 * m)⟩

/-- The exact dot product of two operand vectors (R75), with R76's infinities and NaNs. -/
def dot (a b : MulVec) : Partial :=
  let v := (a.u.zip b.u).foldl (fun acc (x, y) => acc.add (x.mul y) .rne) (Val.ofInt 0)
  match v with
  | .nan => .nan
  | .inf n => .inf n
  | .fin q _ => .fin q.num (a.s + b.s)

/-- The renormalising loop of R76 on elements of which NaN is none, so that a sum of −2^39 is no NaN: while an element exceeds the
range every element is halved, and X rises. -/
def accNorm : Nat → List (Option Int) → Int → List (Option Int) × Int
  | 0, a, x => (a, x)
  | k + 1, a, x =>
    if a.any fun v => v.any fun v => decide (accMax.natAbs < v.natAbs) then
      accNorm k (a.map fun v => v.map fun v => round ⟨v, 2⟩ .rne 0) (x + 1)
    else (a, x)

/-- SATURATE of R76 on an element. -/
def satElem (v : Option Int) : Option Int := v.map fun v => if v < 0 then -accMax else if v = 0 then 0 else accMax

/-- ACC_STEP of R76 on an accumulator's 256 elements and exponent, with the infinite partials of its last paragraph. The loop ends
within as many passes as the largest sum has bits. -/
def accStep (a : List Int) (x : Int) (p : List Partial) : List Int × Int :=
  let xn := p.foldl (fun m q => match q with | .fin v e => if v = 0 then m else max m e | _ => m) x
  let a' := (a.zip p).map fun (v, q) =>
    if v = accNan then none
    else match q with
      | .nan => none
      | .inf n => some (if n then -accMax else accMax)
      | .fin pv e => some (round ((Q.ofInt v).scale (x - xn)) .rne 0 + round ((Q.ofInt pv).scale (e - xn)) .rne 0)
  let (b, xb) := accNorm (a'.foldl (fun m v => Nat.max m (v.getD 0).natAbs) 0).log2 a' xn
  let sat := decide (2047 ≤ xb) || p.any fun q => match q with | .inf _ => true | _ => false
  ((if sat then b.map satElem else b).map fun v => v.getD accNan, if sat then 2047 else xb)

/-- The exact value of an accumulator element (R74, R76). -/
def accVal (v : Int) (x : Int) : Val :=
  if v = accNan then .nan
  else if x = 2047 then (if v = 0 then .nan else .inf (decide (v < 0)))
  else .fin ((Q.ofInt v).scale x) false

/-- W16_ALIGN of one element (R80): the aligned integer, or none for NaN. -/
def w16Align (v : Val) (p : Int) : Option Int :=
  match v with
  | .fin q _ => some (round (q.scale (134 - p)) .rne 0)
  | _ => none
/-- W16_VALUE (R80) of a lane, with the saturated slot of R63. -/
def w16Value (w : Int) (p : Nat) : Val :=
  if w = -32768 then .nan
  else if p = 255 then (if w = 0 then .nan else .inf (decide (w < 0)))
  else .fin ((Q.ofInt w).scale ((p : Int) - 134)) false

end Sys2Proof.Machine
end

