-- ==== Sys2Proof/Machine/Maps.lean ====
section
/-! DEFINITION. Sparse maps and memories as sorted lists, and vectors indexed by bit vectors. -/

namespace Sys2Proof.Machine

/-- The entry of key k, or the default of unlisted keys. -/
def lookup {α : Type} (d : α) : List (Nat × α) → Nat → α
  | [], _ => d
  | (j, v) :: t, k => if j = k then v else lookup d t k

/-- Sets the entry of key k, keeping the keys rising. -/
def insert {α : Type} (k : Nat) (v : α) : List (Nat × α) → List (Nat × α)
  | [] => [(k, v)]
  | (j, w) :: t => if j < k then (j, w) :: insert k v t else if j = k then (k, v) :: t else (k, v) :: (j, w) :: t

/-- Removes the entry of key k. -/
def remove {α : Type} (k : Nat) : List (Nat × α) → List (Nat × α)
  | [] => []
  | (j, w) :: t => if j = k then t else (j, w) :: remove k t

/-- The canonical form of a memory: addresses strictly rising above `lo`, no byte equal to the 0 of an unlisted address. -/
def Memory.wfFrom : Nat → List Host.Cell → Bool
  | _, [] => true
  | lo, (a, v) :: t => decide (lo ≤ a) && v != 0 && Memory.wfFrom (a + 1) t

/-- The canonical form of a memory. -/
def Memory.wf (m : List Host.Cell) : Bool := Memory.wfFrom 0 m

/-- The byte at an address; an unlisted address reads as 0. -/
def Memory.get : List Host.Cell → Nat → Byte
  | [], _ => 0
  | (b, v) :: t, a => if b = a then v else Memory.get t a

/-- The memory with one byte written, in canonical form. -/
def Memory.set (a : Nat) (v : Byte) : List Host.Cell → List Host.Cell
  | [] => if v = 0 then [] else [(a, v)]
  | (b, w) :: t =>
    if b < a then (b, w) :: Memory.set a v t
    else if b = a then (if v = 0 then t else (a, v) :: t)
    else if v = 0 then (b, w) :: t else (a, v) :: (b, w) :: t

/-- n bytes from an address in a 64 KiB memory that wraps (02 R27, 06 R149). -/
def Memory.bytes (m : List Host.Cell) (a n : Nat) : List Byte :=
  (List.range n).map fun i => Memory.get m ((a + i) % 65536)

/-- Writes bytes from an address in a 64 KiB memory that wraps. -/
def Memory.write (m : List Host.Cell) (a : Nat) : List Byte → List Host.Cell
  | [] => m
  | b :: t => Memory.write (Memory.set (a % 65536) b m) (a + 1) t

/-- Writes a list of cells, in order. -/
def Memory.writeCells (m : List Host.Cell) : List Host.Cell → List Host.Cell
  | [] => m
  | (a, b) :: t => Memory.writeCells (Memory.set a b m) t

/-- n bytes from an address of a memory that does not wrap. -/
def Memory.flat (m : List Host.Cell) (a n : Nat) : List Byte := (List.range n).map fun i => Memory.get m (a + i)

/-- Writes bytes from an address of a memory that does not wrap. -/
def Memory.flatWrite (m : List Host.Cell) (a : Nat) : List Byte → List Host.Cell
  | [] => m
  | b :: t => Memory.flatWrite (Memory.set a b m) (a + 1) t

/-- The little-endian value of bytes (00 R2). -/
def ofBytes : List Byte → Nat
  | [] => 0
  | b :: t => b.toNat + 256 * ofBytes t

/-- The n little-endian bytes of a value. -/
def toBytes : Nat → Nat → List Byte
  | 0, _ => []
  | n + 1, v => BitVec.ofNat 8 v :: toBytes n (v / 256)

/-- Element i of a register file. -/
def rd {α : Type} {k : Nat} (v : Vector α (2 ^ k)) (i : BitVec k) : α := v[i.toNat]'i.isLt

/-- The register file with element i replaced. -/
def wr {α : Type} {k : Nat} (v : Vector α (2 ^ k)) (i : BitVec k) (x : α) : Vector α (2 ^ k) := v.set i.toNat x i.isLt

/-- Bits hi..lo of a natural number. -/
def field (n lo len : Nat) : Nat := n / 2 ^ lo % 2 ^ len

/-- A Boolean as 0 or 1. -/
def bit (b : Bool) : Nat := if b then 1 else 0

end Sys2Proof.Machine
end

