-- ==== Sys2Proof/Machine/State.lean ====
section
/-! DEFINITION. The state of a whole MZL-1W module as plain data, and the state after reset. INVENTORY.md lists every
field with the rule of spec/ that names it. -/

namespace Sys2Proof.Machine

/-- Why the machine stops. -/
inductive Fault where
  /-- Raised by the step function when the module has no power and no event is due: nothing acts (safe). -/
  | noPower
  deriving DecidableEq, Repr

/-- Why an instruction has no meaning here. -/
inductive Refusal where
  /-- Raised by the dispatch for an instruction that the model gives no meaning yet (safe). -/
  | notModelled (mnemonic : String)
  deriving DecidableEq, Repr

/-! ### Strands (spec/04) -/

/-- A register of a strand's scoreboard (R93, R115, R218), named as the strand names it. -/
inductive Reg where
  | g (i : BitVec 4)
  | m (i : BitVec 2)
  | v (i : BitVec 4)
  | t (i : BitVec 3)
  | acc (i : BitVec 2)
  | proj
  | map
  | tpr
  | astat
  deriving DecidableEq, Repr

/-- One pending scoreboard entry: the core cycle in which it clears, or none while a reply is awaited; `mma` marks an
accumulator pending from an MMA, which chains (R216). -/
structure Pend where
  reg : Reg
  due : Option Nat
  mma : Bool
  deriving DecidableEq, Repr

/-- ASTAT bits an instruction raises when its latency elapses (R115); `fp` if it also replaces LAST. -/
structure FlagUp where
  due : Nat
  bits : BitVec 7
  fp : Bool
  addr : Addr
  deriving DecidableEq, Repr

/-- The states of Table 4.3; `frozen` of a strand is kept beside it. -/
inductive Run where
  | free | ready | waiting | stopped
  deriving DecidableEq, Repr

/-- What a waiting strand waits for, with the operands its instruction needs when it is satisfied (Table 4.3). -/
inductive Wait where
  | idle
  /-- SLEEP, until a core cycle (R102). -/
  | sleep (target : Nat)
  /-- TIMEW (R351). -/
  | timew (target : Dword)
  /-- WAITM (R103). -/
  | waitm (d : BitVec 4) (mask : Dword)
  /-- SPAWN waiting to enter the full spawn queue (R104). -/
  | spawnRoom (d : BitVec 4) (entry : BitVec 4) (arg : Word)
  /-- SPAWN waiting for its grant (R104). -/
  | spawnGrant (d : BitVec 4)
  /-- RECV (R203). -/
  | recv (ch : BitVec 6) (d : BitVec 4)
  /-- RECV.V (R203). -/
  | recvV (ch : BitVec 6) (v : BitVec 4)
  /-- WAITCH (R204). -/
  | waitch (ch : BitVec 6) (d : BitVec 4)
  /-- JOIN (R205). -/
  | join (mask : Dword)
  /-- TWANY (R160). -/
  | twany (d : BitVec 4) (mask : Dword) (clear : Bool)
  /-- TWALL (R160). -/
  | twall (mask : Dword) (clear : Bool)
  /-- COLLW (R329). -/
  | collw (d : BitVec 4) (k : BitVec 6)
  /-- CJOIN.ACQ before the hub's count is known (R313); `rel` while the arrival is still held. -/
  | cjoinCount (j : BitVec 5) (d : BitVec 4) (rel : Bool)
  /-- CJOIN.ACQ waiting for generation `gen` (R313). -/
  | cjoinFire (j : BitVec 5) (gen : BitVec 16)
  /-- The first use of a gated unit (R341); `vec` the vector unit. -/
  | token (vec : Bool)
  deriving DecidableEq, Repr

/-- What keeps a ready strand from issuing beyond its registers and units (R301, R158, R233, R105). -/
inductive Hold where
  | none
  /-- EATOM, EATOMSC, CATOM or LAUNCH awaiting its reply (R301, R382). -/
  | atomic
  /-- CJOIN.CFG or a hub CSR write awaiting the acknowledgement (R314, R376). -/
  | hubAck
  /-- BSET.FULL awaiting the end of a deposit (R158). -/
  | bsetFull (n : BitVec 5)
  /-- A running GMMA (R233). -/
  | gmma
  /-- EXIT or EXIT.SPLICE awaiting its pending entries (R105). -/
  | exiting (splice : Bool)
  deriving DecidableEq, Repr

/-- Where an instruction stands: its address, the header of its clause, its index there, and whether the clause is
indivisible (R356). -/
structure Place where
  epc : Addr
  eclb : Addr
  idx : Nat
  indiv : Bool
  deriving DecidableEq, Repr

/-- Why a clause fill was asked for, which its faults need (Table 2.5). -/
inductive FillWhy where
  /-- Strand entry. -/
  | enter
  /-- A control transfer, from the instruction that stands there. -/
  | jump (src : Place)
  /-- Fall-through from a completed clause. -/
  | fall
  /-- ERET: first issue at an index. -/
  | resume (idx : Nat)
  /-- The end of a freeze: the execution goes on at an index (R43). -/
  | thaw (idx : Nat)
  deriving DecidableEq, Repr

/-- A requested fill (R41): the core cycle from which it can be served, and, once it has begun, the core cycle of its first
read, the header it read there, and the 64-bit words it has read. -/
structure Fill where
  addr : Addr
  why : FillWhy
  asked : Nat
  first : Option Nat
  hdr : Word
  got : List Dword
  deriving DecidableEq, Repr

/-- The 64-word clause buffer (R39, R40). -/
structure Buffer where
  valid : Bool
  addr : Addr
  hdr : Word
  words : List Word
  deriving DecidableEq, Repr

/-- The trap frame of Table 14.2. -/
structure Frame where
  cause : BitVec 8
  indiv : Bool
  handled : Bool
  epc : Addr
  eclb : Addr
  eidx : BitVec 6
  einfo : Word
  eaddr : Dword
  deriving DecidableEq, Repr

/-- A fault record of Table 14.3. -/
structure FaultRec where
  d0 : Dword
  d1 : Dword
  d2 : Dword
  d3 : Dword
  part : Option Nat
  deriving DecidableEq, Repr

/-- Declaration states of Table 13.3. -/
inductive DeclSt where
  | none | requested | admitted | active
  deriving DecidableEq, Repr

/-- A strand's power declaration (R338): intensity and length, the domain cycle of the PHASE, and once the arbiter has
settled it its start in domain cycles. -/
structure Decl where
  st : DeclSt
  intensity : Nat
  length : Nat
  issued : Nat
  start : Option Nat
  deriving DecidableEq, Repr

/-- A PHASE whose g[d] is written 40 core cycles after its issue (R338, R348): the domain cycle of issue and the start
settled for it. -/
structure PhaseRep where
  d : BitVec 4
  due : Nat
  issued : Nat
  start : Option Nat
  deriving DecidableEq, Repr

/-- The projection register of Table 9.1. -/
structure Proj where
  kw : Nat
  n : Nat
  kc : Nat
  s : Vector (Vector (BitVec 40) 12) 16
  y : Vector (BitVec 12) 16
  nrm : Vector (BitVec 48) 16
  z : Vector (BitVec 12) 16
  bad : BitVec 16
  deriving DecidableEq, Repr

/-- MAP of Table 9.3. -/
structure Map where
  idx : Dword
  rep : Dword
  rc : BitVec 5
  nr : BitVec 5
  rule : BitVec 2
  deriving DecidableEq, Repr

/-- A GMMA in progress (R233, R236): its descriptor, flags and the steps begun; of the next step's tiles the payload flits taken
of a received one, and whether a fed one is in the injection buffer; and once the last step has begun the core cycle in which
the GMMA completes. -/
structure Gmma where
  acc : BitVec 2
  fa : Bool
  fb : Bool
  fmtA : BitVec 3
  fmtB : BitVec 3
  ca : BitVec 6
  cb : BitVec 6
  k : Nat
  ba : BitVec 5
  bb : BitVec 5
  step : Nat
  pc : Addr
  gotA : List (BitVec 128 × BitVec 32)
  gotB : List (BitVec 128 × BitVec 32)
  inA : Bool
  inB : Bool
  done : Option Nat
  deriving DecidableEq, Repr

/-- How the power rules see the execution of the clause in progress (R340). -/
inductive Cover where
  /-- The first instruction has not issued yet. -/
  | fresh
  /-- The first instruction waits for a gated unit, and would have issued as covered (R412). -/
  | claimed
  /-- A clause of class 0 to 2. -/
  | plain
  | covered
  | uncovered
  deriving DecidableEq, Repr

/-- A CJOIN arrival held by `.rel` (R313): the requests it waits for. -/
structure RelHeld where
  j : BitVec 5
  d : BitVec 4
  acq : Bool
  ids : List Nat
  deriving DecidableEq, Repr

/-- A strand slot of a core (R86, R88). -/
structure Strand where
  run : Run
  frozen : Bool
  wait : Wait
  /-- The time base when the wait began (R346). -/
  waitFrom : Nat
  hold : Hold
  g : Vector Word 16
  m : Vector Word 4
  pc : Addr
  /-- Where the instruction stands that the strand has gone past and that has not ended: one that waits, or is held. -/
  here : Place
  buf : Buffer
  fill : Option Fill
  notBefore : Nat
  status : Word
  stamp : Nat
  trapEntry : Option Addr
  handler : Bool
  handlerDue : Bool
  frame : Frame
  fsel : BitVec 3
  inbind : Word
  astat : Word
  undecl : Word
  tpr : Word
  proj : Proj
  map : Map
  decl : Decl
  phases : List PhaseRep
  gmma : Option Gmma
  cover : Cover
  pend : List Pend
  flags : List FlagUp
  /-- Incomplete edge requests of the strand, in issue order (R299). -/
  edgeIds : List Nat
  /-- The requests each outstanding EFENCE still waits for (R299). -/
  fences : List (List Nat)
  rel : List RelHeld
  /-- The record of a stopped strand waits to be accepted (R361), the number of its offer in flight, 0 for none, and the record,
  once it is formed. -/
  offer : Bool
  offered : Nat
  fault : Option FaultRec
  deriving DecidableEq, Repr

/-! ### Core files and memory (spec/06, 07, 08) -/

/-- A vector register: 512 data bits as 32 lanes of 16, and the side band (R46, R117). -/
structure VReg where
  lanes : Vector (BitVec 16) 32
  side : Word
  deriving DecidableEq, Repr

/-- A tile register (R212): FMT, ROWS − 1, COLS − 1, a side pair (ply in bits 15:8, E in 7:0) a row, and the fields. -/
structure Tile where
  fmt : BitVec 3
  rows : BitVec 4
  cols : BitVec 4
  side : Vector (BitVec 16) 16
  el : Vector (Vector (BitVec 16) 16) 16
  deriving DecidableEq, Repr

/-- An accumulator (R74, R223). -/
structure Acc where
  a : Vector (BitVec 40) 256
  x : BitVec 12
  steps : BitVec 16
  deriving DecidableEq, Repr

/-- Bobbin states (Table 6.1). -/
inductive BobSt where
  | empty | filling | full | draining
  deriving DecidableEq, Repr

/-- A bobbin descriptor (Table 6.1). -/
structure Bobbin where
  base : Addr
  size : BitVec 16
  fmt : BitVec 3
  swz : BitVec 3
  eom : Bool
  bkind : BitVec 2
  bind : BitVec 6
  ften : Bool
  ftag : BitVec 6
  sbase : Addr
  fill : BitVec 16
  head : BitVec 16
  st : BobSt
  mixed : Bool
  valid : Bool
  deriving DecidableEq, Repr

/-- Copy-tag states (R145). -/
inductive TagSt where
  | idle | busy | set | faulted
  deriving DecidableEq, Repr

/-- What holds a tag (R287, R329): the kinds of operation that the tag instructions tell apart. -/
inductive Holder where
  | none | copy | sendb | round | eld | est | ewatch | coll
  deriving DecidableEq, Repr

/-- A copy tag (R145–R147): a faulted one keeps its cause, EINFO and EADDR; `live` while its operation is outstanding. -/
structure Tag where
  st : TagSt
  holder : Holder
  live : Bool
  cause : BitVec 8
  einfo : Word
  eaddr : Dword
  deriving DecidableEq, Repr

/-- A message (R161, R162): the header of Table 7.1 and the payload flits, 128 data bits and 32 side-band bits each. -/
structure Msg where
  hdr : BitVec 128
  flits : List (BitVec 128 × BitVec 32)
  deriving DecidableEq, Repr

/-- A flit of a link (R161): the control byte, with the type (0 idle, 1 head, 2 body, 3 tail) in bits 7:6 and the channel in
5:0, the data and the side band. -/
structure Flit where
  ctl : BitVec 8
  data : BitVec 128
  side : BitVec 32
  deriving DecidableEq, Repr

/-- A flit in an input buffer of a router, 0 N, 1 E, 2 S, 3 W, 4 the core's own; `entry` is the channel entry that governed its
arrival (R170). One that stands in the freeze buffer is `paid`: its credit has gone back (R372). -/
structure InFlit where
  port : Nat
  flit : Flit
  entry : BitVec 16
  paid : Bool
  deriving DecidableEq, Repr

/-- A message whose head a router has routed, and whose payload flits are still to pass (R167): its channel and input, its
fan-out set, empty where it is discarded, and the flits left. -/
structure Way where
  ch : BitVec 6
  port : Nat
  outs : List Nat
  left : Nat
  deriving DecidableEq, Repr

/-- A message that a trick unit of the router sends (R188, R189): the unit's channel, the output port, and the flits gone. -/
structure Emit where
  key : BitVec 6
  out : Nat
  msg : Msg
  sent : Nat
  deriving DecidableEq, Repr

/-- What becomes of a message at a core's local port (R175–R180): nothing yet, or held; it stands under a wake entry; its
payload is being deposited into a bobbin, and then starts a strand entry; its spawn request, of a core cycle, is still to enter
the spawn queue; or it has been taken or discarded, and what is still to come of it is discarded too. -/
inductive LocSt where
  | fresh
  | stands
  | deposit (bob : BitVec 5) (ent : Option (BitVec 4))
  | queue (ent : BitVec 4) (cycle : Nat)
  | drop
  deriving DecidableEq, Repr

/-- A message at a core's local port: its header with the payload flits that stand in the port's buffer, the payload flits that
have arrived so far, word 0 of the first, whether its head still takes a place of the buffer, and the time base at its arrival
(R346). -/
structure LocalMsg where
  msg : Msg
  came : Nat
  word0 : Word
  head : Bool
  arrived : Nat
  st : LocSt
  deriving DecidableEq, Repr

/-- A SENDB and what it has still to queue (R201): mantissa and side address, bytes left of n, the sequence number of its next
message, the core cycle of its issue, and the 8-byte word of side pairs that it has read last, with its address (R183). -/
structure Bulk where
  ch : BitVec 6
  src : Addr
  side : Addr
  left : Nat
  n : Nat
  fmt : BitVec 3
  tag : BitVec 6
  seq : BitVec 16
  issued : Nat
  sideWord : Option (Nat × List Byte)
  deriving DecidableEq, Repr

/-- What waits in the injection buffer (R181): a message with the number of its flits that have entered the router and the core
cycle from which its head can, or the place of a SENDB. -/
inductive Inject where
  | msg (m : Msg) (sent ready : Nat)
  | sendb (b : Bulk)
  deriving DecidableEq, Repr

/-- States of a trick unit (R186). -/
inductive TrickSt where
  | idle | collecting | settling
  deriving DecidableEq, Repr

/-- A trick unit (R186, R208, R209); `bound` names its channel. Slot exponents are none while unset; lanes are none for
NaN. `arcs` holds the contributions that have arrived in part, by input port. -/
structure Trick where
  bound : Option (BitVec 6)
  ctl : BitVec 6
  s : Nat
  ofmt : BitVec 3
  root : Bool
  p : List (Option Nat)
  a : List (List (Option Int))
  rn : BitVec 15
  lastRn : BitVec 15
  got : BitVec 5
  st : TrickSt
  count : BitVec 16
  arcs : List (Nat × Msg)
  deriving DecidableEq, Repr

/-- A strand entry of the launch image (Table 4.1, Table 14.8a). -/
structure Entry where
  addr : Addr
  v : BitVec 5
  t : BitVec 4
  a : BitVec 3
  pri : BitVec 2
  trap : Option Addr
  start : Bool
  deriving DecidableEq, Repr

/-- A request in the spawn queue (R85, R86): the entry, g1, g2, and the SPAWN that waits for the grant. -/
structure SpawnReq where
  entry : BitVec 4
  g1 : Word
  g2 : Word
  waiter : Option (BitVec 3 × BitVec 4)
  deriving DecidableEq, Repr

/-- An outstanding COPY or COPY.B (R154); `bob` the bobbin it fills. `issued` is the core cycle of its issue, `pos` the
accesses it has made, `off` the bobbin's FILL where a COPY.B began, `held` the bytes of the read whose write comes next, and
`last` the core cycle of its last access, once it has made all. -/
structure Copy where
  src : Addr
  side : Addr
  dst : Addr
  n : Nat
  tag : BitVec 6
  bob : Option (BitVec 5)
  issued : Nat
  pos : Nat
  off : Nat
  held : List Byte
  last : Option Nat
  deriving DecidableEq, Repr

/-- A DRAIN.M's writes, due at issue + 12 (R237), and the groups of words in which the data port makes them; `own` while the
strand that issued it keeps its slot. -/
structure DrainM where
  due : Nat
  slot : BitVec 3
  own : Bool
  writes : List Host.Cell
  groups : List (List Nat)
  deriving DecidableEq, Repr

/-- A shape record (Table 10.5); `resv` if a reserved bit is set. -/
structure Shape where
  fmt : BitVec 3
  dir : Bool
  dims : BitVec 3
  depth : BitVec 3
  xp : Bool
  swz : BitVec 3
  brick : BitVec 5
  base : BitVec 57
  sbase : BitVec 57
  ext : Vector Word 8
  stride : Vector Dword 8
  resv : Bool
  deriving DecidableEq, Repr

/-- Round states of Table 10.6. -/
inductive RoundSt where
  | queued | armed | running | faulting | faulted | cancelling
  deriving DecidableEq, Repr

/-- A unit's fault (R278): the unit, the cause, the reason of Table 10.10 and the address. -/
structure UnitFault where
  at_ : Nat
  cause : BitVec 8
  reason : BitVec 2
  addr : Dword
  deriving DecidableEq, Repr

/-- An outstanding round (R276, R277). `kept` is the data of units: of a transposing read round those that have landed behind a unit
still missing, of a write round those requested and not yet performed; `sideWord` is the 8-byte word of side pairs that a write
round has read last, with its address (R279). -/
structure Round where
  id : Nat
  n : Nat
  tag : BitVec 6
  arc : Option (BitVec 6)
  shape : Shape
  src : Addr
  side : Addr
  slot : BitVec 3
  st : RoundSt
  begun : Bool
  next : Nat
  landed : List Nat
  fault : Option UnitFault
  kept : List (Nat × List Byte)
  sideWord : Option (Nat × List Byte)
  deriving DecidableEq, Repr

/-- Stream-slot states (R284). -/
inductive StreamSt where
  | free | binding | bound
  deriving DecidableEq, Repr

/-- A stream slot (R273, R284); `by_` the strand slot and register an SPBIND in flight will write. -/
structure Stream where
  st : StreamSt
  entry : BitVec 6
  bob : Option (BitVec 5)
  spindle : Nat
  shape : Shape
  rounds : List Round
  by_ : BitVec 3 × BitVec 4
  deriving DecidableEq, Repr

/-- A region of cores: its 40 bits (R369). -/
abbrev Reg40 := Nat
/-- A section of a launch image: its place, contents and clause index. -/
structure Section where
  addr : Nat
  len : Nat
  data : List Byte
  index : List Nat
  deriving DecidableEq, Repr

/-- A launch image as the dealer reads it (R369); every item with its region. -/
structure Image where
  cols : Nat
  rows : Nat
  rowdiv : Nat
  sections : List (Reg40 × Section)
  entries : List (Reg40 × Nat × Entry)
  bobbins : List (Reg40 × Nat × (Nat × Nat))
  routes : List (Reg40 × BitVec 6 × BitVec 16)
  triggers : List (Reg40 × BitVec 6 × BitVec 32)
  spindles : List (Reg40 × Nat × Shape)
  deriving DecidableEq, Repr

/-- One core's share of an image: what the dealer programs (R369, Table 1.3), or what a splice brings (R106). -/
structure CoreImage where
  sections : List (Nat × List Byte)
  entries : List (Nat × Entry)
  bobbins : List (Nat × (Nat × Nat))
  routes : List (BitVec 6 × BitVec 16)
  triggers : List (BitVec 6 × BitVec 32)
  spindles : List (Nat × Shape)
  deriving DecidableEq, Repr

/-- A transfer in the configuration class, which goes to every core of the partition of the launch record `rec` (R173). -/
inductive CfgMsg where
  /-- The code and initial data of a launch. -/
  | code (rec : Nat) (sections : List (Reg40 × Section))
  /-- The configuration and code of a spliced successor, with the protection entries of its domain. -/
  | splice (rec : Nat) (img : Image) (plb : Vector Dword 16)
  /-- The segment that a resume writes back to core n of the partition. -/
  | segment (rec : Nat) (n : Nat) (bytes : List Byte)
  deriving DecidableEq, Repr

/-- A flit of the configuration class in a router (R161, R173): the input by which it came, 5 where the dealer sent it, the flit,
the record that it serves, and with the last flit of a transfer what that brings. -/
structure CfgFlit where
  port : Nat
  flit : Flit
  rec_ : Nat
  brings : Option CfgMsg
  deriving DecidableEq, Repr

/-- A CSR instruction to be performed in the core cycle 2 after its issue (R376, R383). -/
structure CsrOp where
  slot : BitVec 3
  op : BitVec 2
  csr : BitVec 12
  d : BitVec 4
  val : Word
  deriving DecidableEq, Repr

/-- A change that takes effect some core cycles after its instruction (R157, R170, R376, R379, R380). -/
inductive Later where
  | bobbin (n : BitVec 5) (b : Bobbin)
  | route (ch : BitVec 6) (v : BitVec 16)
  | csr (o : CsrOp)
  /-- ERET: the stopped slot k resumes at index i of the clause at a with header h. -/
  | resume (k : BitVec 3) (a : Addr) (h : Word) (i : Nat)
  /-- ERET.REL: the stopped slot k is freed. -/
  | release (k : BitVec 3)
  deriving DecidableEq, Repr

/-- An exit report's progress (R370). -/
inductive ExitSt where
  | none | held
  deriving DecidableEq, Repr

/-- Core cycles until which each shared unit is taken (R88, R111, R113, R134, R197, R206, R215, R224, R237). -/
structure Units where
  divider : Nat
  fdiv : Nat
  vector : Nat
  array : Nat
  reblock : Nat
  drain : Nat
  sendPort : Nat
  cfgPort : Nat
  deriving DecidableEq, Repr

/-- One logical core with its router. -/
structure Core where
  strands : Vector Strand 8
  vregs : Vector VReg 32
  tiles : Vector Tile 8
  accs : Vector Acc 4
  sram : List Host.Cell
  /-- Byte addresses of 64-bit words with an uncorrectable, and a correctable, error (R138). -/
  ue : List Nat
  ce : List Nat
  bobbins : Vector Bobbin 32
  tags : Vector Tag 64
  routes : Vector (BitVec 16) 64
  trigs : Vector (BitVec 32) 64
  sendCtr : Vector (BitVec 16) 64
  tricks : Vector Trick 8
  inject : List Inject
  /-- The flits in the router's input buffers, oldest first, and the messages under way through it (R167, R168). -/
  inputs : List InFlit
  ways : List Way
  emits : List Emit
  locals : List LocalMsg
  /-- Flits sent on an output (0–3, 4 to the core, 5 from the core into the router) whose credits have not come back,
  and those held to be returned, by channel, 66 for the configuration class (R161, R168, R173). -/
  used : List ((Nat × Nat) × Nat)
  owed : List ((Nat × Nat) × Nat)
  /-- Each channel's last winner, and the input at whose head its scan has stopped (R167). -/
  lastWin : List (BitVec 6 × Nat)
  picks : List (BitVec 6 × Nat)
  freezeBuf : List (Nat × Flit)
  frozen : Bool
  drained : Bool
  quiescent : Bool
  entries : Vector (Option Entry) 16
  spawnQ : List SpawnReq
  grantHeld : Bool
  shapes : Vector (Option Shape) 64
  streams : Vector Stream 16
  copies : List Copy
  drainM : List DrainM
  srDrain : Word
  srVcvt : Word
  srSeed : Word
  sigSeed : Word
  cap : BitVec 4
  pol : BitVec 2
  splice : Bool
  sramce : Word
  plb : Vector Dword 16
  plbLow : Vector (Option Word) 16
  /-- The slot that issued last, and whether its strand has left it since (R89). -/
  lastIssue : Option (BitVec 3)
  lastGone : Bool
  /-- The slot that issued the latest YIELD, and its core cycle (R90). -/
  yielded : Option (BitVec 3 × Nat)
  /-- Core cycles ended, and clock periods beyond one for each of them (R420). -/
  cc : Nat
  stretched : Nat
  /-- In the second period of a stretched core cycle (R344). -/
  half : Bool
  stretchLeft : Nat
  halfLeft : Nat
  vecOn : Bool
  tenOn : Bool
  /-- The core cycle by which every vector result is due (R341). -/
  vecUntil : Nat
  vecIdle : Nat
  tenIdle : Nat
  token : Option Bool
  units : Units
  /-- The words that the data port has still to reach, in groups of one core cycle where no two share a bank (R137, R140). -/
  dataQ : List (List Nat)
  /-- The word of a LATOM whose second access the data port has still to make, and whether it has made the first (R155). -/
  latom : Option (Nat × Bool)
  /-- The words of the flits that the deposit port has still to write, one flit a core cycle (R137). -/
  depQ : List (List Nat)
  /-- The banks taken in the present core cycle, and whether the fill port has had its turn in it (R137). -/
  banks : List Nat
  filled : Bool
  later : List (Nat × Later)
  reports : List FaultRec
  /-- The number of the offer of a report in flight, 0 for none. -/
  offers : Nat
  reofferAt : Option Nat
  recSeq : BitVec 16
  exitRep : ExitSt
  scSeq : Nat
  collCount : List (Nat × Nat)
  /-- The router's configuration-class entry, the outputs of its multicast, the flits of the class at its input, and what the core's
  configuration port holds (R173). -/
  cfgOuts : List Nat
  cfgIn : List CfgFlit
  cfg : List CfgMsg
  /-- The partition number, the launch record and the privilege of the skein that the core runs. -/
  part : Option Nat
  skein : Nat
  priv : Bool
  deriving DecidableEq, Repr

/-! ### Hubs, row domains, bricks -/

/-- A join element (Table 11.4). -/
structure Join where
  n : BitVec 11
  count : BitVec 10
  gen : BitVec 16
  wait : Bool
  deriving DecidableEq, Repr

/-- A monitor (R346). -/
structure Monitor where
  cfg : Word
  count : Word
  min : Word
  max : Word
  bins : Vector Word 16
  deriving DecidableEq, Repr

/-- A request on its way to a hub (R310). -/
inductive HubOp where
  | catom (op : BitVec 4) (dbl : Bool) (addr : Addr) (v c : Dword) (d : BitVec 4)
  | join (j : BitVec 5) (d : BitVec 4) (acq : Bool)
  | cfg (j : BitVec 5) (n : Word)
  | query (j : BitVec 5) (d : BitVec 4)
  | monset (m : BitVec 2) (v : Word)
  | monrd (m : BitVec 2) (sel : BitVec 5) (d : BitVec 4)
  | csr (op : BitVec 2) (csr : BitVec 12) (d : BitVec 4) (v : Word)
  /-- A record offered: of the stopped strand, or of the report buffer; with the number of the offer. -/
  | offer (r : FaultRec) (stopped : Bool) (no : Nat)
  deriving DecidableEq, Repr

/-- A hub request with its issuer. -/
structure HubReq where
  core : Nat
  slot : BitVec 3
  op : HubOp
  deriving DecidableEq, Repr

/-- A hub's reply on its way to a core (R310). -/
inductive HubRep where
  /-- A word or pair for g[d], making a held strand eligible when `ack`. -/
  | value (d : BitVec 4) (dbl : Bool) (v : Dword) (ack : Bool)
  /-- An acknowledgement alone. -/
  | ack
  /-- A fault of the held instruction: cause and EINFO. -/
  | fault (cause : BitVec 8) (einfo : Word)
  /-- The count of a CJOIN: its generation. -/
  | joined (j : BitVec 5) (d : BitVec 4) (gen : BitVec 16) (acq : Bool)
  /-- A fire of join j for generation gen. -/
  | fire (j : BitVec 5) (gen : BitVec 16)
  /-- The answer to a fault-record offer. -/
  | offer (accepted : Bool) (stopped : Bool) (no : Nat)
  /-- The freeze wave (R372). -/
  | freeze
  deriving DecidableEq, Repr

/-- A hub (R310–R314, R343–R346, R362, R372). -/
structure Hub where
  sram : List Host.Cell
  ue : List Nat
  joins : Vector Join 32
  monitors : Vector Monitor 4
  buf : List FaultRec
  /-- The number of the hub's own next record (R360). -/
  seq : BitVec 16
  refused : BitVec 16
  ovf : Bool
  drth : Word
  stretch : Word
  halvewin : Word
  frozen : Bool
  saved : Bool
  savef : Bool
  deriving DecidableEq, Repr

/-- An arbiter request (R339), with the slot it asks for, or an admitted charge, with the slot that holds it. -/
structure Charge where
  core : Nat
  slot : BitVec 3
  amount : Nat
  issued : Nat
  at_ : Nat
  deriving DecidableEq, Repr

/-- A row domain (R334, R335, R339, R342, R345). -/
structure Domain where
  div : BitVec 3
  boost : Bool
  oclim : Bool
  admitMax : BitVec 11
  settling : Bool
  want : Option (BitVec 3 × Bool)
  requests : List Charge
  charges : List Charge
  tokens : Nat
  /-- Token requests, oldest first: the domain cycle, the core, and whether for the vector unit. -/
  tokenQ : List (Nat × Nat × Bool)
  returns : List (Nat × Nat)
  /-- What names the phase of the tick edges against the domain's clock edges (R336). -/
  phase : Nat
  deriving DecidableEq, Repr

/-- A cached leaf translation (R271): the virtual and physical page numbers in bytes, the page size in bits, its flags. -/
structure Tlb where
  va : Nat
  pa : Nat
  bits : Nat
  w : Bool
  d : Bool
  cnt : Bool
  deriving DecidableEq, Repr

/-- An armed watch (R291): a core's tag, or a queue tail the dealer watches. -/
structure Watch where
  id : Nat
  core : Nat
  tag : BitVec 6
  pa : Nat
  cmp : Dword
  deriving DecidableEq, Repr

/-- A held line of a home atomic unit (R304). -/
structure Line where
  pa : Nat
  data : List Byte
  dirty : Bool
  last : Nat
  deriving DecidableEq, Repr

/-- A page counter (R281); `last` orders the counters by their latest increment. -/
structure PageCtr where
  va : Nat
  bits : Nat
  home : Nat
  count : Nat
  saturated : Bool
  last : Nat
  deriving DecidableEq, Repr

/-- A memory queue's registers: base, size, head, tail (R282, R363, R384). -/
structure QRegs where
  base : Dword
  size : Dword
  head : Dword
  tail : Dword
  deriving DecidableEq, Repr

/-- A CXL port (R264, R384, R421): link state 0 down, 1 training, 2 up; capacity of the device behind it, in bytes. -/
structure Cxl where
  link : BitVec 2
  host : Bool
  lanes : BitVec 5
  fast : Bool
  unsup : Bool
  cap : Nat
  deriving DecidableEq, Repr

/-- A 256-byte Nirber flit (Table 12.5), without its CRC. -/
structure NFlit where
  type : BitVec 4
  seq : BitVec 12
  ack : BitVec 12
  stream : Word
  payload : List Byte
  deriving DecidableEq, Repr

/-- A Nirber port (R330–R333): `sendSeq` and `recvSeq` are the next data SEQ to send and to receive. -/
structure Nirber where
  st : BitVec 2
  degr : Bool
  misrail : Bool
  peer : BitVec 16
  fecc : Byte
  fecu : Byte
  crc : Word
  replay : Word
  retrain : Word
  corr : Word
  sendSeq : BitVec 12
  recvSeq : BitVec 12
  /-- The data flits not acknowledged, each with the time base of its latest sending (R332). -/
  replayBuf : List (NFlit × Nat)
  /-- Collectives that have failed here and of whose failure the peer has not told yet, by group, number and the peer's slot, 32 for
  none: what still comes of them is passed over (R326). -/
  skip : List (Nat × Nat × Nat)
  replays : Nat
  retrainAt : Nat
  /-- Flits on the wire toward the peer, and flits delivered to the sequencer and not yet used. -/
  wire : List NFlit
  got : List NFlit
  deriving DecidableEq, Repr

/-- A brick (spec/10–12). -/
structure Brick where
  tlb : List Tlb
  spindles : List (Nat × (Nat × Nat))
  watches : List Watch
  lines : List Line
  counters : List PageCtr
  /-- The pages whose QUEUED flag is set, by address and page size, with the place of their notices (R281). -/
  queued : List ((Nat × Nat) × Nat)
  th : BitVec 5
  en : Bool
  qfull : Bool
  missed : BitVec 16
  mq : QRegs
  cxl : Vector Cxl 4
  ports : Vector Nirber 6
  held : List FaultRec
  recSeq : BitVec 16
  /-- The sequencer's own record series (R360). -/
  seqSeq : BitVec 16
  deriving DecidableEq, Repr

/-! ### Edge operations in flight (spec/10, 11) -/

/-- A piece of an edge access: a virtual range within one page, its data, and its physical address once translated. -/
structure Piece where
  va : Nat
  n : Nat
  pa : Nat
  data : List Byte
  deriving DecidableEq, Repr

/-- What an edge request asks. -/
inductive EdgeOp where
  /-- Unit u of the round with this id on stream slot n. -/
  | unit (n : Nat) (round : Nat) (u : Nat)
  /-- ELD into a bobbin at an offset (R289); mantissa bytes, side bytes. -/
  | eld (bob : BitVec 5) (off : Nat) (size : Nat) (blk : Bool) (last : Bool) (tag : BitVec 6)
  | est (tag : BitVec 6)
  | ewatch (cmp : Dword) (tag : BitVec 6)
  | atomic (op : BitVec 4) (sys : Bool) (dbl : Bool) (sc : Bool) (v c : Dword) (d : BitVec 4) (q : Nat)
  /-- LAUNCH (R382): the record, the step it has come to, and the old tail. -/
  | launch (d : BitVec 4) (rec : Nat) (phase : Nat) (old : Nat)
  deriving DecidableEq, Repr

/-- Where a request stands between the core and its completion (R261, R305). -/
inductive Stage where
  /-- On its way to the serving brick. -/
  | toBrick
  /-- Translated, on its way to the home brick. -/
  | toHome
  /-- An EATOMSC that has been translated and is not announced yet (R305, R308). -/
  | unannounced
  /-- An EATOMSC announced in window w. -/
  | announced (w : Nat)
  /-- An EWATCH armed at its home. -/
  | armed
  /-- On its way back with its result. -/
  | back
  /-- Faulted with the operation still outstanding (ELD, EST, EWATCH). -/
  | held
  deriving DecidableEq, Repr

/-- An edge request in flight (R261–R263). -/
structure EdgeReq where
  id : Nat
  core : Nat
  slot : BitVec 3
  brick : Nat
  write : Bool
  op : EdgeOp
  pieces : List Piece
  stage : Stage
  issued : Nat
  /-- Fault found: cause, reason of Table 10.10, address. -/
  fault : Option (BitVec 8 × BitVec 2 × Dword)
  value : Dword
  /-- For ELD: landed at its offset. -/
  landed : Bool
  deriving DecidableEq, Repr

/-! ### Collectives (spec/12) -/

/-- A participant of a collective in this module: its issuer, with the issuer's partition, and parameter block (Table 12.2);
`done` once its tag is set. The core of a frozen participant is a number from 2^20 up that its saved image holds, and `away` is
what has become of its tag meanwhile (R325). -/
structure CollPart where
  core : Nat
  part : Option Nat
  away : Option Tag
  tag : BitVec 6
  slot : BitVec 3
  lidx : Nat
  op : BitVec 4
  red : BitVec 2
  fmt : BitVec 3
  root : Nat
  send : Nat
  sside : Nat
  recv : Nat
  rside : Nat
  count : Nat
  chunk : Nat
  done : Bool
  deriving DecidableEq, Repr

/-- The progress of one brick's sequencer on a collective (Table 12.3): the chunks that it has read in step 1 and written in
step 3; of step 2 the place among the ring steps, the chunk, and the flit of it, that it sends next, and the ring step and chunk
that it receives next; the partial groups it holds by group index, each with the ring steps that it has been through, in the
partial format; the core and tag whose fault holds it (R326). -/
structure CollBrick where
  brick : Nat
  read : Nat
  send : Nat
  sChunk : Nat
  sFlit : Nat
  recv : Nat
  rChunk : Nat
  write : Nat
  partials : List (Nat × (Nat × List Byte))
  halted : Option (Nat × BitVec 6)
  deriving DecidableEq, Repr

/-- States of a collective (R317, R318, R326). -/
inductive CollSt where
  | matching | matched | waiting | running | failed | aborting | complete
  deriving DecidableEq, Repr

/-- A collective (R318): number n of its group, with the group entry's fields; `matched` once its match flits are sent; the slot that
it has on the bricks here, and the one that it has in the module before this on the ring. `extra` are the tags of second arrivals
with an LIDX (Table 12.4), `sub` the subcode of its failure. -/
structure Coll where
  id : Nat
  group : Nat
  n : Nat
  gsize : Nat
  mrank : Nat
  localN : Nat
  succ : BitVec 6
  pred : BitVec 6
  slot : Nat
  peer : Nat
  parts : List CollPart
  extra : List (Nat × BitVec 6)
  sub : Nat
  bricks : List CollBrick
  st : CollSt
  chunks : Nat
  deriving DecidableEq, Repr

/-! ### The management plane (spec/14, 15) -/

/-- A fault queue's registers (R363). -/
structure FaultQ where
  q : QRegs
  ctl : Word
  deriving DecidableEq, Repr

/-- A dealt record's stage (Table 14.7, Table 14.10). -/
inductive PartSt where
  | selected | loading | running | spliceWait | freezing | saving | frozen
  deriving DecidableEq, Repr

/-- A record in the dealer's hands: the fields of Table 14.6 it needs while it lives. -/
structure PartRec where
  part : Nat
  recVa : Nat
  image : Nat
  save : Nat
  queue : Nat
  domain : Nat
  kind : BitVec 2
  irq : Bool
  vec : BitVec 6
  col0 : Nat
  row0 : Nat
  ncol : Nat
  nrow : Nat
  srs : Word
  sigs : Word
  pred : Nat
  olaunch : Bool
  opriv : Bool
  opart : Nat
  resv : Bool
  priv : Bool
  sprio : BitVec 3
  rowdiv : BitVec 4
  /-- Doubleword 3 of the record (R374). -/
  d3 : Dword
  st : PartSt
  accepted : Nat
  /-- The record of the skein this one succeeds, for a splice (R371). -/
  succOf : Option Nat
  remap : Bool
  deriving DecidableEq, Repr

/-- A map copy (Table 15.2): its fields; `sig` the signature's 96 bytes as one number; dead sites and links sparse. -/
structure MapCopy where
  magic : Word
  origin : Byte
  rev : Byte
  serial : Dword
  time : Dword
  /-- Sites not in state 0, by index, with their code. -/
  sites : List (Nat × Nat)
  /-- Dead links: site index and direction. -/
  links : List (Nat × Bool)
  sig : BitVec 768
  deriving DecidableEq, Repr

/-- Boot progress (Table 15.5) and the management plane's registers (Table 14.15). -/
structure Mgmt where
  serial : Dword
  bootCfg : Word
  flashCfg : Word
  bootCause : Word
  grid : Word
  bootProg : BitVec 5
  etroot : Dword
  cmd : Dword
  arg0 : Dword
  arg1 : Dword
  arg2 : Dword
  cmdStat : Word
  mgq : QRegs
  errlog : QRegs
  treePage : Dword
  /-- While an ETINV runs: the requests translated through what it has dropped (R271). -/
  etinv : Option (List Nat)
  /-- Low halves staged by 4-byte writes: (host port, register offset) (R384). -/
  staged : List ((Nat × Nat) × Word)
  queues : Vector (BitVec 128) 64
  /-- Each queue's sentinel record, once known (R365). -/
  sentinels : List (Nat × Nat)
  faultQs : Vector FaultQ 64
  groups : Vector Dword 256
  /-- The domain table: entry k of domain d at 16 d + k, unlisted entries 0 (R386). -/
  domains : List (Nat × Dword)
  leader : BitVec 2
  epoch : BitVec 16
  alive : BitVec 4
  /-- The heartbeats that each root controller has missed in a row (R400). -/
  missed : Vector Nat 4
  takeover : Bool
  unsync : Bool
  slew : Option Int
  lossCnt : BitVec 16
  ocause : Word
  /-- Over-current holds running: reticle and the tick of their end (R345). -/
  ocHolds : List (Nat × Nat)
  parts : List PartRec
  /-- Transfers in the configuration class that the dealer has still to send, with the root of their tree and the flits gone
  (R173). -/
  cfgNet : List (Nat × CfgMsg × Nat)
  /-- The transfers of the records being loaded, with the root of their tree, as the dealer's checkpoint holds them (R400). -/
  sent : List (Nat × CfgMsg)
  /-- Lasting failures still to be handled, in the order of detection: site and kind (R405, R406). -/
  failures : List (Nat × Nat)
  /-- The record being loaded (R368). -/
  loading : Option PartRec
  /-- MSI-X vectors raised: (host port, vector). -/
  irqs : List (Nat × Nat)
  /-- Management alerts posted. -/
  alerts : List Nat
  held : List FaultRec
  recSeq : BitVec 16
  copyA : MapCopy
  copyB : MapCopy
  copyC : MapCopy
  /-- The map that placement uses, and the map of record without the marks of this boot (R401 step 5, R403, R405). -/
  map : MapCopy
  recMap : MapCopy
  /-- Physical truth: sites, links and hub blocks that do not work (R397, R401, R403). -/
  badSites : List (Nat × Nat)
  badLinks : List (Nat × Bool)
  badHubs : List Nat
  /-- The hub block that serves each cluster (R397). -/
  hubBlocks : List (Nat × Nat)
  /-- Live sites kept as spares by R394, and hops that take a detour. -/
  spared : List Nat
  remapped : List Nat
  /-- Dead sites whose core no remap could place elsewhere: placement still counts them (R405). -/
  stuck : List Nat
  discovered : List Nat
  transients : List (Nat × Nat)
  /-- Cores whose control-network request has been sent once more, and operations whose retry has succeeded: site and kind (R404). -/
  resent : List Nat
  recovered : List (Nat × Nat)
  /-- Step 7 of boot: 0 not begun, 1 the bring-up skein dealt, 2 the firmware image taken up (R401); the image, from the flash
  devices. -/
  bringUp : Nat
  firmware : List Byte
  /-- FREEZEs asked of the dealer: core, strand slot, register, partition (R381). -/
  freezeAns : List (Nat × BitVec 3 × BitVec 4 × Word)
  deriving DecidableEq, Repr

/-- One entry of the agenda: what acts next. -/
inductive Turn where
  /-- An event. -/
  | event (e : Instr)
  /-- A core takes its part in the present clock period of its row domain (R420). -/
  | cycle (core : Nat)
  /-- The clock edge that ends a row domain's present period. -/
  | edge (domain : Nat)
  deriving DecidableEq, Repr

/-- The whole module. Unlisted cores, hubs, domains and bricks are as at reset. -/
structure State where
  power : Bool
  cores : List (Nat × Core)
  hubs : List (Nat × Hub)
  domains : List (Nat × Domain)
  /-- The domain-cycle count of each row domain (R420); an unlisted one is 0. -/
  cycles : List (Nat × Nat)
  /-- The time at which each row domain's present clock period began, in 1/66 ns; an unlisted domain's is the time base (R336). -/
  clocks : List (Nat × Nat)
  bricks : List (Nat × Brick)
  edge : List Host.Cell
  /-- Physical 64-byte lines marked poisoned (R278, R303). -/
  poison : List Nat
  reqs : List EdgeReq
  hubReqs : List HubReq
  hubReps : List (Nat × BitVec 3 × HubRep)
  colls : List Coll
  mgmt : Mgmt
  /-- The time base (R336). -/
  time : Nat
  /-- The core and strand slot whose instruction is being executed. -/
  cur : Nat
  slot : BitVec 3
  agenda : List Turn
  /-- Counter behind the free values of Config. -/
  free : Nat
  nextId : Nat
  deriving DecidableEq, Repr

/-! ### Reset values -/

def Place.reset : Place := ⟨0, 0, 0, false⟩
def Frame.reset : Frame := ⟨0, false, false, 0, 0, 0, 0, 0⟩
def Buffer.reset : Buffer := ⟨false, 0, 0, []⟩
def Decl.reset : Decl := ⟨.none, 0, 0, 0, none⟩
def Proj.reset : Proj :=
  ⟨0, 0, 0, Vector.replicate 16 (Vector.replicate 12 0), Vector.replicate 16 0, Vector.replicate 16 0, Vector.replicate 16 0, 0⟩
def Map.reset : Map := ⟨0, 0, 0, 0, 0⟩

/-- A free slot (R86). -/
def Strand.reset : Strand :=
  { run := .free, frozen := false, wait := .idle, waitFrom := 0, hold := .none, g := Vector.replicate 16 0, m := Vector.replicate 4 0,
    pc := 0, here := Place.reset, buf := Buffer.reset, fill := none, notBefore := 0, status := 0, stamp := 0, trapEntry := none,
    handler := false, handlerDue := false, frame := Frame.reset, fsel := 0, inbind := 0, astat := 0, undecl := 0, tpr := 0,
    proj := Proj.reset, map := Map.reset, decl := Decl.reset, phases := [], gmma := none, cover := .fresh, pend := [], flags := [],
    edgeIds := [], fences := [], rel := [], offer := false, offered := 0, fault := none }

def VReg.reset : VReg := ⟨Vector.replicate 32 0, 0⟩
/-- R212: FMT B8, ROWS = COLS = 16, fields 0, side pairs E = 0 and ply = 0xFF. -/
def Tile.reset : Tile := ⟨1, 15, 15, Vector.replicate 16 0xFF00, Vector.replicate 16 (Vector.replicate 16 0)⟩
/-- As ACCZ leaves it (R74, R222): elements 0, X = −2,048, steps 0. -/
def Acc.reset : Acc := ⟨Vector.replicate 256 0, 0x800, 0⟩
def Bobbin.reset : Bobbin := ⟨0, 0, 0, 0, false, 0, 0, false, 0, 0, 0, 0, .empty, false, false⟩
def Tag.reset : Tag := ⟨.idle, .none, false, 0, 0, 0⟩
def Trick.reset : Trick := ⟨none, 0, 0, 0, false, [], [], 0, 0, 0, .idle, 0, []⟩
def Shape.reset : Shape :=
  ⟨0, false, 0, 0, false, 0, 0, 0, 0, Vector.replicate 8 0, Vector.replicate 8 0, false⟩
def Stream.reset : Stream := ⟨.free, 0, none, 0, Shape.reset, [], (0, 0)⟩
def Units.reset : Units := ⟨0, 0, 0, 0, 0, 0, 0, 0⟩

/-- A core at module reset; the SR generators hold what a seed of 0 loads (R69, R70). -/
def Core.reset : Core :=
  { strands := Vector.replicate 8 Strand.reset, vregs := Vector.replicate 32 VReg.reset, tiles := Vector.replicate 8 Tile.reset,
    accs := Vector.replicate 4 Acc.reset, sram := [], ue := [], ce := [], bobbins := Vector.replicate 32 Bobbin.reset,
    tags := Vector.replicate 64 Tag.reset, routes := Vector.replicate 64 0, trigs := Vector.replicate 64 0,
    sendCtr := Vector.replicate 64 0, tricks := Vector.replicate 8 Trick.reset, inject := [], inputs := [], ways := [], emits := [], locals := [],
    used := [], owed := [], lastWin := [], picks := [], freezeBuf := [], frozen := false, drained := false, quiescent := false,
    entries := Vector.replicate 16 none, spawnQ := [], grantHeld := false, shapes := Vector.replicate 64 none,
    streams := Vector.replicate 16 Stream.reset, copies := [], drainM := [], srDrain := 1, srVcvt := 0x55555555, srSeed := 0,
    sigSeed := 0, cap := 8, pol := 0, splice := false, sramce := 0, plb := Vector.replicate 16 0,
    plbLow := Vector.replicate 16 none, lastIssue := none, lastGone := false, yielded := none, cc := 0, stretched := 0, half := false, stretchLeft := 0,
    halfLeft := 0, vecOn := false, tenOn := false, vecUntil := 0, vecIdle := 0, tenIdle := 0, token := none, units := Units.reset, dataQ := [], latom := none, depQ := [], banks := [], filled := false, later := [],
    reports := [], offers := 0, reofferAt := none, recSeq := 0, exitRep := .none, scSeq := 0, collCount := [], cfgOuts := [], cfgIn := [], cfg := [],
    part := none, skein := 0, priv := false }

/-- R311: N = 128. -/
def Join.reset : Join := ⟨128, 0, 0, false⟩
/-- An empty monitor (R346). -/
def Monitor.reset : Monitor := ⟨0, 0, 0xFFFFFFFF, 0, Vector.replicate 16 0⟩
def Hub.reset : Hub :=
  { sram := [], ue := [], joins := Vector.replicate 32 Join.reset, monitors := Vector.replicate 4 Monitor.reset, buf := [], seq := 0,
    refused := 0, ovf := false, drth := 25, stretch := 6, halvewin := 64, frozen := false, saved := false,
    savef := false }
/-- Table 13.1 and R342. -/
def Domain.reset : Domain :=
  { div := 7, boost := false, oclim := false, admitMax := 1024, settling := false, want := none, requests := [], charges := [], tokens := 64, tokenQ := [], returns := [], phase := 0 }
def QRegs.reset : QRegs := ⟨0, 0, 0, 0⟩
def Cxl.reset : Cxl := ⟨0, false, 0, false, false, 0⟩
def Nirber.reset : Nirber :=
  { st := 0, degr := false, misrail := false, peer := 0, fecc := 0, fecu := 0, crc := 0, replay := 0, retrain := 0, corr := 0,
    sendSeq := 0, recvSeq := 0, replayBuf := [], skip := [], replays := 0, retrainAt := 0, wire := [], got := [] }
/-- Table 10.7: TH = 12. -/
def Brick.reset : Brick :=
  { tlb := [], spindles := [], watches := [], lines := [], counters := [], queued := [], th := 12, en := false, qfull := false, missed := 0,
    mq := QRegs.reset, cxl := Vector.replicate 4 Cxl.reset, ports := Vector.replicate 6 Nirber.reset, held := [], recSeq := 0, seqSeq := 0 }
/-- A map of an undamaged module, as the factory would write it. -/
def MapCopy.good (serial : Dword) : MapCopy := ⟨0x4D5A444D, 0, 3, serial, 0, [], [], 0⟩
/-- Table 14.15 at reset; GRID as Table 15.6 gives it. -/
def Mgmt.reset : Mgmt :=
  { serial := 0, bootCfg := 0, flashCfg := 0, bootCause := 0, grid := 0x001E0400, bootProg := 0, etroot := 0, cmd := 0,
    arg0 := 0, arg1 := 0, arg2 := 0, cmdStat := 0, mgq := QRegs.reset, errlog := QRegs.reset, treePage := 0, etinv := none, staged := [],
    queues := Vector.replicate 64 0, sentinels := [], faultQs := Vector.replicate 64 ⟨QRegs.reset, 0⟩,
    groups := Vector.replicate 256 0, domains := [], leader := 0, epoch := 0, alive := 15, missed := Vector.replicate 4 0, takeover := false,
    unsync := false, slew := none, lossCnt := 0, ocause := 0, ocHolds := [], parts := [], cfgNet := [], sent := [], failures := [], loading := none, irqs := [],
    alerts := [], held := [], recSeq := 0, copyA := MapCopy.good 0, copyB := MapCopy.good 0, copyC := MapCopy.good 0,
    map := MapCopy.good 0, recMap := MapCopy.good 0, badSites := [], badLinks := [], badHubs := [], hubBlocks := [], spared := [], remapped := [], stuck := [],
    discovered := [], transients := [], resent := [], recovered := [], bringUp := 0, firmware := [],
    freezeAns := [] }

/-- The module right after reset, before power is applied (R401). -/
def State.reset : State :=
  { power := false, cores := [], hubs := [], domains := [], cycles := [], clocks := [], bricks := [], edge := [], poison := [], reqs := [], hubReqs := [],
    hubReps := [], colls := [], mgmt := Mgmt.reset, time := 0, cur := 0, slot := 0, agenda := [], free := 0, nextId := 1 }

end Sys2Proof.Machine
end

