-- ==== Sys2Proof/Machine/Ops.lean ====
section
/-! DEFINITION. The named operations over the state: registers and the scoreboard, control flow, core memory with its
bobbin checks, copy tags, taking a fault, and waking waiting strands. -/

namespace Sys2Proof.Machine

abbrev Out := Host.Outcome State Fault Refusal

/-! ### Components -/

/-- The logical row and column of core L (01 R12). -/
def rowOf (l : Nat) : Nat := l / 1024
def colOf (l : Nat) : Nat := l % 1024
/-- The hub of a core: clusters are 16 columns by 8 rows (01 R13). -/
def hubOf (l : Nat) : Nat := 64 * (rowOf l / 8) + colOf l / 16
/-- Cluster position, row * 16 + column (11 R310). -/
def clusterPos (l : Nat) : Nat := rowOf l % 8 * 16 + colOf l % 16
/-- The row domain of a core (01 R15). -/
def domainOf (l : Nat) : Nat := rowOf l / 8

/-- The domain-cycle count of row domain d (R420). -/
def State.dcyc (s : State) (d : Nat) : Nat := lookup 0 s.cycles d
/-- Core L (row * 1,024 + column). A core that is not listed is as at reset, but that it has counted every period of its row
domain's clock as a core cycle (R420). -/
def State.core (s : State) (l : Nat) : Core := lookup { Core.reset with cc := s.dcyc (domainOf l) } s.cores l
def State.setCore (s : State) (l : Nat) (c : Core) : State := { s with cores := insert l c s.cores }
def State.modCore (s : State) (l : Nat) (f : Core → Core) : State := s.setCore l (f (s.core l))
/-- The numbers from here on stand for no core: this one for what is discarded, the others for frozen participants of collectives
(R325). -/
def nobody : Nat := 2 ^ 20
/-- Hub 64 * cluster row + cluster column. -/
def State.hub (s : State) (h : Nat) : Hub := lookup Hub.reset s.hubs h
def State.setHub (s : State) (h : Nat) (c : Hub) : State := { s with hubs := insert h c s.hubs }
def State.modHub (s : State) (h : Nat) (f : Hub → Hub) : State := s.setHub h (f (s.hub h))
/-- Row domain d, of logical rows 8 d to 8 d + 7 (01 R15). -/
def State.domain (s : State) (d : Nat) : Domain := lookup Domain.reset s.domains d
def State.setDomain (s : State) (d : Nat) (c : Domain) : State := { s with domains := insert d c s.domains }
def State.modDomain (s : State) (d : Nat) (f : Domain → Domain) : State := s.setDomain d (f (s.domain d))
/-- Brick b. -/
def State.brick (s : State) (b : Nat) : Brick := lookup Brick.reset s.bricks b
def State.setBrick (s : State) (b : Nat) (c : Brick) : State := { s with bricks := insert b c s.bricks }
def State.modBrick (s : State) (b : Nat) (f : Brick → Brick) : State := s.setBrick b (f (s.brick b))

def Core.strand (c : Core) (k : BitVec 3) : Strand := rd c.strands k
def Core.setStrand (c : Core) (k : BitVec 3) (t : Strand) : Core := { c with strands := wr c.strands k t }
def Core.modStrand (c : Core) (k : BitVec 3) (f : Strand → Strand) : Core := c.setStrand k (f (c.strand k))

/-- The core and the strand whose instruction executes. -/
def State.me (s : State) : Core := s.core s.cur
def State.st (s : State) : Strand := s.me.strand s.slot
def State.modMe (s : State) (f : Core → Core) : State := s.modCore s.cur f
def State.modSt (s : State) (f : Strand → Strand) : State := s.modMe fun c => c.modStrand s.slot f

/-- The eight strand slots. -/
def slots : List (BitVec 3) := [0, 1, 2, 3, 4, 5, 6, 7]

/-! ### Registers -/

/-- g[r]; g0 reads as zero (R44). -/
def Strand.getG (t : Strand) (r : BitVec 4) : Word := if r = 0 then 0 else rd t.g r
/-- Writing g[r]; a write to g0 is discarded (R45). -/
def Strand.putG (t : Strand) (r : BitVec 4) (v : Word) : Strand := if r = 0 then t else { t with g := wr t.g r v }
/-- m[r]; m0 reads as all ones (R44). -/
def Strand.getM (t : Strand) (r : BitVec 2) : Word := if r = 0 then 0xFFFFFFFF else rd t.m r
/-- Writing m[r]; a write to m0 is discarded (R45). -/
def Strand.putM (t : Strand) (r : BitVec 2) (v : Word) : Strand := if r = 0 then t else { t with m := wr t.m r v }
/-- The register pair named by its even register: g2k holds bits 31:0 (Table 2.6). -/
def Strand.getP (t : Strand) (r : BitVec 4) : Dword := t.getG (r + 1) ++ t.getG r
/-- Writing a pair. -/
def Strand.putP (t : Strand) (r : BitVec 4) (v : Dword) : Strand :=
  (t.putG r (v.truncate 32)).putG (r + 1) ((v >>> 32).truncate 32)

/-- Marks a register pending until a core cycle, or until a reply (R93); a write to g0 or m0 counts too (R45). -/
def Strand.mark (t : Strand) (r : Reg) (due : Option Nat) : Strand := { t with pend := t.pend ++ [⟨r, due, false⟩] }
/-- Clears the entries of a register that await a reply, making them due at a core cycle. -/
def Strand.replied (t : Strand) (r : Reg) (due : Nat) : Strand :=
  { t with pend := t.pend.map fun p => if p.reg = r ∧ p.due = none then { p with due := some due } else p }

/-- A reply to a strand that awaits g[d] (R93): the value, usable from core cycle `due`. -/
def Strand.answer (t : Strand) (d : BitVec 4) (v : Word) (due : Nat) : Strand :=
  if t.pend.any fun p => p.reg = .g d ∧ p.due = none then (t.putG d v).replied (.g d) due else t

def State.g (s : State) (r : BitVec 4) : Word := s.st.getG r
def State.m (s : State) (r : BitVec 2) : Word := s.st.getM r
def State.p (s : State) (r : BitVec 4) : Dword := s.st.getP r
/-- The issuing core's cycle. -/
def State.cc (s : State) : Nat := s.me.cc

/-- Writes g[d] with a result latency in core cycles (R93). -/
def State.setG (s : State) (d : BitVec 4) (v : Word) (lat : Nat) : State :=
  s.modSt fun t => (t.putG d v).mark (.g d) (some (s.cc + lat))
/-- Writes the pair P(d) with a result latency. -/
def State.setP (s : State) (d : BitVec 4) (v : Dword) (lat : Nat) : State :=
  s.modSt fun t => ((t.putP d v).mark (.g d) (some (s.cc + lat))).mark (.g (d + 1)) (some (s.cc + lat))
/-- Writes m[d] with a result latency. -/
def State.setM (s : State) (d : BitVec 2) (v : Word) (lat : Nat) : State :=
  s.modSt fun t => (t.putM d v).mark (.m d) (some (s.cc + lat))
/-- Marks g[d] pending until a reply. -/
def State.awaitG (s : State) (d : BitVec 4) : State := s.modSt fun t => t.mark (.g d) none

/-! ### STATUS (Table 4.2) and grants (R46) -/

def Strand.agrant (t : Strand) : Nat := field t.status.toNat 19 3
def Strand.tgrant (t : Strand) : Nat := field t.status.toNat 15 4
def Strand.vgrant (t : Strand) : Nat := field t.status.toNat 10 5
def Strand.abase (t : Strand) : Nat := field t.status.toNat 28 2
def Strand.tbase (t : Strand) : Nat := field t.status.toNat 25 3
def Strand.vbase (t : Strand) : Nat := 4 * field t.status.toNat 22 3
def Strand.pri (t : Strand) : Nat := field t.status.toNat 8 2
def Strand.entryNo (t : Strand) : BitVec 4 := BitVec.ofNat 4 (t.status.toNat / 16)

/-- The core register behind the strand's v[i], t[i], acc[i] (R46). -/
def Strand.vIx (t : Strand) (i : BitVec 4) : BitVec 5 := BitVec.ofNat 5 (t.vbase + i.toNat)
def Strand.tIx (t : Strand) (i : BitVec 3) : BitVec 3 := BitVec.ofNat 3 (t.tbase + i.toNat)
def Strand.aIx (t : Strand) (i : BitVec 2) : BitVec 2 := BitVec.ofNat 2 (t.abase + i.toNat)

def State.v (s : State) (i : BitVec 4) : VReg := rd s.me.vregs (s.st.vIx i)
def State.t (s : State) (i : BitVec 3) : Tile := rd s.me.tiles (s.st.tIx i)
def State.acc (s : State) (i : BitVec 2) : Acc := rd s.me.accs (s.st.aIx i)
/-- Writes v[i] with a result latency. -/
def State.setV (s : State) (i : BitVec 4) (x : VReg) (lat : Nat) : State :=
  (s.modMe fun c => { c with vregs := wr c.vregs (s.st.vIx i) x }).modSt fun t => t.mark (.v i) (some (s.cc + lat))
/-- Writes t[i] with a result latency. -/
def State.setT (s : State) (i : BitVec 3) (x : Tile) (lat : Nat) : State :=
  (s.modMe fun c => { c with tiles := wr c.tiles (s.st.tIx i) x }).modSt fun t => t.mark (.t i) (some (s.cc + lat))
/-- Writes acc[i] with a result latency. -/
def State.setA (s : State) (i : BitVec 2) (x : Acc) (lat : Nat) : State :=
  (s.modMe fun c => { c with accs := wr c.accs (s.st.aIx i) x }).modSt fun t => t.mark (.acc i) (some (s.cc + lat))

/-! ### Clause headers (Table 2.4) and control flow -/

/-- Bits 31:26 mark a clause header (R34). -/
def isHeader (w : Word) : Bool := decide (w.toNat / 2 ^ 26 = 0x3E)
def hdrCount (w : Word) : Nat := field w.toNat 20 6 + 1
def hdrClass (w : Word) : Nat := field w.toNat 18 2
def hdrIndiv (w : Word) : Bool := w.getLsbD 17
def hdrLoop (w : Word) : Bool := w.getLsbD 16
/-- R35. -/
def malformed (w : Word) (addr : Addr) : Bool :=
  decide (w.toNat % 65536 ≠ 0) || (hdrIndiv w && decide (8 < hdrCount w)) || (hdrIndiv w && hdrLoop w)
    || decide (0xFFFC < addr.toNat + 4 * hdrCount w)

/-- The word at an address of core SRAM (R27). -/
def Core.word (c : Core) (a : Addr) : Word := BitVec.ofNat 32 (ofBytes (Memory.bytes c.sram a.toNat 4))

/-- The index within its clause of the instruction at pc. -/
def Strand.idx (t : Strand) : Nat := ((t.pc.toNat + 65536 - t.buf.addr.toNat) % 65536) / 4 - 1
/-- The instruction at pc is the last of its clause. -/
def Strand.atEnd (t : Strand) : Bool := t.idx + 1 == hdrCount t.buf.hdr

/-- A fill not yet begun, to be served from core cycle `asked` on. -/
def mkFill (a : Addr) (why : FillWhy) (asked : Nat) : Fill := ⟨a, why, asked, none, 0, []⟩
/-- Where the instruction at pc stands. -/
def Strand.place (t : Strand) : Place := ⟨t.pc, t.buf.addr, t.idx, hdrIndiv t.buf.hdr⟩
/-- Past the instruction at pc: the next word of the clause, or behind its last the fall-through fill, which starts in the
core cycle after the issue (R36, R41). -/
def Strand.next (t : Strand) : Strand :=
  if t.atEnd then { t with pc := t.pc + 4, fill := some (mkFill (t.pc + 4) .fall (t.stamp + 1)) } else { t with pc := t.pc + 4 }
/-- Past the instruction at pc, which has issued and has not ended: where it stands is kept for its faults. -/
def Strand.leave (t : Strand) : Strand := { t.next with here := t.place }

/-- Past the executing instruction. -/
def State.advance (s : State) : State := s.modSt Strand.next

/-- A transfer to this target finds its clause, loop-resident, in the buffer (R39). -/
def Strand.reuses (t : Strand) (target : Addr) : Bool := t.buf.valid && t.buf.addr == target && hdrLoop t.buf.hdr
/-- Arrival at a header by a transfer that resolves in core cycle r (R39, R95): reuse of a loop-resident buffer, or a
fill. -/
def Strand.goto (t : Strand) (target : Addr) (r : Nat) : Strand :=
  if t.reuses target then { t with pc := target + 4, notBefore := r + 1, cover := .fresh }
  else { t with pc := target, notBefore := r + 1, fill := some (mkFill target (.jump t.place) (r + 1)) }

/-- A transfer target must be the word-aligned address of a clause header (R36, R98). -/
def Core.isTarget (c : Core) (target : Addr) : Bool := decide (target.toNat % 4 = 0) && isHeader (c.word target)

/-! ### Faults (R355–R357) -/

/-- A fault to be raised: the cause of Table 14.1, EINFO and EADDR. -/
structure Trap where
  cause : BitVec 8
  einfo : Word
  eaddr : Dword
  deriving DecidableEq, Repr

def cILLOP : BitVec 8 := 0x01
def cILLCL : BitVec 8 := 0x02
def cNOREG : BitVec 8 := 0x03
def cPRIV : BitVec 8 := 0x04
def cNOENT : BitVec 8 := 0x05
def cERETX : BitVec 8 := 0x06
def cMISAL : BitVec 8 := 0x08
def cBOBST : BitVec 8 := 0x09
def cSWZ : BitVec 8 := 0x0A
def cOPHDR : BitVec 8 := 0x0B
def cTAGBSY : BitVec 8 := 0x0C
def cMEMUE : BitVec 8 := 0x0D
def cCHERR : BitVec 8 := 0x10
def cNOTRIG : BitVec 8 := 0x11
def cTSHP : BitVec 8 := 0x14
def cPARMX : BitVec 8 := 0x15
def cSIGST : BitVec 8 := 0x16
def cPLBX : BitVec 8 := 0x18
def cEPF : BitVec 8 := 0x19
def cEUE : BitVec 8 := 0x1A
def cESTRM : BitVec 8 := 0x1B
def cJOINX : BitVec 8 := 0x1C
def cCOLLX : BitVec 8 := 0x1D
def cMONX : BitVec 8 := 0x1E
def cTRAP : BitVec 8 := 0x20
def cBRK : BitVec 8 := 0x21
def cHALT : BitVec 8 := 0x22
def cSAVEF : BitVec 8 := 0x23
/-- The codes of Table 14.1: no other is ever written (14 R355). -/
def causeCodes : List (BitVec 8) :=
  [cILLOP, cILLCL, cNOREG, cPRIV, cNOENT, cERETX, cMISAL, cBOBST, cSWZ, cOPHDR, cTAGBSY, cMEMUE, cCHERR, cNOTRIG, cTSHP, cPARMX, cSIGST,
   cPLBX, cEPF, cEUE, cESTRM, cJOINX, cCOLLX, cMONX, cTRAP, cBRK, cHALT, cSAVEF]

/-- A fault with no EADDR. -/
def mkTrap (cause : BitVec 8) (einfo : Nat) : Trap := ⟨cause, BitVec.ofNat 32 einfo, 0⟩

/-- Stops a strand on a fault of an instruction or header (R356, R357): the frame is written, the strand's waits and holds
end, its pending entries, registers, declaration and GMMA progress stay. A handler follows when its
entry names one and the cause is not BRK or HALT (R358); else its record waits to be offered to the hub (R361). -/
def Strand.stop (t : Strand) (f : Trap) (p : Place) : Strand :=
  let toHandler := t.trapEntry.isSome && !t.handler && f.cause != cBRK && f.cause != cHALT
  { t with run := .stopped, wait := .idle, hold := .none, pc := p.epc, fill := none, notBefore := 0, rel := t.rel.filter fun r => !r.acq,
           frame := ⟨f.cause, p.indiv, false, p.epc, p.eclb, BitVec.ofNat 6 p.idx, f.einfo, f.eaddr⟩,
           handlerDue := toHandler, offer := !toHandler, offered := 0, fault := none }

/-- Stops a strand on a fault of the instruction at its pc (R357). -/
def Strand.stopHere (t : Strand) (f : Trap) : Strand := t.stop f t.place
/-- Stops a strand on a fault of the instruction that it waits in, or that holds it (R357). -/
def Strand.stopThere (t : Strand) (f : Trap) : Strand := t.stop f t.here

/-- TAKING A FAULT: the executing strand stops at its instruction, which has no effect (R7, R356, R357). -/
def State.trap (s : State) (f : Trap) : State := s.modSt fun t => t.stopHere f

/-- The instruction word at pc, from the clause buffer. -/
def Strand.curWord (t : Strand) : Word := t.buf.words.getD t.idx 0
/-- ILLOP raised by an instruction's own entry: EINFO holds the word (Table 2.3). -/
def State.illop (s : State) : Trap := ⟨cILLOP, s.st.curWord, 0⟩

/-- An instruction's end: past it, or the fault it raises. -/
def conclude (s : State) (r : Except Trap State) : Out :=
  match r with
  | .ok t => .next t.advance
  | .error f => .next (s.trap f)

/-! ### Bobbins (R141–R144) and core memory (R135–R138) -/

def BobSt.code : BobSt → Nat | .empty => 0 | .filling => 1 | .full => 2 | .draining => 3
def isBTag (f : BitVec 3) : Bool := decide (f.toNat ≤ 2)
/-- M of Table 3.2, in bits. -/
def mw (f : BitVec 3) : Nat := if f = 0 then 16 else if f = 1 then 8 else 4

def Core.bobbin (c : Core) (n : BitVec 5) : Bobbin := rd c.bobbins n
def Core.setBobbin (c : Core) (n : BitVec 5) (b : Bobbin) : Core := { c with bobbins := wr c.bobbins n b }
def Core.tag (c : Core) (k : BitVec 6) : Tag := rd c.tags k
def Core.setTag (c : Core) (k : BitVec 6) (t : Tag) : Core := { c with tags := wr c.tags k t }

/-- The 32 bobbin numbers and the 64 tags or channels. -/
def bobNums : List (BitVec 5) := (List.range 32).map (BitVec.ofNat 5)
def tagNums : List (BitVec 6) := (List.range 64).map (BitVec.ofNat 6)

/-- The offset of byte a in the mantissa range, if it lies there. -/
def Bobbin.mantOff (b : Bobbin) (a : Nat) : Option Nat :=
  let o := (a + 65536 - b.base.toNat) % 65536
  if b.valid ∧ o < b.size.toNat then some o else none
/-- The offset of byte a in the side range (R141), if it lies there. -/
def Bobbin.sideOff (b : Bobbin) (a : Nat) : Option Nat :=
  let o := (a + 65536 - b.sbase.toNat) % 65536
  if b.valid ∧ isBTag b.fmt ∧ o < b.size.toNat / mw b.fmt then some o else none

/-- A byte read is legal: in the live window of a full or draining bobbin (R142). -/
def Bobbin.readOk (b : Bobbin) (a : Nat) : Bool :=
  let live := b.st == .full || b.st == .draining
  (match b.mantOff a with
    | some o => live && decide (b.head.toNat ≤ o) && decide (o < b.fill.toNat)
    | none => true) &&
  (match b.sideOff a with
    | some o => live && decide (b.head.toNat / mw b.fmt ≤ o) && decide (o < b.fill.toNat / mw b.fmt)
    | none => true)

/-- A byte lies in a declared bobbin. -/
def Bobbin.touched (b : Bobbin) (a : Nat) : Bool := (b.mantOff a).isSome || (b.sideOff a).isSome

/-- EINFO of BOBST (Table 6.4). -/
def bobInfo (addr : Nat) (n : BitVec 5) (b : Bobbin) (sub : Nat) : Nat :=
  addr % 65536 * 65536 + n.toNat * 256 + b.st.code * 64 + sub

/-- The addresses of an access of n bytes, wrapping. -/
def span (a n : Nat) : List Nat := (List.range n).map fun i => (a + i) % 65536

/-- R142 for a local read of n bytes: the BOBST it raises, naming the access's address and the lowest bobbin at fault. -/
def Core.checkRead (c : Core) (a n : Nat) : Option Trap :=
  match bobNums.find? fun i => (c.bobbin i).valid && (span a n).any fun x => !(c.bobbin i).readOk x with
  | some i => some (mkTrap cBOBST (bobInfo a i (c.bobbin i) 1))
  | none => none

/-- R142 for a local write of n bytes. -/
def Core.checkWrite (c : Core) (a n : Nat) : Option Trap :=
  match bobNums.find? fun i => (c.bobbin i).valid && (span a n).any fun x => (c.bobbin i).touched x with
  | some i => some (mkTrap cBOBST (bobInfo a i (c.bobbin i) 2))
  | none => none

/-- The first byte of an access that lies in a word with an uncorrectable error (R138). -/
def Core.ueAt (c : Core) (a n : Nat) : Option Nat :=
  if c.ue = [] then none else (span a n).find? fun x => c.ue.contains (x / 8 * 8)

/-- A data-port read's checks: R142, then MEMUE (R138). -/
def Core.readFault (c : Core) (a n : Nat) : Option Trap :=
  match c.checkRead a n with
  | some f => some f
  | none => match c.ueAt a n with
    | some x => some (mkTrap cMEMUE (x * 65536))
    | none => none

/-- The 64-bit word at w lies whole in the n bytes from address a. -/
def wholeIn (a n w : Nat) : Bool := (List.range 8).all fun i => decide ((w + i + 65536 - a % 65536) % 65536 < n)
/-- A write that merges into a word with an uncorrectable error raises MEMUE (R138); a word written whole does not. -/
def Core.mergeFault (c : Core) (a n : Nat) : Option Trap :=
  if c.ue = [] then none
  else ((span a n).find? fun x => c.ue.contains (x / 8 * 8) && !wholeIn a n (x / 8 * 8)).map fun x => mkTrap cMEMUE (x * 65536)

/-- A data-port write's checks: R142, then the merge of R138. -/
def Core.writeFault (c : Core) (a n : Nat) : Option Trap :=
  match c.checkWrite a n with
  | some f => some f
  | none => c.mergeFault a n

/-- The value of n bytes of core SRAM. -/
def Core.load (c : Core) (a n : Nat) : Nat := ofBytes (Memory.bytes c.sram a n)
/-- SRAMCE counts k corrected single-bit errors; it saturates (R138). -/
def Core.addCe (c : Core) (k : Nat) : Core :=
  if k = 0 then c else { c with sramce := BitVec.ofNat 32 (min (c.sramce.toNat + k) 0xFFFFFFFF) }
/-- The words with a correctable error that n bytes from a touch. -/
def Core.ceIn (c : Core) (a n : Nat) : List Nat := c.ce.filter fun w => (span a n).any fun x => x / 8 * 8 == w
/-- Counts the corrected single-bit errors of a read in SRAMCE (R138). -/
def Core.countCe (c : Core) (a n : Nat) : Core := c.addCe (c.ceIn a n).length
/-- Writes bytes to core SRAM. A word written whole loses its errors; the merge of a word written in part reads it, which
counts and mends a single-bit error (R138). -/
def Core.store (c : Core) (a : Nat) (bs : List Byte) : Core :=
  let c := { c with sram := Memory.write c.sram a bs }
  if c.ue = [] ∧ c.ce = [] then c
  else
    let hit := c.ceIn a bs.length
    { c.addCe (hit.filter fun w => !wholeIn a bs.length w).length with
      ue := c.ue.filter fun w => !wholeIn a bs.length w, ce := c.ce.filter fun w => !hit.contains w }

/-! ### Copy tags (R145–R147) -/

/-- The declared bobbin that binds tag k through FTEN (R146). -/
def Core.boundTo (c : Core) (k : BitVec 6) : Option (BitVec 5) :=
  bobNums.find? fun i => (c.bobbin i).valid && (c.bobbin i).ften && (c.bobbin i).ftag == k
def Core.isBound (c : Core) (k : BitVec 6) : Bool := (c.boundTo k).isSome
/-- A BDECL that binds tag k has issued, and its descriptor does not govern yet (R146, R157). -/
def Core.binding (c : Core) (k : BitVec 6) : Bool := c.later.any fun l => match l.2 with | .bobbin _ b => b.ften && b.ftag == k | _ => false

/-- R146: an operation may take tag k. -/
def Core.tagFree (c : Core) (k : BitVec 6) : Bool :=
  !((c.tag k).st == .busy || (c.tag k).st == .faulted || c.isBound k || c.binding k)
/-- TAGBSY (Table 6.4). -/
def tagBusy (k : BitVec 6) : Trap := mkTrap cTAGBSY k.toNat
/-- Takes tag k for an operation. -/
def Core.takeTag (c : Core) (k : BitVec 6) (h : Holder) : Core := c.setTag k ⟨.busy, h, true, 0, 0, 0⟩
/-- The operation of tag k completes. -/
def Core.finishTag (c : Core) (k : BitVec 6) : Core := c.setTag k ⟨.set, .none, false, 0, 0, 0⟩
/-- The operation of tag k faults; `live` if it stays outstanding (R147, R160). -/
def Core.failTag (c : Core) (k : BitVec 6) (f : Trap) (live : Bool) : Core :=
  c.setTag k { c.tag k with st := .faulted, live := live, cause := f.cause, einfo := f.einfo, eaddr := f.eaddr }

/-- A bobbin changes state; its bound tag follows (R146). -/
def Core.setBobSt (c : Core) (n : BitVec 5) (b : Bobbin) (st : BobSt) : Core :=
  let c := c.setBobbin n { b with st := st }
  if b.valid && b.ften then
    c.setTag b.ftag ⟨if st == .full || st == .draining then .set else .busy, .none, false, 0, 0, 0⟩
  else c

/-- A bobbin becomes empty (R158). -/
def Core.emptyBob (c : Core) (n : BitVec 5) : Core :=
  let b := c.bobbin n
  c.setBobSt n { b with fill := 0, head := 0, mixed := false } .empty

/-- The words of the flits that carry a deposit at address a, with side bytes at b: 16 bytes and their side bytes a flit
(R137, R176). -/
def depositFlits (a b n side : Nat) : List (List Nat) :=
  (List.range ((n + 15) / 16)).map fun i =>
    let per := if n = 0 then 0 else 16 * side / n
    ((span (a + 16 * i) (Nat.min 16 (n - 16 * i))).map (· / 8) ++ (span (b + per * i) (Nat.min per (side - per * i))).map (· / 8)).eraseDups
/-- A deposit appends bytes at BASE + FILL, and side bytes at SBASE + FILL / M (R143, R176), under a swizzle id (R144).
The bobbin is filling, or full when FILL reaches SIZE. -/
def Core.deposit (c : Core) (n : BitVec 5) (bytes side : List Byte) (swz : BitVec 3) : Core :=
  let b := c.bobbin n
  let f := b.fill.toNat
  let c := c.store (b.base.toNat + f) bytes
  let c := if isBTag b.fmt then c.store (b.sbase.toNat + f / mw b.fmt) side else c
  let flits := depositFlits (b.base.toNat + f) (b.sbase.toNat + f / mw b.fmt) bytes.length (if isBTag b.fmt then side.length else 0)
  let c := { c with depQ := c.depQ ++ flits }
  let f' := f + bytes.length
  let b := { b with fill := BitVec.ofNat 16 f', swz := if b.st == .empty then swz else b.swz,
                    mixed := b.mixed || (b.st == .filling && swz != b.swz) }
  c.setBobSt n b (if f' = b.size.toNat then .full else .filling)

/-! ### Messages at the core -/

def Msg.chan (m : Msg) : BitVec 6 := BitVec.ofNat 6 m.hdr.toNat
def Msg.seq (m : Msg) : BitVec 16 := BitVec.ofNat 16 (m.hdr.toNat / 2 ^ 6)
def Msg.fmt (m : Msg) : BitVec 3 := BitVec.ofNat 3 (m.hdr.toNat / 2 ^ 22)
def Msg.swz (m : Msg) : BitVec 3 := BitVec.ofNat 3 (m.hdr.toNat / 2 ^ 25)
/-- LEN: the payload flits of the whole message. -/
def Msg.len (m : Msg) : Nat := m.hdr.toNat / 2 ^ 28 % 32
def Msg.half (m : Msg) : Bool := m.hdr.getLsbD 33
def Msg.kind (m : Msg) : BitVec 3 := BitVec.ofNat 3 (m.hdr.toNat / 2 ^ 34)
/-- The header of Table 7.1. -/
def mkHdr (ch : BitVec 6) (seq : BitVec 16) (fmt swz : BitVec 3) (len : Nat) (half : Bool) (kind : BitVec 3) : BitVec 128 :=
  BitVec.ofNat 128 (ch.toNat + seq.toNat * 2 ^ 6 + fmt.toNat * 2 ^ 22 + swz.toNat * 2 ^ 25 + len * 2 ^ 28 + bit half * 2 ^ 33
    + kind.toNat * 2 ^ 34)
/-- Word i of the first payload flit, or 0 where the message lacks it (R203). -/
def Msg.word (m : Msg) (i : Nat) : Word :=
  match m.flits with
  | [] => 0
  | (d, _) :: t => if m.half ∧ t = [] ∧ 2 ≤ i then 0 else BitVec.ofNat 32 (d.toNat / 2 ^ (32 * i))
/-- The data bytes of the payload: 16 × LEN − 8 × HALF (R164). -/
def Msg.bytes (m : Msg) : List Byte :=
  ((m.flits.map fun f => toBytes 16 f.1.toNat).flatten).take (16 * m.len - if m.half then 8 else 0)
/-- The side pairs (E, ply) of the payload's blocks, as side-plane bytes (Table 7.2). -/
def Msg.side (m : Msg) : List Byte :=
  if m.fmt = 1 then (m.flits.map fun f => toBytes 2 f.2.toNat).flatten
  else if m.fmt = 2 then ((m.flits.map fun f => toBytes 4 f.2.toNat).flatten).take (4 * m.len - if m.half then 2 else 0)
  else if m.fmt = 0 then (m.flits.zipIdx.filterMap fun (f, i) => if i % 2 = 0 then some (toBytes 2 f.2.toNat) else none).flatten
  else []

/-- Raises a count kept by link and channel. -/
def addCount (k : Nat × Nat) (n : Nat) : List ((Nat × Nat) × Nat) → List ((Nat × Nat) × Nat)
  | [] => if n = 0 then [] else [(k, n)]
  | (j, m) :: t => if j = k then (j, m + n) :: t else (j, m) :: addCount k n t
def countOf (k : Nat × Nat) (l : List ((Nat × Nat) × Nat)) : Nat := (l.find? fun e => e.1 == k).elim 0 (·.2)
/-- n flits of a channel have left the buffer at the end of a link: their credits go back (R161, R168). -/
def Core.owe (c : Core) (link : Nat) (ch : BitVec 6) (n : Nat) : Core := { c with owed := addCount (link, ch.toNat) n c.owed }

/-- The number of the configuration class among the credits (R161). -/
def cfgClass : Nat := 66
/-- A flit of the configuration class has left an input (R161, R173). -/
def Core.oweClass (c : Core) (link n : Nat) : Core := { c with owed := addCount (link, cfgClass) n c.owed }

/-- ACT of a trigger entry (Table 7.6): 0 fault, 1 deposit, 2 spawn, 3 wake. -/
def Core.trigAct (c : Core) (ch : BitVec 6) : Nat := (rd c.trigs ch).toNat % 4
def Core.trigBob (c : Core) (ch : BitVec 6) : BitVec 5 := BitVec.ofNat 5 ((rd c.trigs ch).toNat / 4)
def Core.trigBv (c : Core) (ch : BitVec 6) : Bool := (rd c.trigs ch).getLsbD 7
def Core.trigEnt (c : Core) (ch : BitVec 6) : BitVec 4 := BitVec.ofNat 4 ((rd c.trigs ch).toNat / 256)
/-- The entry deposits: a deposit entry, or a spawn entry with BV = 1 (R175). -/
def trigDeposits (v : Word) : Bool := v.toNat % 4 == 1 || (v.toNat % 4 == 2 && v.getLsbD 7)

/-- The message standing on a channel (R178). -/
def Core.standing (c : Core) (ch : BitVec 6) : Option LocalMsg := c.locals.find? fun l => l.st == .stands && l.msg.chan == ch
/-- Every payload flit has arrived. -/
def LocalMsg.whole (l : LocalMsg) : Bool := l.came == l.msg.len
/-- The oldest message of a channel at the local port, changed, or gone. -/
def changeLocal (ch : BitVec 6) (f : LocalMsg → Option LocalMsg) : List LocalMsg → List LocalMsg
  | [] => []
  | l :: t => if l.msg.chan = ch then (match f l with | some x => x :: t | none => t) else l :: changeLocal ch f t
/-- The oldest message of a channel at the local port. -/
def Core.localAt (c : Core) (ch : BitVec 6) : Option LocalMsg := c.locals.find? fun l => l.msg.chan == ch
/-- The oldest message of a channel takes a state, and its head leaves the port's buffer. -/
def Core.setLoc (c : Core) (ch : BitVec 6) (st : LocSt) : Core :=
  match c.localAt ch with
  | none => c
  | some l => { (c.owe 5 ch (bit l.head)) with locals := changeLocal ch (fun l => some { l with st := st, head := false }) c.locals }
/-- A message that is being dropped loses what has arrived of it, and leaves once it is whole. -/
def Core.dropLocal (c : Core) (ch : BitVec 6) : Core :=
  match c.localAt ch with
  | none => c
  | some l =>
    if l.st = .drop then
      let rest := changeLocal ch (fun l => if l.whole then none else some { l with msg := { l.msg with flits := [] } }) c.locals
      { (c.owe 5 ch l.msg.flits.length) with locals := rest }
    else c
/-- The oldest message of a wake channel stands, if none stands yet (R178). -/
def Core.standNext (c : Core) (ch : BitVec 6) : Core :=
  match c.localAt ch with
  | some l => if c.trigAct ch = 3 ∧ l.st = .fresh then c.setLoc ch .stands else c
  | none => c
/-- The oldest message of a channel is taken: the rest of it is discarded as it arrives, and the next one can stand (R178,
R203, R204). -/
def Core.takeLocal (c : Core) (ch : BitVec 6) : Core := ((c.setLoc ch .drop).dropLocal ch).standNext ch

/-! ### Waking (Table 4.3) -/

/-- The lowest tag of a mask in a state. -/
def Core.lowestTag (c : Core) (mask : Dword) (st : TagSt) : Option (BitVec 6) :=
  tagNums.find? fun k => mask.getLsbD k.toNat && (c.tag k).st == st
/-- The fault a tag holds (R147). -/
def Core.tagTrap (c : Core) (k : BitVec 6) : Trap := ⟨(c.tag k).cause, (c.tag k).einfo, (c.tag k).eaddr⟩
/-- Idles an unbound tag, as the clear forms do (R160). -/
def Core.clearTag (c : Core) (k : BitVec 6) : Core := if c.isBound k then c else c.setTag k Tag.reset

/-- The lowest channel of a mask with a wake entry and a standing message (R103). -/
def Core.wakeChan (c : Core) (mask : Dword) : Option (BitVec 6) :=
  tagNums.find? fun k => mask.getLsbD k.toNat && c.trigAct k == 3 && (c.standing k).isSome

/-- Every channel of a JOIN mask is satisfied (R205). -/
def Core.joined (c : Core) (mask : Dword) : Bool :=
  tagNums.all fun k => !mask.getLsbD k.toNat ||
    (if c.trigAct k = 3 then (c.standing k).isSome
     else c.trigAct k == 1 && ((c.bobbin (c.trigBob k)).st == .full || (c.bobbin (c.trigBob k)).st == .draining))

/-- The flits SENDV sends for a format (R199). -/
def vecLen (fmt : BitVec 3) : Nat := if fmt = 1 ∨ fmt = 5 then 2 else if fmt = 2 then 1 else 4

/-- The lane bytes of a vector register in a format's image: 64, 32 or 16 bytes (R151), low lanes first. -/
def VReg.image (r : VReg) (fmt : BitVec 3) : List Byte :=
  if fmt = 1 ∨ fmt = 5 then r.lanes.toList.map fun l => BitVec.ofNat 8 l.toNat
  else if fmt = 2 then (List.range 16).map fun i =>
    BitVec.ofNat 8 ((r.lanes.toList.getD (2 * i) 0).toNat % 16 + 16 * ((r.lanes.toList.getD (2 * i + 1) 0).toNat % 16))
  else (r.lanes.toList.map fun l => toBytes 2 l.toNat).flatten

/-- The lanes that a format's image gives: B mantissas and INT8 bytes sign-extended (R151). -/
def lanesOfImage (fmt : BitVec 3) (bs : List Byte) : Vector (BitVec 16) 32 :=
  Vector.ofFn fun i : Fin 32 =>
    if fmt = 1 ∨ fmt = 5 then (bs.getD i.val 0).signExtend 16
    else if fmt = 2 then (BitVec.ofNat 4 ((bs.getD (i.val / 2) 0).toNat / 16 ^ (i.val % 2))).signExtend 16
    else bs.getD (2 * i.val + 1) 0 ++ bs.getD (2 * i.val) 0

/-- The register RECV.V writes from a message (R203): lanes from the payload, side band for B formats. -/
def Msg.toVReg (m : Msg) (old : VReg) : VReg :=
  ⟨lanesOfImage m.fmt m.bytes, if isBTag m.fmt then BitVec.ofNat 32 (ofBytes m.side) else old.side⟩
/-- RECV.V accepts the message: SENDV's length, and not W16 (R203). -/
def Msg.vecOk (m : Msg) : Bool := m.fmt != 7 && m.len == vecLen m.fmt

/-- WAITCH's summary (R204). -/
def Msg.summary (m : Msg) : Word :=
  BitVec.ofNat 32 (m.seq.toNat + m.len % 32 * 2 ^ 16 + m.fmt.toNat * 2 ^ 21 + m.swz.toNat * 2 ^ 24 + m.kind.toNat * 2 ^ 27)

/-- EINFO of CHERR (R195). -/
def chErr (sub : Nat) (ch : BitVec 6) (x : Nat) : Trap := mkTrap cCHERR (sub + ch.toNat * 256 + x * 65536)

/-- A waiting strand's condition holds: it is ready from core cycle r, or from the end of its next clause's fill. -/
def Strand.awake (t : Strand) (r : Nat) : Strand := { t with run := .ready, wait := .idle, notBefore := Nat.max t.notBefore r }
/-- The first core cycle that begins after what happens between a core's cycles, or in the second period of a stretched one (R420). -/
def Core.nextCycle (c : Core) : Nat := if c.half then c.cc + 1 else c.cc
/-- What held a strand has ended: it can go on from core cycle r. -/
def Strand.unhold (t : Strand) (r : Nat) : Strand := { t with hold := .none, notBefore := Nat.max t.notBefore r }
/-- As `awake`, with a result for g[d] of latency 1 from then. -/
def Strand.awakeG (t : Strand) (r : Nat) (d : BitVec 4) (v : Word) : Strand :=
  ((t.putG d v).mark (.g d) (some (r + 1))).awake r

/-- What a measure puts lowest; the first among equals. -/
def leastBy {α : Type} (f : α → Nat) : List α → Option α
  | [] => none
  | k :: t => some (t.foldl (fun m j => if f j < f m then j else m) k)
/-- The slots whose strands issued earlier first (R202: the strand that issued first takes a message). -/
def Core.byStamp (c : Core) : List (BitVec 3) :=
  slots.foldl (fun l k => l.takeWhile (fun j => (c.strand j).stamp ≤ (c.strand k).stamp) ++ [k] ++
    l.dropWhile (fun j => (c.strand j).stamp ≤ (c.strand k).stamp)) []

/-- The strand waits to take a message of a channel. -/
def Strand.takes (t : Strand) (ch : BitVec 6) : Bool :=
  t.run == .waiting && !t.frozen && match t.wait with
    | .recv j _ => j == ch
    | .recvV j _ => j == ch
    | .waitch j _ => j == ch
    | _ => false
/-- The message that stands on a channel, for the strand of slot k: of several that wait to take it, the one that issued first
(R202). -/
def Core.taking (c : Core) (ch : BitVec 6) (k : BitVec 3) : Option LocalMsg :=
  match c.standing ch with
  | some l => if (c.byStamp.find? fun j => (c.strand j).takes ch) = some k then some l else none
  | none => none

/-- Re-examines what the strand of a slot waits for (Table 4.3); satisfied, it is ready from core cycle r. A faulted tag of the mask takes precedence (R147). -/
def Core.wakeSlot (r : Nat) (c : Core) (k : BitVec 3) : Core :=
  let t := c.strand k
  if t.run ≠ .waiting ∨ t.frozen then c
  else match t.wait with
    | .waitm d mask => match c.wakeChan mask with
      | some ch => c.setStrand k (t.awakeG r d ch.toNat)
      | none => c
    | .recv ch d => match c.taking ch k with
      | some l =>
        if l.came = 0 ∧ l.msg.len ≠ 0 then c
        else
          let t := ((t.putG (d + 1) (l.msg.word 1)).mark (.g (d + 1)) (some (r + 1))).awakeG r d (l.msg.word 0)
          (c.setStrand k t).takeLocal ch
      | none => c
    | .recvV ch v => match c.taking ch k with
      | some l =>
        if !l.msg.vecOk then c.setStrand k (t.stopThere (chErr 6 ch 0))
        else if !l.whole then c
        else
          let c := { c with vregs := wr c.vregs (t.vIx v) (l.msg.toVReg (rd c.vregs (t.vIx v))) }
          (c.setStrand k ((t.mark (.v v) (some (r + 2))).awake r)).takeLocal ch
      | none => c
    | .waitch ch d => match c.taking ch k with
      | some l => (c.setStrand k (t.awakeG r d l.msg.summary)).takeLocal ch
      | none => c
    | .join mask => if c.joined mask then c.setStrand k (t.awake r) else c
    | .twany d mask cl => match c.lowestTag mask .faulted with
      | some f => c.setStrand k (t.stopThere (c.tagTrap f))
      | none => match c.lowestTag mask .set with
        | some i =>
          let c := c.setStrand k (t.awakeG r d i.toNat)
          if cl then c.clearTag i else c
        | none => c
    | .twall mask cl => match c.lowestTag mask .faulted with
      | some f => c.setStrand k (t.stopThere (c.tagTrap f))
      | none =>
        if tagNums.all fun i => !mask.getLsbD i.toNat || (c.tag i).st == .set then
          let c := c.setStrand k (t.awake r)
          if cl then tagNums.foldl (fun c i => if mask.getLsbD i.toNat then c.clearTag i else c) c else c
        else c
    | .collw d i => match (c.tag i).st with
      | .faulted => c.setStrand k (t.stopThere (c.tagTrap i))
      | .set => (c.setStrand k (t.awakeG r d 0)).setTag i Tag.reset
      | _ => c
    | _ => c

/-- A strand waits in WAITM. -/
def Strand.inWaitm (t : Strand) : Bool := match t.wait with | .waitm _ _ => true | _ => false
/-- Re-examines every waiting strand of a core; one satisfied is ready in the next core cycle. Every WAITM sees a message
before another strand takes it (R103). -/
def Core.wake (c : Core) : Core :=
  let l := c.byStamp
  (l.filter fun k => !(c.strand k).inWaitm).foldl (Core.wakeSlot (c.cc + 1))
    ((l.filter fun k => (c.strand k).inWaitm).foldl (Core.wakeSlot (c.cc + 1)) c)

/-- The bin of a value (R346). -/
def monBin (v : Nat) : BitVec 4 := BitVec.ofNat 4 (min 15 v.log2)
/-- A saturating 32-bit count. -/
def satInc (w : Word) : Word := if w = 0xFFFFFFFF then w else w + 1
/-- A monitor takes a sample (R346). -/
def Monitor.take (m : Monitor) (v : Nat) : Monitor :=
  let w := BitVec.ofNat 32 (Nat.min v 0xFFFFFFFF)
  { m with count := satInc m.count, min := if w.toNat < m.min.toNat then w else m.min,
           max := if m.max.toNat < w.toNat then w else m.max,
           bins := wr m.bins (monBin (Nat.min v 0xFFFFFFFF)) (satInc (rd m.bins (monBin (Nat.min v 0xFFFFFFFF)))) }
/-- A monitor captures this quantity of the core at this cluster position, on this channel (Table 13.8). -/
def Monitor.selects (m : Monitor) (qty pos : Nat) (ch : BitVec 6) : Bool :=
  field m.cfg.toNat 0 3 == qty && (qty == 3 || m.cfg.getLsbD 10 || field m.cfg.toNat 3 7 == pos) &&
    (qty != 1 || field m.cfg.toNat 11 6 == ch.toNat)
/-- A sample of core l reaches the monitors of its hub (R346). -/
def State.sample (s : State) (l qty : Nat) (ch : BitVec 6) (v : Nat) : State :=
  s.modHub (hubOf l) fun h =>
    { h with monitors := h.monitors.map fun m => if m.selects qty (clusterPos l) ch then m.take v else m }

/-- The waits that QTY 2 samples (Table 13.8). -/
def Wait.sampled : Wait → Bool
  | .recv _ _ | .waitch _ _ | .join _ | .twany _ _ _ | .twall _ _ | .cjoinCount _ _ _ | .cjoinFire _ _ => true
  | _ => false

/-- Samples the strand wait of slot k if it has just ended (R346). -/
def State.sampleWait (s : State) (l : Nat) (old new : Core) (k : BitVec 3) : State :=
  if (old.strand k).run = .waiting ∧ (new.strand k).run ≠ .waiting ∧ (old.strand k).wait.sampled then
    s.sample l 2 0 (s.time - (old.strand k).waitFrom)
  else s

/-- Samples QTY 1 for each message that has come to stand: its trigger action has ended (R178, R346). -/
def State.sampleStood (s : State) (l : Nat) (old new : Core) : State :=
  (new.locals.filter fun m => m.st == .stands && !old.locals.contains m).foldl
    (fun s m => s.sample l 1 m.msg.chan (s.time - m.arrived)) s

/-- The oldest round of a slot moves on (Table 10.6): out of Queued once its bobbin is empty, into Running once its arc's
tag is set or idle. -/
def Stream.promote (t : Stream) (c : Core) : Stream :=
  match t.rounds with
  | [] => t
  | r :: rest =>
    let free : Bool := t.shape.dir || (match t.bob with | some n => (c.bobbin n).st == .empty | none => true)
    let r := if r.st = .queued ∧ free then { r with st := .armed } else r
    let ok : Bool := match r.arc with | some k => (c.tag k).st == .set || (c.tag k).st == .idle | none => true
    { t with rounds := (if r.st = .armed ∧ ok then { r with st := .running, begun := true } else r) :: rest }
/-- The oldest round of every slot moves on; a frozen core's stay (R280). -/
def Core.promote (c : Core) : Core :=
  if c.frozen ∨ c.streams.toList.all fun t => t.rounds.isEmpty then c else { c with streams := c.streams.map fun t => t.promote c }

/-- Re-examines every waiting strand and every round of core l after its tags, bobbins or messages changed. -/
def State.wakeCore (s : State) (l : Nat) : State :=
  let c := s.core l
  slots.foldl (fun s k => s.sampleWait l c c.wake k) ((s.setCore l c.wake.promote).sampleStood l c c.wake)

/-- A change of core l after which its waiting strands are re-examined. -/
def State.modWake (s : State) (l : Nat) (f : Core → Core) : State :=
  ((s.modCore l f).sampleStood l (s.core l) (f (s.core l))).wakeCore l

/-- The executing strand goes past its instruction, which waits (Table 4.3). -/
def State.suspend (s : State) (w : Wait) : State :=
  s.modSt fun t => { t.leave with run := .waiting, wait := w, waitFrom := s.time }
/-- The executing strand goes past its instruction, which holds it. -/
def State.holdFor (s : State) (h : Hold) : State := s.modSt fun t => { t.leave with hold := h }
/-- The executing strand waits; a condition that already holds ends the wait in the issue cycle. -/
def State.await (s : State) (w : Wait) : State :=
  let x := s.suspend w
  let c := x.me.wakeSlot x.cc s.slot
  (x.setCore s.cur c).sampleStood s.cur x.me c

end Sys2Proof.Machine
end

