-- ==== Sys2Proof/Machine/Operands.lean ====
section
/-! DEFINITION. Operand forms: check lists, memory operands and operand headers (06 R139–R152), rows of tiles and vector
lanes as values (05 R117–R121, 08 R212–R213), and the atomic operations (06 R155). -/

namespace Sys2Proof.Machine

/-! ### Checks in order -/

/-- A fault when a condition holds. -/
def when (b : Bool) (f : Trap) : Option Trap := if b then some f else none
/-- The first fault of a check list. -/
def firstFault : List (Option Trap) → Option Trap
  | [] => none
  | some f :: _ => some f
  | none :: t => firstFault t
/-- Checks in order: the first that fails is taken, else the instruction's effect. -/
def State.guard (s : State) (checks : List (Option Trap)) (r : Out) : Out :=
  match firstFault checks with
  | some f => .next (s.trap f)
  | none => r
/-- MISAL (Table 6.4). -/
def misal (a lg : Nat) : Trap := mkTrap cMISAL (a % 65536 * 65536 + lg)
/-- OPHDR (Table 6.4). -/
def ophdr (a reason : Nat) : Trap := mkTrap cOPHDR (a % 65536 * 65536 + reason)
/-- A channel's, a tile's or another resource's fault list over ranges: BOBST first, then MEMUE, each in access order. -/
def Core.readFaults (c : Core) (rs : List (Nat × Nat)) : Option Trap :=
  firstFault (rs.map (fun r => c.checkRead r.1 r.2) ++
    rs.map fun r => (c.ueAt r.1 r.2).map fun x => mkTrap cMEMUE (x * 65536))
/-- The same for writes: BOBST subcode 2, then the merge of R138. -/
def Core.writeFaults (c : Core) (rs : List (Nat × Nat)) : Option Trap :=
  firstFault (rs.map (fun r => c.checkWrite r.1 r.2) ++ rs.map fun r => c.mergeFault r.1 r.2)

/-! ### Memory operands -/

/-- (g[base] + SEXT(off16)) mod 65,536 (R149). -/
def State.addrM (s : State) (a : BitVec 4) (o : BitVec 16) : Nat := ((s.g a).truncate 16 + o).toNat
/-- The low 16 bits of a register. -/
def State.addr (s : State) (a : BitVec 4) : Nat := (s.g a).toNat % 65536
/-- The words an access touches. -/
def wordsOf (a n : Nat) : List Nat := ((span a n).map (· / 8)).eraseDups
/-- The words that some accesses touch, as one group of the data port. -/
def wordsIn (rs : List (Nat × Nat)) : List Nat := ((rs.map fun r => wordsOf r.1 r.2).flatten).eraseDups
/-- A word of side pairs: the one kept, or SRAM's (R183, R279). -/
def Core.sideWordOf (c : Core) (kept : Option (Nat × List Byte)) (w : Nat) : List Byte :=
  match kept with
  | some (x, l) => if x = w then l else Memory.bytes c.sram (8 * w) 8
  | none => Memory.bytes c.sram (8 * w) 8
/-- The data port has made every access asked of it (R137, R148). -/
def Core.portFree (c : Core) : Bool := c.dataQ == [] && c.latom.isNone
/-- The data port is taken until it has reached these groups of words, in their order (R137, R140). -/
def State.useData (s : State) (gs : List (List Nat)) : State := s.modMe fun c => { c with dataQ := c.dataQ ++ gs }
/-- The cycles a group of words costs: the largest number of them in one bank (R140). -/
def bankCost (ws : List Nat) : Nat :=
  ((List.range 16).map fun b => (ws.filter fun w => w % 16 == b).length).foldl Nat.max 0

/-- The size of a vector image (R151). -/
def vecBytes (f : BitVec 3) : Nat := if f = 1 ∨ f = 5 then 32 else if f = 2 then 16 else 64

/-- The words of a tile row in an image: FP32 rows have 8 (R139, R238). -/
def rowWords (f : BitVec 3) : Nat := if f = 4 then 8 else if f = 2 then 1 else if f = 1 then 2 else 4
/-- SKEW of R139. -/
def skew (o w : Nat) : Nat :=
  let t := o / (128 * w)
  let n := o % (128 * w) / 8
  let i := n / w
  let k := n % w
  128 * w * t + 8 * (16 * k + (i + 16 / w * k) % 16) + o % 8

/-- An operand header (Table 6.5a). -/
structure Hdr where
  mbase : Nat
  sbase : Nat
  fmt : BitVec 3
  swz : BitVec 3
  any : Bool
  xp : Bool
  stride : Nat
  resv : Bool
  deriving DecidableEq, Repr

/-- Reads the fields of a 64-bit header. -/
def Hdr.ofNat (n : Nat) : Hdr :=
  { mbase := n % 65536, sbase := field n 16 16, fmt := BitVec.ofNat 3 (field n 32 3), swz := BitVec.ofNat 3 (field n 35 3),
    any := n.testBit 38, xp := n.testBit 40, stride := field n 48 16, resv := n.testBit 39 || decide (field n 41 7 ≠ 0) }

/-- The reasons of OPHDR 1 to 4, lowest first (R152); `maxFmt` is the largest tag the reader accepts. -/
def Hdr.fault (h : Hdr) (ha maxFmt : Nat) : Option Trap :=
  firstFault
    [when h.resv (ophdr ha 1), when (decide (maxFmt < h.fmt.toNat)) (ophdr ha 2),
     when (decide (h.mbase % (if h.swz = 1 then 128 else 8) ≠ 0) || (isB h.fmt && decide (h.sbase % 2 ≠ 0))) (ophdr ha 3),
     when (decide (h.stride % 8 ≠ 0) || (h.swz == 1 && decide (h.stride ≠ 0))) (ophdr ha 4)]

/-- The address of word k of image row i (R139, R152). -/
def Hdr.wordAddr (h : Hdr) (i k : Nat) : Nat :=
  let w := rowWords h.fmt
  if h.swz = 1 ∧ h.fmt ≠ 4 then (h.mbase + skew (8 * w * i + 8 * k) w) % 65536
  else (h.mbase + i * (if h.stride = 0 then 8 * w else h.stride) + 8 * k) % 65536
/-- The word addresses of an image, row by row. -/
def Hdr.rows (h : Hdr) : List (List Nat) := (List.range 16).map fun i => (List.range (rowWords h.fmt)).map (h.wordAddr i)
/-- The accesses of the side plane and the image, in the order they are made (R153). -/
def Hdr.ranges (h : Hdr) : List (Nat × Nat) :=
  (if isB h.fmt then [(h.sbase, 32)] else []) ++ h.rows.flatten.map fun a => (a, 8)
/-- The words of an image, as pairs of row and word, in the groups of R140: rows, or with XP slices. -/
def Hdr.order (h : Hdr) : List (List (Nat × Nat)) :=
  let w := rowWords h.fmt
  let per := 16 / w
  if h.xp then (List.range w).map fun k => (List.range 16).map fun i => (i, k)
  else (List.range w).map fun r => ((List.range per).map fun i => (List.range w).map fun k => (per * r + i, k)).flatten
/-- The groups of words that the data port moves: the side plane's, and those of R140. -/
def Hdr.groups (h : Hdr) : List (List Nat) :=
  (if isB h.fmt then [wordsOf h.sbase 32] else []) ++ h.order.map fun g => (g.map fun e => h.wordAddr e.1 e.2 / 8).eraseDups
/-- The cycles of the side plane and the groups of R140. -/
def Hdr.cost (h : Hdr) : Nat := (h.groups.map bankCost).foldl (· + ·) 0

/-- R144: an image that lies in a bobbin must agree with its swizzle unless ANY is 1, and no bobbin may be MIXED. The
bobbins are those that the bytes of the image or of its side plane, at these ranges, touch. -/
def Hdr.swzFault (c : Core) (h : Hdr) (rs : List (Nat × Nat)) (ha : Nat) : Option Trap :=
  let bytes := (rs.map fun r => span r.1 r.2).flatten
  match bobNums.find? fun i =>
      let b := c.bobbin i
      b.valid && (bytes.any b.touched) && (b.mixed || (!h.any && b.swz != h.swz)) with
  | some i =>
    let b := c.bobbin i
    some (mkTrap cSWZ (ha % 65536 * 65536 + i.toNat * 256 + b.swz.toNat * 32 + h.swz.toNat * 4 + 2 * bit b.mixed))
  | none => none
/-- With ANY the layout follows the swizzle of the bobbin the image lies in (R144). Where that is 1, the rows are skewed from MBASE,
whatever MBASE and STRIDE the header gives (DESIGN CHOICE, log entry 48). -/
def Hdr.layout (c : Core) (h : Hdr) : Hdr :=
  if h.any then
    match bobNums.find? fun i => ((c.bobbin i).mantOff h.mbase).isSome with
    | some i => { h with swz := (c.bobbin i).swz }
    | none => h
  else h

/-! ### Rows: sixteen 16-bit fields and a side pair (E in bits 7:0, ply in 15:8) -/

/-- The mantissa that a 16-bit lane or field holds: its low M bits, sign-extended (R118). -/
def mant (f : BitVec 3) (x : BitVec 16) : Int := sext x.toNat (mbits f)
/-- A row's block (R58). -/
def rowBlock (f : BitVec 3) (fs : List (BitVec 16)) (side : BitVec 16) : Block :=
  ⟨side.toNat % 256, side.toNat / 256, fs.map (mant f)⟩
/-- A row's exact values: BDEC, or BF16 values (R67). -/
def rowVals (f : BitVec 3) (fs : List (BitVec 16)) (side : BitVec 16) : List Val :=
  if isB f then bdec f (rowBlock f fs side) else fs.map decBf16
/-- A block as fields and side pair. -/
def Block.row (b : Block) : List (BitVec 16) × BitVec 16 := (b.m.map (BitVec.ofInt 16), BitVec.ofNat 16 (b.e + 256 * b.ply))
/-- A row encoded in a B format or BF16 (R67); BF16 leaves the side pair as it was. -/
def encRow (f : BitVec 3) (x : List Val) (m : Mode) (rnd : List Nat) (old : BitVec 16) : List (BitVec 16) × BitVec 16 :=
  if isB f then (pack f x m rnd).row else (x.zipIdx.map fun (v, j) => encBf16 v m (rnd.getD j 0), old)

/-- The bytes of a row's fields in an image: mantissas packed to M bits, BF16 whole (R139, R151). -/
def rowBytes (f : BitVec 3) (fs : List (BitVec 16)) : List Byte :=
  if f = 1 ∨ f = 5 then fs.map fun x => BitVec.ofNat 8 x.toNat
  else if f = 2 then (List.range (fs.length / 2)).map fun i =>
    BitVec.ofNat 8 ((fs.getD (2 * i) 0).toNat % 16 + 16 * ((fs.getD (2 * i + 1) 0).toNat % 16))
  else (fs.map fun x => toBytes 2 x.toNat).flatten
/-- The n fields of a row's bytes, mantissas sign-extended. -/
def rowFields (f : BitVec 3) (n : Nat) (bs : List Byte) : List (BitVec 16) :=
  (List.range n).map fun i =>
    if f = 1 ∨ f = 5 then (bs.getD i 0).signExtend 16
    else if f = 2 then (BitVec.ofNat 4 ((bs.getD (i / 2) 0).toNat / 16 ^ (i % 2))).signExtend 16
    else bs.getD (2 * i + 1) 0 ++ bs.getD (2 * i) 0

/-- The integer of an integer element. -/
def Val.int : Val → Int | .fin q _ => q.num | _ => 0

/-! ### Tiles -/

/-- Element k of a list replaced. -/
def setAt {α : Type} (l : List α) (k : Nat) (x : α) : List α := l.take k ++ (x :: l.drop (k + 1))

def Tile.row (t : Tile) (i : Nat) : List (BitVec 16) := (t.el.toList.getD i (Vector.replicate 16 0)).toList
def Tile.sideAt (t : Tile) (i : Nat) : BitVec 16 := t.side.toList.getD i 0
/-- Sixteen items as a vector. -/
def vec16 {α : Type} (d : α) (l : List α) : Vector α 16 := Vector.ofFn fun i => l.getD i.val d
/-- The tile with these rows. -/
def Tile.withRows (t : Tile) (f : BitVec 3) (rs : List (List (BitVec 16) × BitVec 16)) : Tile :=
  { t with fmt := f, el := vec16 (Vector.replicate 16 0) (rs.map fun r => vec16 0 r.1), side := vec16 0 (rs.map (·.2)) }
/-- A cleared tile: fields 0, side pairs E = 0 and ply = 0xFF (R212). -/
def Tile.zero (t : Tile) (f : BitVec 3) : Tile :=
  { t with fmt := f, el := Vector.replicate 16 (Vector.replicate 16 0), side := Vector.replicate 16 0xFF00 }
/-- The rows of a tile. -/
def Tile.rowList (t : Tile) : List (List (BitVec 16) × BitVec 16) := (List.range 16).map fun i => (t.row i, t.sideAt i)
/-- Column j of a list of rows with each row's exponent and ply bit (R78). -/
def rowsCol (f : BitVec 3) (rs : List (List (BitVec 16) × BitVec 16)) (j : Nat) : List (Nat × Bool × Int) :=
  rs.map fun (fs, sd) => (sd.toNat % 256, sd.getLsbD (8 + j / 2), mant f (fs.getD j 0))
/-- The transpose of an image or tile: TCOL's stored path for B formats, exact for BF16 (R153, R226). -/
def transposeRows (f : BitVec 3) (rs : List (List (BitVec 16) × BitVec 16)) : List (List (BitVec 16) × BitVec 16) :=
  (List.range 16).map fun j =>
    if isB f then (tcolStore f (rowsCol f rs j)).row
    else (rs.map fun r => r.1.getD j 0, (rs.getD j ([], 0)).2)
/-- What the multiplier array reads: mantissa 0 at row ≥ ROWS or column ≥ COLS (R213). -/
def Tile.masked (t : Tile) : List (List (BitVec 16) × BitVec 16) :=
  t.rowList.zipIdx.map fun (r, i) =>
    (r.1.zipIdx.map fun (x, j) => if t.rows.toNat < i ∨ t.cols.toNat < j then 0 else x, r.2)

/-! ### Images in core memory (R153) -/

/-- The rows an image holds; BF16 rows carry the side pairs given. -/
def Core.readImage (c : Core) (h : Hdr) (old : List (BitVec 16)) : List (List (BitVec 16) × BitVec 16) :=
  (List.range 16).map fun i =>
    (rowFields h.fmt 16 (((List.range (rowWords h.fmt)).map fun k => Memory.bytes c.sram (h.wordAddr i k) 8).flatten),
     if isB h.fmt then BitVec.ofNat 16 (ofBytes (Memory.bytes c.sram (h.sbase + 2 * i) 2)) else old.getD i 0)
/-- The cells that the rows of an image write, in the order in which the data port moves them: for B formats the side pairs,
then the rows' bytes in the groups of R140. -/
def Hdr.cells (h : Hdr) (rs : List (List Byte × BitVec 16)) : List Host.Cell :=
  (if isB h.fmt then ((rs.zipIdx.map fun (r, i) =>
      (toBytes 2 r.2.toNat).zipIdx.map fun (v, b) => ((h.sbase + 2 * i + b) % 65536, v)).flatten) else []) ++
  (h.order.flatten.map fun e => (List.range 8).map fun b =>
    ((h.wordAddr e.1 e.2 + b) % 65536, (rs.getD e.1 ([], 0)).1.getD (8 * e.2 + b) 0)).flatten
/-- The word at w lies whole in these cells. -/
def wholeInCells (cs : List Host.Cell) (w : Nat) : Bool := (List.range 8).all fun b => cs.any fun x => x.1 == (w + b) % 65536
/-- Writes cells to core memory, byte by byte, in their order; errors as `Core.store` treats them (R138). -/
def Core.storeCells (c : Core) (cs : List Host.Cell) : Core :=
  let c := { c with sram := Memory.writeCells c.sram cs }
  if c.ue = [] ∧ c.ce = [] then c
  else
    let hit := c.ce.filter fun w => cs.any fun x => x.1 / 8 * 8 == w
    { c.addCe (hit.filter fun w => !wholeInCells cs w).length with
      ue := c.ue.filter fun w => !wholeInCells cs w, ce := c.ce.filter fun w => !hit.contains w }

/-! ### Vector lanes (R117–R121) -/

def VReg.lane16 (r : VReg) (i : Nat) : BitVec 16 := r.lanes.toList.getD i 0
/-- Lane i of a format: 16 bits, or 32 bits in FP32 and INT32 (Table 5.7). -/
def VReg.lane (r : VReg) (f : BitVec 3) (i : Nat) : Word :=
  if lanesOf f = 16 then r.lane16 (2 * i + 1) ++ r.lane16 (2 * i) else (r.lane16 i).zeroExtend 32
/-- The register with lanes of a format given as words. -/
def VReg.withLanes (r : VReg) (f : BitVec 3) (ls : List Word) : VReg :=
  { r with lanes := Vector.ofFn fun i : Fin 32 =>
      if lanesOf f = 16 then BitVec.ofNat 16 ((ls.getD (i.val / 2) 0).toNat / 65536 ^ (i.val % 2))
      else (ls.getD i.val 0).truncate 16 }
/-- The side pair of block b: E in bits 7:0, ply in 15:8. -/
def VReg.sideOf (r : VReg) (b : Nat) : BitVec 16 := BitVec.ofNat 16 (r.side.toNat / 65536 ^ b)
/-- The lanes of block b. -/
def VReg.half (r : VReg) (b : Nat) : List (BitVec 16) := (r.lanes.toList.drop (16 * b)).take 16
/-- The exact values of a format's lanes (R67, R117, R118). An INT8 lane whose 16 bits are not the sign extension of 8 reads as bits
7:0, as R118 has it of the B formats (DESIGN CHOICE, log entry 48). -/
def VReg.vals (r : VReg) (f : BitVec 3) : List Val :=
  if isB f then rowVals f (r.half 0) (r.sideOf 0) ++ rowVals f (r.half 1) (r.sideOf 1)
  else (List.range (lanesOf f)).map fun i =>
    let x := r.lane f i
    if f = 3 then decBf16 (x.truncate 16) else if f = 4 then decFp32 x
    else if f = 5 then Val.ofInt (sext x.toNat 8) else Val.ofInt x.toInt
/-- Lane i is selected by a mask (R119). -/
def selected (m : Word) (i : Nat) : Bool := m.getLsbD i

/-- PACK where each element brings its own rounding mode: the merge of R120 rounds kept elements by RNE. -/
def packMix (f : BitVec 3) (x : List (Val × Mode)) (rnd : List Nat) : Block :=
  if x.any fun v => v.1.isInf then satblock f (x.map (·.1))
  else match (List.range 255).find? fun e => x.all fun v => fits f v.2 v.1 e false with
    | none => satblock f (x.map (·.1))
    | some e =>
      let ply := (List.range 8).foldl (fun p i =>
        let a := x.getD (2 * i) (.nan, .rne)
        let b := x.getD (2 * i + 1) (.nan, .rne)
        if fits f a.2 a.1 e true && fits f b.2 b.1 e true then p + 2 ^ i else p) 0
      ⟨e, ply, x.zipIdx.map fun (v, j) =>
        match v.1 with
        | .fin q _ => round (q.scale (127 + (fbits f : Int) + (if ply.testBit (j / 2) then 1 else 0) - (e : Int))) v.2 (rnd.getD j 0)
        | _ => -(top f + 1)⟩

/-- The side band of two blocks. -/
def sideWord (s0 s1 : BitVec 16) : Word := s1 ++ s0

/-- A raw lane result (R120): the selected lanes bit for bit, and the side pair of every touched block from `side`. -/
def VReg.rawResult (old : VReg) (f : BitVec 3) (m : Word) (new : List Word) (side : Word) : VReg :=
  let n := lanesOf f
  let r := old.withLanes f ((List.range n).map fun i => if selected m i then new.getD i 0 else old.lane f i)
  if isB f then
    let pick := fun b : Nat => if (List.range 16).any fun i => selected m (16 * b + i)
      then BitVec.ofNat 16 (side.toNat / 65536 ^ b) else old.sideOf b
    { r with side := sideWord (pick 0) (pick 1) }
  else r

/-- One block of a B-format value result (R120): kept whole when no lane is selected, else one PACK of the new values and
the old ones. -/
def VReg.blockResult (old : VReg) (f : BitVec 3) (m : Word) (x : List Val) (mode : Mode) (rnd : List Nat) (b : Nat) :
    List (BitVec 16) × BitVec 16 :=
  if (List.range 16).any fun i => selected m (16 * b + i) then
    let o := rowVals f (old.half b) (old.sideOf b)
    (packMix f ((List.range 16).map fun i =>
      if selected m (16 * b + i) then (x.getD (16 * b + i) .nan, mode) else (o.getD i .nan, .rne))
      ((rnd.drop (16 * b)).take 16)).row
  else (old.half b, old.sideOf b)

/-- How an integer lane is encoded: wrapped, clamped (R120), or by ENC_INT (R67). -/
inductive IntEnc where
  | wrap | clamp | conv
  deriving DecidableEq, Repr

/-- A lane of a format that is not a B format (R120). -/
def encLane (f : BitVec 3) (ie : IntEnc) (mode : Mode) (rnd : Nat) (v : Val) : Word :=
  if f = 3 then (encBf16 v mode rnd).zeroExtend 32
  else if f = 4 then encFp32 v mode rnd
  else
    let n := if f = 5 then 8 else 32
    let x : Int := match v with | .fin q _ => q.num / (q.den : Int) | _ => 0
    let r : Int := match ie with
      | .wrap => sext (x % 2 ^ n).toNat n
      | .clamp => clampInt n x
      | .conv => (encIntF v mode rnd n).1
    BitVec.ofInt 32 r

/-- A value result (R120). -/
def VReg.valueResult (old : VReg) (f : BitVec 3) (m : Word) (x : List Val) (ie : IntEnc) (mode : Mode) (rnd : List Nat) : VReg :=
  if isB f then
    let b0 := old.blockResult f m x mode rnd 0
    let b1 := old.blockResult f m x mode rnd 1
    ⟨Vector.ofFn fun i : Fin 32 => (b0.1 ++ b1.1).getD i.val 0, sideWord b0.2 b1.2⟩
  else old.withLanes f ((List.range (lanesOf f)).map fun i =>
    if selected m i then encLane f ie mode (rnd.getD i 0) (x.getD i .nan) else old.lane f i)

/-! ### Atomic operations (R155, R303, R310) -/

/-- The new memory value of an atomic operation on 64-bit operands, or on 32-bit ones held zero-extended. -/
def atomNew (op : BitVec 4) (dbl : Bool) (old v cmp : Dword) : Dword :=
  let lt := if dbl then old.slt v else ((old.truncate 32 : Word)).slt (v.truncate 32)
  let r := if op = 0 then old + v else if op = 1 then old &&& v else if op = 2 then old ||| v
    else if op = 3 then old ^^^ v else if op = 4 then (if lt then old else v) else if op = 5 then (if lt then v else old)
    else if op = 6 then v else if op = 7 then (if old = cmp then v else old)
    else if op = 8 then (if old.ult v then old else v) else (if old.ult v then v else old)
  if dbl then r else (r.truncate 32 : Word).zeroExtend 64
/-- A register, or a pair, as an atomic operand. -/
def State.atomArg (s : State) (r : BitVec 4) (dbl : Bool) : Dword := if dbl then s.p r else (s.g r).zeroExtend 64

end Sys2Proof.Machine
end

