-- ==== Sys2Proof/Machine/LocalMem.lean ====
section
/-! DEFINITION. Core memory, bobbins and copy tags: majors 0x1C to 0x21, and the copy engine (06 R135–R160). Tile loads
and stores are here too (R153). -/

namespace Sys2Proof.Machine

/-! ### Loads and stores (R150, R151) -/

/-- LD (R150). -/
def execLd (d a : BitVec 4) (sx : BitVec 2) (o : BitVec 16) (s : State) : Out :=
  let n := 2 ^ sx.toNat
  let p := s.addrM a o
  let v := s.me.load p n
  s.guard [when (decide (p % n ≠ 0)) (misal p sx.toNat), s.me.readFault p n] <|
    let s := (s.modMe fun c => c.countCe p n).useData [[p / 8]]
    .next (if sx = 3 then s.setP d (BitVec.ofNat 64 v) 3 else s.setG d (BitVec.ofNat 32 v) 3).advance
/-- ST (R150). -/
def execSt (d a : BitVec 4) (sx : BitVec 2) (o : BitVec 16) (s : State) : Out :=
  let n := 2 ^ sx.toNat
  let p := s.addrM a o
  s.guard [when (decide (p % n ≠ 0)) (misal p sx.toNat), s.me.writeFault p n] <|
    .next ((s.modMe fun c => c.store p (toBytes n (s.p d).toNat)).useData [[p / 8]]).advance

/-- The mantissa and side addresses of LDV and STV (R151). -/
def State.vecAddr (s : State) (a : BitVec 4) (o : BitVec 13) (f : BitVec 3) : Nat × Nat :=
  (((s.g a + BitVec.ofInt 32 (o.toInt * (vecBytes f : Int))).toNat % 65536),
   ((s.g (a + 1) + BitVec.ofInt 32 (o.toInt * 4)).toNat % 65536))
/-- The ranges of a vector image. -/
def vecRanges (f : BitVec 3) (p : Nat × Nat) : List (Nat × Nat) := (p.1, vecBytes f) :: if isB f then [(p.2, 4)] else []
/-- MISAL of a vector image: mantissa, then side address. -/
def vecMisal (f : BitVec 3) (p : Nat × Nat) : Option Trap :=
  firstFault [when (decide (p.1 % 8 ≠ 0)) (misal p.1 3), when (isB f && decide (p.2 % 2 ≠ 0)) (misal p.2 1)]
/-- LDV (R151). -/
def execLdv (d a : BitVec 4) (o : BitVec 13) (f : BitVec 3) (s : State) : Out :=
  let p := s.vecAddr a o f
  let r : VReg := ⟨lanesOfImage f (Memory.bytes s.me.sram p.1 (vecBytes f)),
    if isB f then BitVec.ofNat 32 (s.me.load p.2 4) else (s.v d).side⟩
  s.guard [vecMisal f p, s.me.readFaults (vecRanges f p)] <|
    let s := s.modMe fun c => (vecRanges f p).foldl (fun c x => c.countCe x.1 x.2) c
    .next ((s.useData [wordsIn (vecRanges f p)]).setV d r 4).advance
/-- STV (R151). -/
def execStv (d a : BitVec 4) (o : BitVec 13) (f : BitVec 3) (s : State) : Out :=
  let p := s.vecAddr a o f
  let v := s.v d
  s.guard [vecMisal f p, s.me.writeFaults (vecRanges f p)] <|
    .next ((s.modMe fun c =>
      let c := c.store p.1 (v.image f)
      if isB f then c.store p.2 (toBytes 4 v.side.toNat) else c).useData [wordsIn (vecRanges f p)]).advance

/-! ### Tile loads and stores (R152, R153) -/

/-- The operand header at an address. -/
def Core.header (c : Core) (ha : Nat) : Hdr := Hdr.ofNat (c.load ha 8)
/-- The checks of a header before its image is touched: MISAL, its own read, then OPHDR (R152). -/
def Core.headerFault (c : Core) (ha maxFmt : Nat) : Option Trap :=
  firstFault [when (decide (ha % 8 ≠ 0)) (misal ha 3), c.readFault ha 8, (c.header ha).fault ha maxFmt]
/-- LDT (R153). -/
def execLdt (t : BitVec 3) (a : BitVec 4) (o : BitVec 16) (s : State) : Out :=
  let ha := s.addrM a o
  let c := s.me
  let h0 := c.header ha
  let h := h0.layout c
  let old := (s.t t).side.toList
  let rs := c.readImage h old
  let x := (s.t t).withRows h.fmt (if h.xp then (transposeRows h.fmt rs).zipIdx.map fun (r, i) =>
    if isB h.fmt then r else (r.1, old.getD i 0) else rs)
  s.guard [c.headerFault ha 3, c.readFaults h.ranges, h0.swzFault c h.ranges ha] <|
    let s := s.modMe fun c => ((ha, 8) :: h.ranges).foldl (fun c r => c.countCe r.1 r.2) c
    .next ((s.useData ([ha / 8] :: h.groups)).setT t x (1 + h.cost + 3)).advance
/-- STT (R153). -/
def execStt (t : BitVec 3) (a : BitVec 4) (o : BitVec 16) (s : State) : Out :=
  let ha := s.addrM a o
  let c := s.me
  let h := c.header ha
  let rs := (s.t t).rowList
  let rs := if h.xp then transposeRows h.fmt rs else rs
  s.guard [c.headerFault ha 3, when (h.fmt != (s.t t).fmt) (ophdr ha 5), c.writeFaults h.ranges] <|
    .next ((s.modMe fun c => (c.countCe ha 8).storeCells (h.cells (rs.map fun r => (rowBytes h.fmt r.1, r.2)))).useData
      ([ha / 8] :: h.groups)).advance

/-! ### LATOM (R155) -/

/-- LATOM (R155): its bank stays taken for the write in the core cycle after the read. Of a word the merge of the write is the one
read that counts a corrected error (R138). -/
def execLatom (d a b o : BitVec 4) (w : BitVec 2) (s : State) : Out :=
  let dbl := w == 3
  let n := if dbl then 8 else 4
  let p := s.addr a
  let old : Dword := BitVec.ofNat 64 (s.me.load p n)
  let new := atomNew o dbl old (s.atomArg b dbl) (s.atomArg d dbl)
  s.guard [when (decide (p % n ≠ 0)) (misal p w.toNat), s.me.checkWrite p n,
      (s.me.ueAt p n).map fun x => mkTrap cMEMUE (x * 65536)] <|
    let s := (s.modMe fun c =>
      { (if dbl then c.countCe p n else c).store p (toBytes n new.toNat) with latom := some (p / 8, false) }).useData [[p / 8]]
    .next (if dbl then s.setP d old 4 else s.setG d (old.truncate 32) 4).advance

/-! ### The copy engine (R154) -/

/-- The count check of COPY, COPY.B, SENDB and BSET (Table 6.4). -/
def badCount (n : Word) : Trap := mkTrap cMISAL (n.toNat % 65536 * 65536 + 15)
/-- COPY (R154). -/
def execCopy (d a b : BitVec 4) (k : BitVec 6) (s : State) : Out :=
  let n := (s.g b).toNat
  let src := s.addr a
  let dst := s.addr d
  let c := s.me
  s.guard
    [when (decide (n % 8 ≠ 0) || decide (65536 < n)) (badCount (s.g b)),
     when (decide (src % 8 ≠ 0)) (misal src 3), when (decide (dst % 8 ≠ 0)) (misal dst 3),
     c.checkRead src n, c.checkWrite dst n, when (!c.tagFree k) (tagBusy k)] <|
    .next (s.modMe fun c => { c.takeTag k .copy with
      copies := c.copies ++ [⟨BitVec.ofNat 16 src, 0, BitVec.ofNat 16 dst, n, k, none, c.cc, 0, 0, [], none⟩] }).advance
/-- BOBST naming a bobbin with no address. -/
def Core.bobTrap (c : Core) (n : BitVec 5) (sub : Nat) : Trap := mkTrap cBOBST (bobInfo 0 n (c.bobbin n) sub)
/-- COPY.B (R154): a is even for a B-format bobbin (R32). -/
def execCopyB (d a b : BitVec 4) (k : BitVec 6) (s : State) : Out :=
  let n := (s.g b).toNat
  let c := s.me
  let bn : BitVec 5 := BitVec.ofNat 5 (s.g d).toNat
  let bob := c.bobbin bn
  let blk := bob.valid && isBTag bob.fmt
  let src := s.addr a
  let side := s.addr (a + 1)
  s.guard
    [when (blk && a.getLsbD 0) s.illop,
     when (decide (n % 8 ≠ 0) || decide (65536 < n) || (blk && decide (n % (2 * mw bob.fmt) ≠ 0))) (badCount (s.g b)),
     when (decide (src % 8 ≠ 0)) (misal src 3), when (blk && decide (side % 2 ≠ 0)) (misal side 1),
     when (!bob.valid) (c.bobTrap bn 7),
     when (decide (bob.bkind ≠ 0) || !(bob.st == .empty || bob.st == .filling)
       || decide (bob.size.toNat < bob.fill.toNat + n)) (c.bobTrap bn 4),
     c.checkRead src n, if blk then c.checkRead side (n / mw bob.fmt) else none, when (!c.tagFree k) (tagBusy k)] <|
    .next (s.modMe fun c => { c.takeTag k .copy with
      copies := c.copies ++ [⟨BitVec.ofNat 16 src, BitVec.ofNat 16 side, 0, n, k, some bn, c.cc, 0, 0, [], none⟩] }).advance

/-- The 8-byte steps of a block of the B-format bobbin that a COPY.B fills, or 0: a block's 2M bytes. -/
def Core.copyPer (c : Core) (p : Copy) : Nat :=
  match p.bob with
  | some n => if isBTag (c.bobbin n).fmt then mw (c.bobbin n).fmt / 4 else 0
  | none => 0
/-- Access number `pos` of a copy (R154): whether it writes, whether it moves a side pair, and the step or block it is of. A
step reads a word and writes it; the step that completes a block is followed by a read and a write of its side pair. -/
def copyAccess (per pos : Nat) : Bool × Bool × Nat :=
  if per = 0 then (pos % 2 == 1, false, pos / 2)
  else
    let r := pos % (2 * per + 2)
    let b := pos / (2 * per + 2)
    if r < 2 * per then (r % 2 == 1, false, b * per + r / 2) else (r % 2 == 1, true, b)
/-- The accesses of a copy. -/
def Copy.total (p : Copy) (per : Nat) : Nat := 2 * (p.n / 8) + if per = 0 then 0 else 2 * (p.n / 8 / per)
/-- The offset at which a copy's bytes begin in its bobbin: FILL, until its first write has been made. -/
def Core.copyOff (c : Core) (p : Copy) : Nat :=
  match p.bob with
  | some n => if p.pos ≤ 1 then (c.bobbin n).fill.toNat else p.off
  | none => 0
/-- The address and the bytes of the copy's next access. -/
def Core.copyAt (c : Core) (p : Copy) : Nat × Nat :=
  let x := copyAccess (c.copyPer p) p.pos
  let a := match x.1, x.2.1 with
    | false, false => p.src.toNat + 8 * x.2.2
    | false, true => p.side.toNat + 2 * x.2.2
    | true, w => match p.bob with
      | none => p.dst.toNat + 8 * x.2.2
      | some n => let b := c.bobbin n
        if w then b.sbase.toNat + c.copyOff p / mw b.fmt + 2 * x.2.2 else b.base.toNat + c.copyOff p + 8 * x.2.2
  (a % 65536, if x.2.1 then 2 else 8)
/-- The copy that the engine has come to: the oldest with accesses left. -/
def Core.copyNow (c : Core) : Option Copy := c.copies.find? fun p => p.last.isNone && p.n != 0
/-- The copy may make its next access: it issued in an earlier core cycle, and where it fills a bobbin its deposit is not held
before its first write (R143). A freeze stops it between two steps (R372). -/
def Core.copyMay (c : Core) (p : Copy) : Bool :=
  decide (p.issued < c.cc) && !(c.frozen && !(copyAccess (c.copyPer p) p.pos).1) &&
    match p.bob with
    | some n => decide (1 < p.pos) || (c.bobbin n).st == .empty || (c.bobbin n).st == .filling
    | none => true
/-- The copy with this tag goes on. -/
def Core.setCopy (c : Core) (p : Copy) : Core := { c with copies := c.copies.map fun q => if q.tag = p.tag then p else q }
/-- A bobbin takes the first bytes of a deposit under a swizzle (R143, R144). -/
def Core.openBob (c : Core) (n : BitVec 5) (swz : BitVec 3) : Core :=
  let b := c.bobbin n
  if b.st = .empty then c.setBobSt n { b with swz := swz } .filling else c.setBobbin n { b with mixed := b.mixed || swz != b.swz }
/-- One access of the copy engine (R154). A read that meets an uncorrectable error ends the copy, its tag faulted with MEMUE
(R138, R147); the steps before it stand, and a COPY.B's bobbin stays filling at its FILL (DESIGN CHOICE, log entry 48). -/
def Core.copyOne (c : Core) (p : Copy) : Core :=
  let a := c.copyAt p
  let per := c.copyPer p
  if (copyAccess per p.pos).1 then
    let c := match p.bob with | some n => if p.pos = 1 then c.openBob n 0 else c | none => c
    let last := if p.pos + 1 = p.total per then some c.cc else none
    (c.store a.1 p.held).setCopy { p with pos := p.pos + 1, off := c.copyOff p, held := [], last := last }
  else match c.ueAt a.1 a.2 with
    | some x => ({ c with copies := c.copies.filter fun q => q.tag != p.tag }).failTag p.tag (mkTrap cMEMUE (x * 65536)) false
    | none => (c.countCe a.1 a.2).setCopy { p with pos := p.pos + 1, held := Memory.bytes c.sram a.1 a.2 }
/-- The copy engine's accesses of one core cycle: at most this many, up to the first whose bank is taken (R154). -/
def Core.copySteps (c : Core) : Nat → Core
  | 0 => c
  | n + 1 => match c.copyNow with
    | none => c
    | some p =>
      let b := (c.copyAt p).1 / 8 % 16
      if !c.copyMay p || c.banks.contains b then c else Core.copySteps { c.copyOne p with banks := b :: c.banks } n
/-- The copy engine's turn in a core cycle (R137, R154). -/
def Core.copyPort (c : Core) : Core := if c.copies = [] then c else c.copySteps 4
/-- A copy's tag is due: the core cycle after its last write, or with nothing to copy that after its issue (R154). -/
def Copy.done (p : Copy) (cc : Nat) : Bool :=
  match p.last with
  | some n => decide (n < cc)
  | none => p.n == 0 && decide (p.issued < cc)
/-- A copy ends: a COPY.B's bobbin gains its bytes and becomes full (R143, R154). One of no bytes is a deposit too, which sets its
swizzle id (R144). -/
def Core.endCopy (c : Core) (p : Copy) : Core :=
  match p.bob with
  | none => c.finishTag p.tag
  | some n =>
    if (c.bobbin n).st = .empty ∨ (c.bobbin n).st = .filling then
      let c := if p.n = 0 then c.openBob n 0 else c
      let b := c.bobbin n
      (c.setBobSt n { b with fill := b.fill + BitVec.ofNat 16 p.n } .full).finishTag p.tag
    else c.finishTag p.tag
/-- The copies that are due end, in issue order. -/
def Core.endCopies (c : Core) : Core :=
  (c.copies.filter (·.done c.cc)).foldl Core.endCopy { c with copies := c.copies.filter fun p => !p.done c.cc }
/-- COPY_COMPLETE (R154, R147). -/
def execCopyComplete (c : Nat) (s : State) : Out := .next (s.modWake c Core.endCopies)

/-! ### The ports of a core cycle (R137) -/

/-- A port reaches the words of its first group whose banks are free; the others wait. -/
def servePort (banks : List Nat) : List (List Nat) → List Nat × List (List Nat)
  | [] => (banks, [])
  | g :: rest =>
    let r := g.foldl (fun (b : List Nat × List Nat) w => if b.1.contains (w % 16) then (b.1, b.2 ++ [w]) else (w % 16 :: b.1, b.2)) (banks, [])
    (r.1, if r.2 = [] then rest else r.2 :: rest)
/-- The deposit port, and then the data port, take their banks in a core cycle (R137); the second access of a LATOM has held its bank
since the first (R155). -/
def Core.dataPort (c : Core) : Core :=
  let d := servePort (match c.latom with | some (w, true) => w % 16 :: c.banks | _ => c.banks) c.depQ
  let x := servePort d.1 c.dataQ
  { c with banks := x.1, depQ := d.2, dataQ := x.2,
           latom := match c.latom with | some (w, false) => some (w, x.2 == []) | _ => none }

/-! ### Bobbins (R157–R159) -/

/-- The ranges of a descriptor: mantissa, and for B formats side (R141). -/
def Bobbin.ranges (b : Bobbin) : List (Nat × Nat) :=
  (b.base.toNat, b.size.toNat) :: if isBTag b.fmt then [(b.sbase.toNat, b.size.toNat / mw b.fmt)] else []
/-- Two wrapping ranges share a byte. -/
def overlap (x y : Nat × Nat) : Bool :=
  decide ((y.1 + 65536 - x.1) % 65536 < x.2) || decide ((x.1 + 65536 - y.1) % 65536 < y.2)
/-- A descriptor's two words (Table 6.1), as an empty declared bobbin. -/
def Bobbin.ofWords (w0 w1 : Nat) : Bobbin :=
  { base := BitVec.ofNat 16 w0, size := BitVec.ofNat 16 (w0 / 2 ^ 16), fmt := BitVec.ofNat 3 (w0 / 2 ^ 32),
    swz := BitVec.ofNat 3 (w0 / 2 ^ 35), eom := w0.testBit 38, bkind := BitVec.ofNat 2 (w0 / 2 ^ 39),
    bind := BitVec.ofNat 6 (w0 / 2 ^ 41), ften := w0.testBit 47, ftag := BitVec.ofNat 6 (w0 / 2 ^ 48),
    sbase := BitVec.ofNat 16 w1, fill := 0, head := 0, st := .empty, mixed := false, valid := true }
/-- BOBST subcode 5 (R157). -/
def badDescriptor (w0 w1 : Nat) : Bool :=
  let b := Bobbin.ofWords w0 w1
  decide (w0 / 2 ^ 54 ≠ 0) || decide (w1 / 2 ^ 16 ≠ 0) || decide (b.size.toNat = 0) || decide (b.size.toNat % 8 ≠ 0)
    || decide (b.base.toNat % 8 ≠ 0) || decide (b.sbase.toNat % 2 ≠ 0) || b.fmt == 7 || b.bkind == 3
/-- A new descriptor takes effect: the tag of the old one is unbound, the new one's is bound and busy (R146). -/
def Core.declare (c : Core) (n : BitVec 5) (b : Bobbin) : Core :=
  let o := c.bobbin n
  let c := if o.valid && o.ften && !(b.ften && b.ftag == o.ftag) then c.setTag o.ftag Tag.reset else c
  (c.setBobbin n b).setBobSt n b .empty
/-- The core with its declarations in flight in effect (R157: they are already refused against each other). -/
def Core.withDecls (c : Core) : Core :=
  c.later.foldl (fun c l => match l.2 with | .bobbin n b => c.declare n b | _ => c) c
/-- BDECL (R157): the descriptor governs from 2 core cycles on. -/
def execBdecl (a : BitVec 4) (n : BitVec 5) (s : State) : Out :=
  let p := s.addr a
  let c := s.me.withDecls
  let w0 := s.me.load p 8
  let w1 := s.me.load (p + 8) 8
  let b := Bobbin.ofWords w0 w1
  s.guard
    [when (decide (p % 8 ≠ 0)) (misal p 3), s.me.readFault p 16, when (badDescriptor w0 w1) (c.bobTrap n 5),
     when ((c.bobbin n).valid && (c.bobbin n).st != .empty) (c.bobTrap n 3),
     when (bobNums.any fun i => i != n && (c.bobbin i).valid &&
       b.ranges.any fun x => (c.bobbin i).ranges.any (overlap x)) (c.bobTrap n 6),
     when (b.ften && (match c.boundTo b.ftag with
       | some i => i != n
       | none => (c.tag b.ftag).st == .busy || (c.tag b.ftag).st == .faulted)) (tagBusy b.ftag)] <|
    .next ((s.modMe fun c => { c.countCe p 16 with later := c.later ++ [(c.cc + 2, .bobbin n b)] }).useData [wordsOf p 16]).advance

/-- An outstanding copy reads or fills bobbin n (R154). -/
def Core.copyUses (c : Core) (n : BitVec 5) : Bool :=
  c.copies.any fun p => p.bob == some n ||
    (p.n != 0 && (c.bobbin n).ranges.any fun r => overlap r (p.src.toNat, p.n) || (match p.bob with
      | some m => isBTag (c.bobbin m).fmt && overlap r (p.side.toNat, p.n / mw (c.bobbin m).fmt)
      | none => false))
/-- A BSET on bobbin n: undeclared (7), in use by a copy (8) for the operations of R154, illegal in its state (3); else
its effect, after which waiting strands are re-examined. -/
def State.bset (s : State) (n : BitVec 5) (inUse : Bool) (early : Option Trap) (bad : Bool) (f : Core → Core) : Out :=
  let c := s.me
  s.guard [early, when (!(c.bobbin n).valid) (c.bobTrap n 7), when (inUse && c.copyUses n) (c.bobTrap n 8),
    when bad (c.bobTrap n 3)] <| .next (s.modWake s.cur f).advance
/-- BSET.EMPTY (R158). -/
def execBsetEmpty (_a : BitVec 4) (n : BitVec 5) (s : State) : Out :=
  s.bset n true none ((s.me.bobbin n).st == .filling) fun c => if (c.bobbin n).st = .empty then c else c.emptyBob n
/-- MISAL of a BSET count. -/
def State.bsetCount (s : State) (a : BitVec 4) : Option Trap := when (decide ((s.g a).toNat % 8 ≠ 0)) (badCount (s.g a))
/-- The message is being deposited into bobbin n: its first payload flit is written (R207). -/
def LocalMsg.deposits (m : LocalMsg) (n : BitVec 5) : Bool :=
  match m.st with | .deposit j _ => j == n && decide (m.msg.flits.length < m.came) | _ => false
/-- A deposit into bobbin n of core l is in progress: a message, a COPY.B or a round that has begun, or an ELD in flight
(R158). -/
def State.depositing (s : State) (l : Nat) (n : BitVec 5) : Bool :=
  (s.core l).locals.any (·.deposits n) || (s.reqs.any fun r => r.core == l && (match r.op with | .eld b _ _ _ _ _ => b == n | _ => false)) ||
    ((s.core l).copies.any fun p => p.bob == some n && decide (1 < p.pos)) ||
    (s.core l).streams.toList.any fun t => t.bob == some n && !t.shape.dir && t.rounds.any (·.begun)
/-- BSET.FULL (R158): of a filling bobbin it waits for a deposit in progress, the strand ready but not eligible. -/
def execBsetFull (a : BitVec 4) (n : BitVec 5) (s : State) : Out :=
  let b := s.me.bobbin n
  let cnt := (s.g a).toNat
  let bad := b.st == .full || b.st == .draining || (b.st == .empty && decide (b.size.toNat < cnt))
  if b.valid ∧ b.st = .filling ∧ s.depositing s.cur n ∧ cnt % 8 = 0 then
    .next (s.holdFor (.bsetFull n))
  else s.bset n false (s.bsetCount a) bad fun c =>
    if b.st = .empty then c.setBobSt n { b with fill := BitVec.ofNat 16 cnt, head := 0 } .full else c.setBobSt n b .full
/-- The deposits that a held BSET.FULL waits for have ended: the bobbin becomes full, and the strand can go on in this core
cycle (R158). -/
def State.settleBset (s : State) (l : Nat) : State :=
  slots.foldl (fun s k =>
    match ((s.core l).strand k).hold with
    | .bsetFull n =>
      if s.depositing l n ∨ ((s.core l).strand k).frozen then s
      else s.modWake l fun c =>
        let c := if (c.bobbin n).st = .filling then c.setBobSt n (c.bobbin n) .full else c
        c.modStrand k fun t => t.unhold c.cc
    | _ => s) s
/-- BSET.DRAIN (R158). -/
def execBsetDrain (_a : BitVec 4) (n : BitVec 5) (s : State) : Out :=
  let st := (s.me.bobbin n).st
  s.bset n false none (st == .empty || st == .filling) fun c => c.setBobSt n (c.bobbin n) .draining
/-- BSET.REL (R158): at HEAD = FILL the bobbin is empty. -/
def execBsetRel (a : BitVec 4) (n : BitVec 5) (s : State) : Out :=
  let b := s.me.bobbin n
  let h := b.head.toNat + (s.g a).toNat
  s.bset n true (s.bsetCount a) (b.st != .draining || decide (b.fill.toNat < h)) fun c =>
    if h = b.fill.toNat then c.emptyBob n else c.setBobbin n { b with head := BitVec.ofNat 16 h }
/-- BSET.UNDECL (R158): its bound tag becomes idle and unbound (R146). -/
def execBsetUndecl (_a : BitVec 4) (n : BitVec 5) (s : State) : Out :=
  let b := s.me.bobbin n
  s.bset n true none (b.st != .empty) fun c =>
    let c := if b.ften then c.setTag b.ftag Tag.reset else c
    c.setBobbin n { b with valid := false }
/-- BQRY and BQRY.H (R159). -/
def execBqry (d : BitVec 4) (h : BitVec 1) (n : BitVec 5) (s : State) : Out :=
  let b := s.me.bobbin n
  let v := if !b.valid then 0
    else if h = 1 then b.head.toNat * 65536 + b.size.toNat
    else b.fill.toNat * 65536 + b.st.code * 16384 + bit b.mixed * 8192 + 4096 + b.swz.toNat * 512 + b.bkind.toNat * 128
      + bit b.eom * 64 + b.bind.toNat
  .next (s.setG d (BitVec.ofNat 32 v) 2).advance

/-! ### Copy tags (R160) -/

/-- TWANY and TWANY.C (R160). -/
def execTwany (d a : BitVec 4) (c : BitVec 1) (s : State) : Out :=
  if s.p a = 0 then .next (s.setG d 64 1).advance
  else .next (s.await (.twany d (s.p a) (c == 1)))
/-- TWALL and TWALL.C (R160). -/
def execTwall (a : BitVec 4) (c : BitVec 1) (s : State) : Out := .next (s.await (.twall (s.p a) (c == 1)))
/-- TFF (R160). -/
def execTff (d a : BitVec 4) (s : State) : Out :=
  match s.me.lowestTag (s.p a) .faulted with
  | some k => .next (s.trap (s.me.tagTrap k))
  | none =>
    let v : Word := match s.me.lowestTag (s.p a) .set with | some k => k.zeroExtend 32 | none => 64
    .next (s.setG d v 1).advance
/-- TCLR takes tag k to idle: unbound, and set or faulted with its operation ended (R160). -/
def Core.tclr (c : Core) (k : BitVec 6) : Core :=
  let t := c.tag k
  if !c.isBound k && (t.st == .set || (t.st == .faulted && !t.live)) then c.setTag k Tag.reset else c
/-- TCLR (R160). -/
def execTclr (a : BitVec 4) (s : State) : Out :=
  let mask := s.p a
  .next (s.modMe fun c => tagNums.foldl (fun c k => if mask.getLsbD k.toNat then c.tclr k else c) c).advance

end Sys2Proof.Machine
end

