-- ==== Sys2Proof/Config.lean ====
section
/-! DEFINITION. What the spec leaves open: free values, which no proof can evaluate. Each is named in the assumption log. -/

namespace Sys2Proof.Config

/-- The phase of the tick edges of the time base against the clock edges of a row domain, in 1/66 ns modulo 66, by a name that each
change of divider or boost renews (13 R336 fixes no phase; DESIGN CHOICE, log entry 5). -/
opaque tickPhase : Nat → Nat
/-- A word the spec leaves open, fresh at each use of the counter (DESIGN CHOICE, log entries 15, 29 and 48). -/
opaque freeWord : Nat → BitVec 32
/-- Whether a signature of a defect map's bytes verifies under the module key (true) or the provisioning key, apart from one that
`mapSign` has given (15 R390; DESIGN CHOICE, log entry 42). -/
opaque mapSigOk : Bool → List (BitVec 8) → BitVec 768 → Bool
/-- The signature the module key gives to a map's signed bytes (15 R391, R403; DESIGN CHOICE, log entry 42). -/
opaque mapSign : List (BitVec 8) → BitVec 768

/-- How near a hub block (block b lies under reticle b / 96) is to the cores of a box, by the sites that hold them, and whether the
control network leads from a site to a block within 6 hub cycles (15 R397 gives neither; DESIGN CHOICE, log entry 42). -/
opaque hubNear : List Nat → Nat → Nat
opaque hubReaches : Nat → Nat → Bool

end Sys2Proof.Config
end

