-- ==== Sys2Proof/Machine/Topology.lean ====
section
/-! DEFINITION. The logical grid: neighbours, partitions, and the placement of logical cores on physical sites
(01 R10–R21, 15 R388–R396). -/

namespace Sys2Proof.Machine

/-! ### The logical torus and partitions -/

/-- GRID's columns and rows (Table 15.6). -/
def Mgmt.gridC (m : Mgmt) : Nat := field m.grid.toNat 0 11
def Mgmt.gridR (m : Mgmt) : Nat := field m.grid.toNat 11 10

/-- The torus neighbour in direction 0 n, 1 e, 2 s, 3 w, and whether the hop crosses a torus edge (R11). -/
def torus (gc gr l dir : Nat) : Nat × Bool :=
  let r := rowOf l
  let c := colOf l
  if dir = 0 then (if r = 0 then ((gr - 1) * 1024 + c, true) else (l - 1024, false))
  else if dir = 1 then (if c + 1 = gc then (r * 1024, true) else (l + 1, false))
  else if dir = 2 then (if r + 1 = gr then (c, true) else (l + 1024, false))
  else (if c = 0 then (r * 1024 + (gc - 1), true) else (l - 1, false))
def Mgmt.torus (m : Mgmt) (l dir : Nat) : Nat × Bool := Sys2Proof.Machine.torus m.gridC m.gridR l dir
/-- The opposite direction. -/
def opposite (dir : Nat) : Nat := (dir + 2) % 4

/-- A core lies in a record's rectangle of clusters (R20). -/
def PartRec.has (p : PartRec) (l : Nat) : Bool :=
  decide (16 * p.col0 ≤ colOf l) && decide (colOf l < 16 * (p.col0 + p.ncol)) &&
    decide (8 * p.row0 ≤ rowOf l) && decide (rowOf l < 8 * (p.row0 + p.nrow))
/-- The partition-relative column and row of a core. -/
def PartRec.rel (p : PartRec) (l : Nat) : Nat × Nat := (colOf l - 16 * p.col0, rowOf l - 8 * p.row0)
/-- The core at a partition-relative column and row. -/
def PartRec.coreAt (p : PartRec) (c r : Nat) : Nat := (8 * p.row0 + r) * 1024 + 16 * p.col0 + c
/-- The cores of a rectangle, row-major. -/
def PartRec.cores (p : PartRec) : List Nat :=
  ((List.range (8 * p.nrow)).map fun r => (List.range (16 * p.ncol)).map fun c => p.coreAt c r).flatten
/-- The hubs of a rectangle, by cluster row and column. -/
def PartRec.hubs (p : PartRec) : List Nat :=
  ((List.range p.nrow).map fun r => (List.range p.ncol).map fun c => 64 * (p.row0 + r) + p.col0 + c).flatten
/-- The row domains of a rectangle. -/
def PartRec.domains (p : PartRec) : List Nat := (List.range p.nrow).map (p.row0 + ·)
/-- The cores of a hub, in cluster-position order. -/
def hubCores (h : Nat) : List Nat :=
  ((List.range 8).map fun r => (List.range 16).map fun c => (8 * (h / 64) + r) * 1024 + 16 * (h % 64) + c).flatten

/-- The record that a core's partition number names. -/
def State.partOf (s : State) (l : Nat) : Option PartRec :=
  match (s.core l).part with
  | some n => s.mgmt.parts.find? fun p => p.part == n && p.has l
  | none => none
/-- The neighbour a route may name: inside the partition (R21, R171). -/
def State.neighbour (s : State) (l dir : Nat) : Option Nat :=
  match s.partOf l with
  | some p => let n := (s.mgmt.torus l dir).1; if p.has n then some n else none
  | none => none

/-! ### Placement (R393) -/

/-- The n-th natural number that is not in a rising list. -/
def nthFree (bad : List Nat) (n : Nat) : Nat := bad.foldl (fun n b => if b ≤ n then n + 1 else n) n
/-- Inserts into a rising list without repeats. -/
def insertNat (k : Nat) : List Nat → List Nat
  | [] => [k]
  | a :: t => if a < k then a :: insertNat k t else if a = k then a :: t else k :: a :: t
/-- The sites that hold no logical core: dead ones, but for those whose core could not be moved (R405), and those spared by R394, by
index and rising. -/
def Mgmt.unplaced (m : Mgmt) : List Nat :=
  m.spared.foldl (fun l k => insertNat k l) ((m.map.sites.map (·.1)).filter fun k => !m.stuck.contains k)
/-- BLOCK of BOOTCAUSE: a bring-up block boot (R403). -/
def Mgmt.block (m : Mgmt) : Bool := m.bootCause.getLsbD 7
/-- The folded slot of a logical coordinate (R393). -/
def slotOf (g c : Nat) : Nat := if c < g / 2 then 2 * c else 2 * (g - 1 - c) + 1
/-- The columns of a physical row that are not live, rising; a block boot sees its first 32 columns (R403). -/
def Mgmt.deadCols (m : Mgmt) (y : Nat) : List Nat :=
  (m.unplaced.filter fun k => k / 1064 == y && (!m.block || decide (k % 1064 < 32))).map (· % 1064)
/-- The rows with too few live sites, rising. -/
def Mgmt.badRows (m : Mgmt) : List Nat :=
  ((m.unplaced.map (· / 1064)).eraseDups).filter fun y =>
    decide ((if m.block then 32 else 1064) - (m.deadCols y).length < m.gridC)
/-- The physical site (x, y) of a logical core, each dimension of the grid presented being folded over its slots (R393, R403). -/
def Mgmt.site (m : Mgmt) (l : Nat) : Nat × Nat :=
  let y := nthFree m.badRows (slotOf m.gridR (rowOf l))
  (nthFree (m.deadCols y) (slotOf m.gridC (colOf l)), y)

/-- The index of a site (R388). -/
def siteIx (p : Nat × Nat) : Nat := p.2 * 1064 + p.1

/-! ### Hops (R169, R394, R395) -/

/-- Whether a site is dead with its router: state 2 (Table 15.1). -/
def Mgmt.routerDead (m : Mgmt) (x y : Nat) : Bool := lookup 0 m.map.sites (y * 1064 + x) == 2
/-- Whether the link from a site in a physical direction is dead. -/
def Mgmt.linkDead (m : Mgmt) (x y dir : Nat) : Bool :=
  if dir = 0 then m.map.links.contains ((y - 1) * 1064 + x, true)
  else if dir = 1 then m.map.links.contains (y * 1064 + x, false)
  else if dir = 2 then m.map.links.contains (y * 1064 + x, true)
  else m.map.links.contains (y * 1064 + x - 1, false)
/-- One physical move. -/
def move (x y : Int) (dir : Nat) : Int × Int :=
  if dir = 0 then (x, y - 1) else if dir = 1 then (x + 1, y) else if dir = 2 then (x, y + 1) else (x - 1, y)
/-- The moves of the path x first, then y (R169). -/
def xyPath (dx dy : Int) : List Nat :=
  List.replicate dx.natAbs (if dx < 0 then 3 else 1) ++ List.replicate dy.natAbs (if dy < 0 then 0 else 2)
/-- A path from a site meets no dead router and no dead link. -/
def Mgmt.pathOk (m : Mgmt) : Int → Int → List Nat → Bool
  | _, _, [] => true
  | x, y, d :: t =>
    let n := move x y d
    decide (0 ≤ n.1) && decide (0 ≤ n.2) && decide (n.1 < 1064) && decide (n.2 < 1008) &&
      !m.linkDead x.toNat y.toNat d && !m.routerDead n.1.toNat n.2.toNat && m.pathOk n.1 n.2 t
/-- The sites reachable in at most n moves inside a box (R395). -/
def Mgmt.reach (m : Mgmt) (x0 x1 y0 y1 : Int) : Nat → List (Int × Int) → List (Int × Int)
  | 0, l => l
  | n + 1, l =>
    m.reach x0 x1 y0 y1 n ((l ++ (l.map fun p => ([0, 1, 2, 3].filter fun d => m.pathOk p.1 p.2 [d]).map (move p.1 p.2)).flatten
      |>.filter fun p => decide (x0 ≤ p.1) && decide (p.1 ≤ x1) && decide (y0 ≤ p.2) && decide (p.2 ≤ y1)).eraseDups)

/-- A hop between two sites: its offsets, whether it takes a detour, and the moves of its path (R11, R394, R395). -/
structure Hop where
  dx : Int
  dy : Int
  detour : Bool
  path : List Nat
  deriving DecidableEq, Repr

/-- The moves at a router in the order of R395: x toward the target, y toward the target, south, north, east, west. -/
def movesToward (p b : Int × Int) : List Nat :=
  (if p.1 < b.1 then [1] else if b.1 < p.1 then [3] else []) ++ (if p.2 < b.2 then [2] else if b.2 < p.2 then [0] else []) ++ [2, 0, 1, 3]
/-- The path of n moves from p to b inside a box: at each router the first move from which b is still n − 1 moves away. -/
def Mgmt.walk (m : Mgmt) (x0 x1 y0 y1 : Int) (b : Int × Int) : Nat → Int × Int → List Nat
  | 0, _ => []
  | n + 1, p =>
    match (movesToward p b).find? fun d =>
      let q := move p.1 p.2 d
      m.pathOk p.1 p.2 [d] && decide (x0 ≤ q.1) && decide (q.1 ≤ x1) && decide (y0 ≤ q.2) && decide (q.2 ≤ y1) &&
        (m.reach x0 x1 y0 y1 n [q]).contains b with
    | some d => d :: m.walk x0 x1 y0 y1 b n (move p.1 p.2 d)
    | none => []
/-- The hop from site a to site b; none where it breaks the stretch bound or has no path. -/
def Mgmt.hop (m : Mgmt) (a b : Nat × Nat) : Option Hop :=
  let dx : Int := (b.1 : Int) - a.1
  let dy : Int := (b.2 : Int) - a.2
  if 3 < dx.natAbs ∨ 3 < dy.natAbs then none
  else if m.pathOk a.1 a.2 (xyPath dx dy) then some ⟨dx, dy, false, xyPath dx dy⟩
  else
    let x0 : Int := min a.1 b.1 - 1
    let x1 : Int := max a.1 b.1 + 1
    let y0 : Int := min a.2 b.2 - 1
    let y1 : Int := max a.2 b.2 + 1
    let p : Int × Int := (a.1, a.2)
    let t : Int × Int := (b.1, b.2)
    ((List.range 37).find? fun n => (m.reach x0 x1 y0 y1 n [p]).contains t).map fun n => ⟨dx, dy, true, m.walk x0 x1 y0 y1 t n p⟩

/-- The grid is placed once boot has completed step 6 (Table 15.5). -/
def Mgmt.placed (m : Mgmt) (l : Nat) : Bool :=
  decide (6 ≤ m.bootProg.toNat % 16) && decide (colOf l < m.gridC) && decide (rowOf l < m.gridR)
/-- The neighbour pointer's hop (Table 7.4); none while VALID is 0. -/
def Mgmt.pointer (m : Mgmt) (l dir : Nat) : Option Hop :=
  if m.placed l then m.hop (m.site l) (m.site (m.torus l dir).1) else none

/-- The logical cores of the grid. -/
def Mgmt.gridCores (m : Mgmt) : List Nat := ((List.range m.gridR).map fun q => (List.range m.gridC).map fun c => q * 1024 + c).flatten
/-- The moves of a path with the sites that make them. -/
def trail : Int × Int → List Nat → List ((Int × Int) × Nat)
  | _, [] => []
  | p, d :: t => (p, d) :: trail (move p.1 p.2 d) t
/-- The hops of the grid: the core, the direction, its site and the hop. -/
def Mgmt.hops (m : Mgmt) : List ((Nat × Nat) × ((Int × Int) × Hop)) :=
  (m.gridCores.map fun l => [0, 1, 2, 3].filterMap fun d => (m.pointer l d).map fun h =>
    let a := m.site l
    ((l, d), (((a.1 : Int), (a.2 : Int)), h))).flatten
/-- The pass-through settings of the router at a site: for each hop that passes it, the core and direction of the hop and the
direction in which its traffic leaves (R169, R395). -/
def Mgmt.passThrough (m : Mgmt) (x y : Nat) : List ((Nat × Nat) × Nat) :=
  (m.hops.map fun (h, a, p) => (trail a p.path).drop 1 |>.filterMap fun (q, d) => if q = ((x : Int), (y : Int)) then some (h, d) else none).flatten
/-- The link that a move from a site takes: the site to its west or north, and whether it runs south. -/
def linkOf (p : Int × Int) (d : Nat) : Nat × Bool :=
  let q := if d = 0 ∨ d = 3 then move p.1 p.2 d else p
  (q.2.toNat * 1064 + q.1.toNat, d == 0 || d == 2)
/-- A link that carries traffic of detours only. -/
def Mgmt.detourOnly (m : Mgmt) (e : Nat × Bool) : Bool :=
  let uses := fun (x : (Nat × Nat) × ((Int × Int) × Hop)) => (trail x.2.1 x.2.2.path).any fun y => linkOf y.1 y.2 == e
  (m.hops.any fun x => x.2.2.detour && uses x) && !(m.hops.any fun x => !x.2.2.detour && uses x)

/-- The routers that a flit enters on a link: those on the way of a hop, and the one at its end (R169, R395). -/
def State.routers (s : State) (l out : Nat) : Nat :=
  if out < 4 then (match s.mgmt.pointer l out with | some h => Nat.max 1 h.path.length | none => 1) else 1
/-- The sending side of a link holds a credit for a channel or class: each router on the link takes 4 flits of it (R168). -/
def State.credit (s : State) (l out ch : Nat) : Bool := decide (countOf (out, ch) (s.core l).used < 4 * s.routers l out)

/-! ### Hub blocks (R397) -/

/-- The boxes of the folded placement, each with its clusters: columns a and the last less a, rows b and the last less b. -/
def Mgmt.boxes (m : Mgmt) : List (List Nat) :=
  let nc := m.gridC / 16
  let nr := m.gridR / 8
  ((List.range ((nr + 1) / 2)).map fun b => (List.range ((nc + 1) / 2)).map fun a =>
    [64 * b + a, 64 * b + (nc - 1 - a), 64 * (nr - 1 - b) + a, 64 * (nr - 1 - b) + (nc - 1 - a)].eraseDups).flatten
/-- The site across a link. -/
def linkEnd (e : Nat × Bool) : Nat := if e.2 then e.1 + 1064 else e.1 + 1
/-- The n numbers of a list that rank lowest, in order. -/
def lowestBy (rank : Nat → Nat) : Nat → List Nat → List Nat
  | 0, _ => []
  | _ + 1, [] => []
  | n + 1, a :: t =>
    let b := t.foldl (fun b x => if rank x < rank b then x else b) a
    b :: lowestBy rank n ((a :: t).erase b)
/-- The sites of a cluster's cores. -/
def Mgmt.clusterSites (m : Mgmt) (h : Nat) : List Nat := (hubCores h).map fun l => siteIx (m.site l)
/-- The clusters of a list bound anew, the others keeping their hub blocks: in each box to the working blocks nearest the box's cores
that no other cluster holds, in cluster order (which block serves which of the four, and which box goes first, is the model's choice,
log entry 42). -/
def Mgmt.rebind (m : Mgmt) (cs : List Nat) : List (Nat × Nat) :=
  m.boxes.foldl (fun l box =>
    let hs := box.filter cs.contains
    let free := (List.range 8064).filter fun b => !m.badHubs.contains b && !l.any fun e => e.2 == b
    l ++ hs.zip (lowestBy (Config.hubNear (box.map m.clusterSites).flatten) hs.length free)) (m.hubBlocks.filter fun e => !cs.contains e.1)
/-- The hub blocks of the whole grid (R397). -/
def Mgmt.bindHubs (m : Mgmt) : List (Nat × Nat) := ({ m with hubBlocks := [] } : Mgmt).rebind m.boxes.flatten
/-- Every cluster of the grid has a block that each of its cores reaches. -/
def Mgmt.hubsHold (m : Mgmt) : Bool :=
  m.boxes.all fun hs => hs.all fun h => match m.hubBlocks.find? fun e => e.1 == h with
    | some (_, b) => (m.clusterSites h).all fun k => Config.hubReaches k b
    | none => false
/-- The spare hub blocks. -/
def Mgmt.spareHubs (m : Mgmt) : List Nat := (List.range 8064).filter fun b => !m.badHubs.contains b && !m.hubBlocks.any fun e => e.2 == b

/-! ### Lasting failures and whom they strike (R405) -/

/-- The router of a site is alive in a map: state 0 or 1. -/
def MapCopy.routerAlive (c : MapCopy) (k : Nat) : Bool := decide (lookup 0 c.sites k ≤ 1)
/-- A link has a site at either end: none lies east of the last column or south of the last row. -/
def linkReal (e : Nat × Bool) : Bool := decide (e.1 < 1072512) && (if e.2 then decide (e.1 / 1064 < 1007) else decide (e.1 % 1064 < 1063))
/-- A record whose skein is resident in its partition. -/
def PartRec.resident (p : PartRec) : Bool := p.st != .selected && p.st != .frozen
/-- The logical core on a site. -/
def Mgmt.coreAtSite (m : Mgmt) (k : Nat) : Option Nat := m.gridCores.find? fun l => m.placed l && siteIx (m.site l) == k
/-- The cores that the remap of a core failure moves: those placed east of the site in its row (R405). -/
def Mgmt.movedBy (m : Mgmt) (k : Nat) : List Nat :=
  m.gridCores.filter fun l => (m.site l).2 == k / 1064 && decide (k % 1064 < (m.site l).1)
/-- A failure's kind: 0 a core, 1 a router, 2 the link east of the site, 3 the link south. A map with one marked lists no link beside
a dead router, which would not verify (R390). -/
def MapCopy.mark (c : MapCopy) (k kind : Nat) : MapCopy :=
  let e := (k, kind == 3)
  if kind = 0 then { c with sites := insert k 1 c.sites }
  else if kind = 1 then { c with sites := insert k 2 c.sites, links := c.links.filter fun e => e.1 != k && linkEnd e != k }
  else if linkReal e ∧ c.routerAlive k ∧ c.routerAlive (linkEnd e) then { c with links := c.links ++ [e] }
  else c
/-- A failure already marked. -/
def MapCopy.marked (c : MapCopy) (k kind : Nat) : Bool :=
  if kind = 0 then lookup 0 c.sites k != 0 else if kind = 1 then lookup 0 c.sites k == 2 else c.links.contains (k, kind == 3)
/-- The partitions that a failure freezes, or that a remap holds frozen for it: those that hold the failed core or a moved one, and
those with a hop that a dead link or router leaves without a path. -/
def Mgmt.struck (m : Mgmt) (k kind : Nat) : List PartRec :=
  let cores := if kind ≤ 1 then (match m.coreAtSite k with | some l => l :: m.movedBy k | none => []) else []
  let m' := { m with map := m.map.mark k kind }
  m.parts.filter fun p => (p.resident || p.remap) && ((cores.any fun l => p.has l) ||
    (p.cores.any fun l => [0, 1, 2, 3].any fun d => p.has (m.torus l d).1 && (m.pointer l d).isSome && (m'.hop (m.site l) (m.site (m.torus l d).1)).isNone))
/-- A partition that remaps hold frozen is to be resumed: no failure still to be handled strikes it (R405, R406). -/
def Mgmt.remapDone (m : Mgmt) (p : PartRec) : Bool :=
  p.remap && m.failures.all fun f => (m.struck f.1 f.2).all fun q => q.recVa != p.recVa

/-! ### Physical mode (R401, step 3) -/

/-- The site that the pointer of a physical core names while its boot ROM runs: the adjacent one, VALID being 0. -/
def romPointer (k dir : Nat) : Option Nat :=
  if dir = 0 then (if 0 < k / 1064 then some (k - 1064) else none)
  else if dir = 1 then (if k % 1064 < 1063 then some (k + 1) else none)
  else if dir = 2 then (if k / 1064 < 1007 then some (k + 1064) else none)
  else (if 0 < k % 1064 then some (k - 1) else none)

/-- The attach point of brick b (R396). -/
def brickAt (b : Nat) : Nat × Nat :=
  let i := b % 8
  if b < 8 then (133 * i + 66, 0) else if b < 16 then (1063, 126 * i + 63)
  else if b < 24 then (997 - 133 * i, 1007) else (0, 944 - 126 * i)
/-- The distance between two points along the grid. -/
def dist (a b : Nat × Nat) : Nat := (a.1 - b.1) + (b.1 - a.1) + (a.2 - b.2) + (b.2 - a.2)
/-- EBRICK: the nearest brick, ties to the lower number (R396). -/
def State.ebrick (s : State) (l : Nat) : Nat :=
  let p := s.mgmt.site l
  (List.range 32).foldl (fun b i => if dist p (brickAt i) < dist p (brickAt b) then i else b) 0

end Sys2Proof.Machine
end

