-- ==== Sys2Proof/Machine/Records.lean ====
section
/-! DEFINITION. Fault records and the report buffer of a core (14 R360, R361). -/

namespace Sys2Proof.Machine

/-- What a record says of its source (Table 14.3): SRC, and the column and row, or a brick number. -/
structure Source where
  src : Nat
  col : Nat
  row : Nat
  part : Option Nat
  deriving DecidableEq, Repr

/-- A fault record (Table 14.3), its SEQ still 0. -/
def mkRec (w : Source) (f : Frame) (async : Bool) (slot time : Nat) : FaultRec :=
  { d0 := BitVec.ofNat 64 (f.cause.toNat + 256 * bit async + 512 * slot + 4096 * w.src + 32768 * bit f.indiv
      + 65536 * f.eidx.toNat + 2 ^ 22 * (w.col % 1024) + 2 ^ 32 * (w.row % 1024) + 2 ^ 42 * (w.part.getD 0 % 64)),
    d1 := BitVec.ofNat 64 (f.einfo.toNat + 2 ^ 32 * f.epc.toNat + 2 ^ 48 * f.eclb.toNat),
    d2 := f.eaddr, d3 := BitVec.ofNat 64 time, part := w.part }
/-- The record with its source's next sequence number (R360). -/
def FaultRec.withSeq (r : FaultRec) (q : BitVec 16) : FaultRec :=
  { r with d0 := BitVec.ofNat 64 (r.d0.toNat % 2 ^ 48 + 2 ^ 48 * q.toNat) }
/-- The 32 bytes of a record. -/
def FaultRec.bytes (r : FaultRec) : List Byte :=
  toBytes 8 r.d0.toNat ++ toBytes 8 r.d1.toNat ++ toBytes 8 r.d2.toNat ++ toBytes 8 r.d3.toNat

/-- A core as a source: partition-relative coordinates. -/
def State.coreSource (s : State) (l : Nat) : Source :=
  match s.partOf l with
  | some p => ⟨0, (p.rel l).1, (p.rel l).2, some p.part⟩
  | none => ⟨0, colOf l, rowOf l, (s.core l).part⟩
/-- A frame that holds a fault and nothing of a strand. -/
def frameOf (f : Trap) : Frame := { Frame.reset with cause := f.cause, einfo := f.einfo, eaddr := f.eaddr }
/-- Management alerts: a hub's first refusal, BRK, over-current, a Nirber port's retrain or loss, frozen partitions that a remap
cannot place (12 R333, 13 R345, 14 R362, R378, 15 R405). -/
def alertOvf : Nat := 1
def alertBrk : Nat := 2
def alertOc : Nat := 3
def alertPort : Nat := 4
def alertLasting : Nat := 5
/-- A management alert is posted: it reaches the leader's fault queue (R333), in a record of the root controller that concerns no
partition (R361): which code of Table 14.1 is its cause (R355) and what its EINFO holds no chapter gives (DESIGN CHOICE, log
entry 48). -/
def State.alert (s : State) (a : Nat) : State :=
  let w := Config.freeWord s.free
  let f : Frame := { Frame.reset with cause := causeCodes.getD (w.toNat % causeCodes.length) cSAVEF, einfo := Config.freeWord (s.free + 1) }
  let r := (mkRec ⟨4, 0, 0, none⟩ f true 0 s.time).withSeq s.mgmt.recSeq
  { s with free := s.free + 2,
           mgmt := { s.mgmt with alerts := s.mgmt.alerts ++ [a], held := s.mgmt.held ++ [r], recSeq := s.mgmt.recSeq + 1 } }
/-- The report buffer has room (R361). -/
def Core.canReport (c : Core) : Bool := decide (c.reports.length < 4)
/-- Of the records that a buffer of n entries holds, those of partition k that an image takes with it: as many of the youngest as the
buffer has entries. The rest stays where it is and is written from there, so that no record is lost (R362; DESIGN CHOICE, log
entry 48). -/
def recordsSaved (n k : Nat) (rs : List FaultRec) : List FaultRec :=
  let mine := rs.filter fun r => r.part == some k
  mine.drop (mine.length - n)
def recordsKept (n k : Nat) (rs : List FaultRec) : List FaultRec :=
  let mine := rs.filter fun r => r.part == some k
  (rs.filter fun r => r.part != some k) ++ mine.take (mine.length - n)
/-- An asynchronous report enters the buffer (R361). -/
def State.report (s : State) (l : Nat) (f : Trap) : State :=
  let r := mkRec (s.coreSource l) (frameOf f) true 0 s.time
  s.modCore l fun c => { c with reports := c.reports ++ [r] }

end Sys2Proof.Machine
end

