-- ==== Sys2Proof/Machine/EdgeMap.lean ====
section
/-! DEFINITION. Edge memory at its homes: the physical map (10 R421), device accesses with the atomic units' lines and the
watches (10 R291, 11 R295, R304), translation (10 R269–R272), page counters and notices (10 R281, R282), and the PLB
(10 R266–R268). -/

namespace Sys2Proof.Machine

/-! ### The physical map (R421) -/

/-- A mapped range: its base, its length, the root ports (brick, port) it interleaves and the granule. -/
structure Region where
  base : Nat
  len : Nat
  ways : List (Nat × Nat)
  gran : Nat
  deriving DecidableEq, Repr

def gib : Nat := 2 ^ 30
/-- Rounded up to a 1 GiB boundary. -/
def upGib (a : Nat) : Nat := (a + gib - 1) / gib * gib
/-- Devices mapped alone, in order, each at a 1 GiB boundary. -/
def aloneFrom : Nat → List ((Nat × Nat) × Nat) → List Region
  | _, [] => []
  | a, (p, n) :: t => if n = 0 then aloneFrom a t else ⟨upGib a, n, [p], 256⟩ :: aloneFrom (upGib a + n) t
/-- A root port's device capacity; none for a host port and a port with no trained device. -/
def State.portCap (s : State) (p : Nat × Nat) : Option Nat :=
  let x := rd (s.brick p.1).cxl (BitVec.ofNat 2 p.2)
  if x.link = 2 ∧ !x.host then some x.cap else none
/-- What each port of an interleaved set gives to it: the smallest capacity rounded down to 1 GiB; 0 when the set is not
interleaved. -/
def State.setShare (s : State) (ps : List (Nat × Nat)) : Nat :=
  let caps := ps.map s.portCap
  if caps.all Option.isSome then ((caps.map (·.getD 0)).foldl Nat.min ((caps.headD none).getD 0)) / gib * gib else 0
/-- The interleaved regions of sets laid one after another, and the address behind them. -/
def State.setRegions (s : State) (gran : Nat) : Nat → List (List (Nat × Nat)) → List Region × Nat
  | a, [] => ([], a)
  | a, ps :: t =>
    let n := s.setShare ps * ps.length
    if n = 0 then s.setRegions gran a t
    else
      let r := s.setRegions gran (upGib a + n) t
      (⟨upGib a, n, ps, gran⟩ :: r.1, r.2)
/-- The ports of a brick. -/
def portsOf (b : Nat) : List (Nat × Nat) := (List.range 4).map fun i => (b, i)
/-- Each port with the capacity that its set leaves. -/
def State.remains (s : State) (sets : List (List (Nat × Nat))) (ps : List (Nat × Nat)) : List ((Nat × Nat) × Nat) :=
  ps.map fun p => (p, (s.portCap p).getD 0 - match sets.find? fun q => q.contains p with | some q => s.setShare q | none => 0)
/-- ILV and the granule of BOOTCFG (Table 15.3). -/
def Mgmt.ilv (m : Mgmt) : Nat := field m.bootCfg.toNat 10 2
def Mgmt.gran (m : Mgmt) : Nat := 256 * 2 ^ field m.bootCfg.toNat 12 3
/-- The first address of a brick's window. -/
def window (b : Nat) : Nat := b * 2 ^ 47
/-- The regions of one brick's own window under ILV 0 to 2. -/
def State.brickRegions (s : State) (b : Nat) : List Region :=
  let sets := if s.mgmt.ilv = 1 then [[(b, 0), (b, 1)], [(b, 2), (b, 3)]] else if s.mgmt.ilv = 2 then [portsOf b] else []
  let r := s.setRegions s.mgmt.gran (window b) sets
  r.1 ++ aloneFrom r.2 (s.remains sets (portsOf b))
/-- The regions of the bricks 2k and 2k + 1. Eight trained root ports are a set under ILV 3 also where its share is 0, and every
device's rest lies in the second window. -/
def State.regions (s : State) (k : Nat) : List Region :=
  let ps := portsOf (2 * k) ++ portsOf (2 * k + 1)
  if s.mgmt.ilv = 3 ∧ ps.all fun p => (s.portCap p).isSome then
    (s.setRegions s.mgmt.gran (window (2 * k)) [ps]).1 ++ aloneFrom (window (2 * k + 1)) (s.remains [ps] ps)
  else s.brickRegions (2 * k) ++ s.brickRegions (2 * k + 1)
/-- The region of a physical address. -/
def State.regionOf (s : State) (pa : Nat) : Option Region :=
  if 2 ^ 52 ≤ pa then none else (s.regions (pa / 2 ^ 48)).find? fun r => decide (r.base ≤ pa) && decide (pa < r.base + r.len)
/-- The home brick of a physical address (R261); none where no port maps it. -/
def State.home (s : State) (pa : Nat) : Option Nat :=
  (s.regionOf pa).map fun r => (r.ways.getD ((pa - r.base) / r.gran % r.ways.length) (0, 0)).1

/-! ### Requests -/

def State.req (s : State) (id : Nat) : Option EdgeReq := s.reqs.find? fun r => r.id == id
def State.modReq (s : State) (id : Nat) (f : EdgeReq → EdgeReq) : State :=
  { s with reqs := s.reqs.map fun r => if r.id = id then f r else r }
def State.dropReq (s : State) (id : Nat) : State := { s with reqs := s.reqs.filter fun r => r.id != id }
/-- A request of a strand is complete: fences and held releases no longer wait for it (R299, R313). -/
def State.completed (s : State) (l : Nat) (k : BitVec 3) (id : Nat) : State :=
  s.modCore l fun c => c.modStrand k fun t =>
    { t with edgeIds := t.edgeIds.filter (· != id), fences := t.fences.map fun f => f.filter (· != id),
             rel := t.rel.map fun r => { r with ids := r.ids.filter (· != id) } }
/-- An earlier request that a CJOIN.REL.ACQ waits for has faulted: the CJOIN raises its fault (R313). -/
def State.faultRel (s : State) (l : Nat) (k : BitVec 3) (id : Nat) (f : Trap) : State :=
  s.modCore l fun c => c.modStrand k fun t =>
    match t.rel.find? fun r => r.acq && r.ids.contains id with
    | some r => if t.run = .waiting then { (t.stopThere f) with pend := t.pend.filter fun p => p.reg != .g r.d || p.due.isSome } else t
    | none => t

/-! ### Device accesses at the home (R295, R304) -/

/-- The held line of a physical address. -/
def Brick.line (b : Brick) (pa : Nat) : Option Line := b.lines.find? fun l => l.pa == pa / 64 * 64
/-- A byte as a device access sees it: the atomic unit's copy, or the CXL device's. -/
def State.devByte (s : State) (pa : Nat) : Byte :=
  match (s.home pa).bind fun b => (s.brick b).line pa with
  | some l => l.data.getD (pa % 64) 0
  | none => Memory.get s.edge pa
/-- The line of an address is poisoned. -/
def State.poisoned (s : State) (pa : Nat) : Bool := s.poison.contains (pa / 64)
/-- A device read of n bytes; none where the address is unmapped or poisoned, which faults EUE (R278, R421). -/
def State.devRead (s : State) (pa n : Nat) : Option (List Byte) :=
  let as_ := (List.range n).map (pa + ·)
  if as_.any fun a => (s.home a).isNone || s.poisoned a then none else some (as_.map s.devByte)

/-- A watch fires: its tag is set and it leaves its table (R291). -/
def State.fireWatch (s : State) (w : Watch) : State :=
  match s.req w.id with
  | some r => ((s.dropReq w.id).modWake r.core fun c => c.finishTag w.tag).completed r.core r.slot w.id
  | none => s
/-- The 8-byte word at an address. -/
def State.devWord (s : State) (pa : Nat) : Nat := ofBytes ((List.range 8).map fun i => s.devByte (pa + i))
/-- The watches of brick b whose word a write touched and that now differ fire (R291). -/
def State.compareWatches (s : State) (b pa n : Nat) : State :=
  let hit := (s.brick b).watches.filter fun w =>
    decide (w.pa < pa + n) && decide (pa < w.pa + 8) && s.devWord w.pa != w.cmp.toNat
  if hit = [] then s
  else hit.foldl State.fireWatch (s.modBrick b fun k => { k with watches := k.watches.filter fun w => !hit.contains w })

/-- The bytes of a line with some replaced. -/
def patch (data : List Byte) (off : Nat) (bs : List Byte) : List Byte :=
  data.zipIdx.map fun (v, i) => if off ≤ i ∧ i < off + bs.length then bs.getD (i - off) 0 else v
/-- A device write within one line, performed at its home against a held line or the device; it clears the line's poison and
the watches compare. An unmapped address takes nothing (R421). -/
def State.devWrite (s : State) (pa : Nat) (bs : List Byte) : State :=
  match s.home pa with
  | none => s
  | some b =>
    let s := { s with poison := s.poison.filter (· != pa / 64) }
    let s := match (s.brick b).line pa with
      | some _ => s.modBrick b fun k => { k with lines := k.lines.map fun (l : Line) =>
          if l.pa = pa / 64 * 64 then { l with data := patch l.data (pa % 64) bs, dirty := true } else l }
      | none => { s with edge := Memory.flatWrite s.edge pa bs }
    s.compareWatches b pa bs.length
/-- A line goes back to its device (R304). -/
def State.flushLine (s : State) (b pa : Nat) : State :=
  match (s.brick b).line pa with
  | none => s
  | some l =>
    let s := if l.dirty then { s with edge := Memory.flatWrite s.edge l.pa l.data } else s
    s.modBrick b fun k => { k with lines := k.lines.map fun x => if x.pa = l.pa then { x with dirty := false } else x }
/-- A system-scope write: written through to the device (R304). -/
def State.sysWrite (s : State) (pa : Nat) (bs : List Byte) : State :=
  let s := s.devWrite pa bs
  match s.home pa with | some b => s.flushLine b pa | none => s
/-- Bytes written through in 8-byte words. -/
def State.sysWriteWords (s : State) (pa : Nat) (bs : List Byte) : State :=
  (List.range ((bs.length + 7) / 8)).foldl (fun s i => s.sysWrite (pa + 8 * i) ((bs.drop (8 * i)).take 8)) s

/-! ### Memory queues (R282, R363) -/

/-- The records between head and tail, modulo 2^32. -/
def QRegs.used (q : QRegs) : Nat := (q.tail.toNat + 2 ^ 32 - q.head.toNat % 2 ^ 32) % 2 ^ 32
def QRegs.full (q : QRegs) : Bool := decide (q.size.toNat ≤ q.used)
/-- The address of the record that the tail names, of n bytes. -/
def QRegs.slot (q : QRegs) (n : Nat) : Nat := q.base.toNat + n * (if q.size = 0 then 0 else q.tail.toNat % q.size.toNat)
/-- The tail past one record. -/
def QRegs.push (q : QRegs) : QRegs := { q with tail := BitVec.ofNat 64 ((q.tail.toNat + 1) % 2 ^ 32) }

/-! ### Page counters (R281, R282) -/

/-- A notice's first word: page-size code, counting and home brick, virtual address. -/
def noticeWord (b : Nat) (c : PageCtr) : Nat :=
  (if c.bits = 16 then 0 else if c.bits = 21 then 1 else if c.bits = 31 then 2 else 3) + 4 * (b % 32) + 128 * (c.home % 32) + c.va / 65536 * 65536
/-- Brick b's counter i reaches 2^TH (R281). -/
def State.crossing (s : State) (b i : Nat) : State :=
  let k := s.brick b
  match k.counters[i]? with
  | none => s
  | some c =>
    if k.queued.any fun q => q.1 == (c.va, c.bits) then s.setBrick b { k with counters := setAt k.counters i { c with count := 0, saturated := false } }
    else if k.mq.full then
      s.setBrick b { k with counters := setAt k.counters i { c with count := 2 ^ k.th.toNat, saturated := true }, qfull := true }
    else
      (s.sysWriteWords (k.mq.slot 16) (toBytes 8 (noticeWord b c) ++ toBytes 8 s.time)).modBrick b fun k =>
        { k with counters := setAt k.counters i { c with count := 0, saturated := false },
                 queued := k.queued ++ [((c.va, c.bits), k.mq.tail.toNat)], mq := k.mq.push }
/-- The place of the counter least recently incremented among those not saturated. -/
def lruCtr (cs : List PageCtr) : Option Nat :=
  (cs.zipIdx.foldl (fun (best : Option (Nat × Nat)) (c, i) =>
    if c.saturated then best
    else match best with | some (t, _) => if c.last < t then some (c.last, i) else best | none => some (c.last, i)) none).map (·.2)
/-- An access translated through a counted leaf is counted (R281). -/
def State.countPage (s : State) (b va bits home : Nat) : State :=
  let k := s.brick b
  let page := va / 2 ^ bits * 2 ^ bits
  if !k.en then s
  else
    let s := { s with nextId := s.nextId + 1 }
    let one : PageCtr := ⟨page, bits, home, 1, false, s.nextId⟩
    match k.counters.findIdx? fun c => c.va == page && c.bits == bits with
    | some i =>
      match k.counters[i]? with
      | none => s
      | some c =>
        if c.saturated then s
        else
          let s := s.setBrick b { k with counters := setAt k.counters i { c with count := c.count + 1, last := s.nextId } }
          if 2 ^ k.th.toNat ≤ c.count + 1 then s.crossing b i else s
    | none =>
      if k.counters.length < 16384 then s.setBrick b { k with counters := k.counters ++ [one] }
      else match lruCtr k.counters with
        | some i => s.setBrick b { k with counters := setAt k.counters i one }
        | none => s.setBrick b { k with missed := if k.missed = 0xFFFF then 0xFFFF else k.missed + 1 }
/-- The scan after MQHEAD has freed space, in index order (R281). -/
def State.scanCounters (s : State) (b : Nat) : State :=
  let s := (List.range (s.brick b).counters.length).foldl (fun s i =>
    match (s.brick b).counters[i]? with
    | some c => if c.saturated ∧ !(s.brick b).mq.full then s.crossing b i else s
    | none => s) s
  s.modBrick b fun k => { k with qfull := k.counters.any (·.saturated) }
/-- MQHEAD of brick b written: QUEUED clears for the notices passed, and the counters are scanned (R281, R282). -/
def State.mqHead (s : State) (b v : Nat) : State :=
  let q := (s.brick b).mq
  let n := (v % 2 ^ 32 + 2 ^ 32 - q.head.toNat % 2 ^ 32) % 2 ^ 32
  let past := fun (i : Nat) => decide ((i + 2 ^ 32 - q.head.toNat % 2 ^ 32) % 2 ^ 32 < n)
  (s.modBrick b fun k => { k with
    mq := { k.mq with head := BitVec.ofNat 64 v },
    queued := k.queued.filter fun q => !past q.2 }).scanCounters b
/-- MQHEAD_WRITE (R281). -/
def execMqheadWrite (b v : Nat) (s : State) : Out := .next (if 32 ≤ b then s else s.mqHead b v)
/-- MIGCTL of brick b written (Table 10.7). -/
def State.migctl (s : State) (b v : Nat) : State :=
  let th := v % 32
  s.modBrick b fun k => { k with th := if 4 ≤ th ∧ th ≤ 20 then BitVec.ofNat 5 th else 20, en := v.testBit 5, missed := 0 }
/-- MIGCTL_WRITE (R282). -/
def execMigctlWrite (b v : Nat) (s : State) : Out := .next (if 32 ≤ b then s else s.migctl b v)

/-! ### Translation (R269–R272) -/

/-- A table entry's fields (Table 10.4). -/
def pteBad (e level : Nat) : Bool :=
  let leaf := e.testBit 1
  let pa := field e 8 44 * 256
  decide (field e 6 2 ≠ 0) || decide (field e 62 2 ≠ 0) || (leaf && level == 4) || (!leaf && level == 0)
    || decide (pa % (if leaf then (if level = 3 then 2 ^ 36 else if level = 2 then 2 ^ 31 else if level = 1 then 2 ^ 21 else 2 ^ 16)
        else (if level = 4 ∨ level = 2 then 8192 else 256)) ≠ 0)
/-- The lowest virtual bit and the number of bits of a level (Table 10.3). -/
def levelBits (level : Nat) : Nat × Nat :=
  if level = 4 then (46, 11) else if level = 3 then (36, 10) else if level = 2 then (31, 5) else if level = 1 then (21, 10) else (16, 5)
/-- One table entry of a walk: its address, value and level, or the cause and reason. -/
def State.walkAt (s : State) (va table level : Nat) : Except (BitVec 8 × BitVec 2) (Nat × Nat × Nat) :=
  let lb := levelBits level
  let a := table + 8 * field va lb.1 lb.2
  match s.devRead a 8 with
  | none => .error (cEUE, 3)
  | some bs =>
    let e := ofBytes bs
    if !e.testBit 0 then .error (cEPF, 0) else if pteBad e level then .error (cEPF, 2) else .ok (a, e, level)

/-- A walk: the entry's address, the entry and its level for a leaf, or the cause and reason. -/
def State.walk (s : State) (va : Nat) : Nat → Nat → Except (BitVec 8 × BitVec 2) (Nat × Nat × Nat)
  | table, 0 => s.walkAt va table 0
  | table, level + 1 =>
    match s.walkAt va table (level + 1) with
    | .error f => .error f
    | .ok (a, e, l) => if e.testBit 1 then .ok (a, e, l) else s.walk va (field e 8 44 * 256) level

/-- A lookaside hit for an address. -/
def Brick.hit (b : Brick) (va : Nat) : Option Tlb := b.tlb.find? fun t => va / 2 ^ t.bits == t.va / 2 ^ t.bits
/-- A leaf enters the lookaside of 4,096 entries, the oldest leaving (R271). -/
def Brick.cache (b : Brick) (t : Tlb) : Brick :=
  let l := b.tlb.filter fun x => x.va / 2 ^ x.bits != t.va / 2 ^ x.bits
  { b with tlb := (if 4096 ≤ l.length then l.drop 1 else l) ++ [t] }
/-- Translation of one address at brick b (R271, R272): the leaf used, or the cause and reason. A write through a
leaf cached with D = 0 walks again. -/
def State.translate (s : State) (b va : Nat) (write : Bool) : State × Except (BitVec 8 × BitVec 2) Tlb :=
  let walked : State × Except (BitVec 8 × BitVec 2) Tlb :=
    match s.walk va (s.mgmt.etroot.toNat % 2 ^ 52) 4 with
    | .error f => (s, .error f)
    | .ok (a, e, level) =>
      if write ∧ !e.testBit 2 then (s, .error (cEPF, 1))
      else
        let n := (levelBits level).1
        let e' := (BitVec.ofNat 64 e ||| (if write then 0x18 else 0x08)).toNat
        let t : Tlb := ⟨va / 2 ^ n * 2 ^ n, field e 8 44 * 256, n, e.testBit 2, e'.testBit 4, e.testBit 5⟩
        ((s.devWrite a (toBytes 8 e')).modBrick b fun k => k.cache t, .ok t)
  match (s.brick b).hit va with
  | some t => if write ∧ !t.d then walked else if write ∧ !t.w then (s, .error (cEPF, 1)) else (s, .ok t)
  | none => walked
/-- The pages already counted of a request, with the pieces translated so far and the first fault. -/
structure Xlate where
  s : State
  done : List Piece
  pages : List (Nat × Nat)
  fault : Option (BitVec 8 × BitVec 2 × Dword)
/-- Translates a request's pieces in order, counting each page once (R281); stops at the first fault. -/
def State.translatePieces (s : State) (b : Nat) (write : Bool) (ps : List Piece) : Xlate :=
  ps.foldl (fun x p =>
    if x.fault.isSome then x
    else match x.s.translate b p.va write with
      | (s, .error (c, r)) => { x with s := s, fault := some (c, r, BitVec.ofNat 64 p.va) }
      | (s, .ok t) =>
        let pa := t.pa + p.va % 2 ^ t.bits
        let page := (t.va, t.bits)
        let s := if t.cnt ∧ !x.pages.contains page then s.countPage b p.va t.bits ((s.home pa).getD 0) else s
        ⟨s, x.done ++ [{ p with pa := pa }], page :: x.pages, none⟩) ⟨s, [], [], none⟩

/-! ### The PLB (R266–R268) -/

/-- The end of a valid entry's range that grants the right (0 R, 1 W, 2 A) and covers an address. -/
def plbEnd (e : Dword) (right : Nat) (x : Int) : Option Int :=
  let lo : Int := ((e.toNat % 2 ^ 36 * 2 ^ 21 : Nat) : Int)
  let hi : Int := lo + ((2 ^ (21 + field e.toNat 36 6) : Nat) : Int)
  if e.getLsbD 63 ∧ e.getLsbD (42 + right) ∧ lo ≤ x ∧ x < hi then some hi else none
/-- The first byte of lo..hi that no entry covers; each entry serves once. -/
def plbScan (es : List Dword) (right : Nat) (hi : Int) : Nat → Int → Option Int
  | 0, x => some x
  | n + 1, x => if hi < x then none else match es.findSome? fun e => plbEnd e right x with
    | none => some x
    | some y => plbScan es right hi n y
/-- PLBX (Table 10.10): reason, right, first byte that fails. -/
def plbx (reason right : Nat) (x : Int) : Trap := ⟨cPLBX, BitVec.ofNat 32 (reason + 4 * right), BitVec.ofInt 64 x⟩
/-- The PLB check of ranges given by first and last byte. -/
def Core.plbCheck (c : Core) (right : Nat) (rs : List (Int × Int)) : Option Trap :=
  match rs.findSome? fun (lo, hi) => if lo < 0 ∨ 2 ^ 57 ≤ lo then some lo else if 2 ^ 57 ≤ hi then some (2 ^ 57) else none with
  | some x => some (plbx 2 right x)
  | none => (rs.findSome? fun (lo, hi) => plbScan c.plb.toList right hi 18 lo).map (plbx 0 right)

end Sys2Proof.Machine
end

