-- ==== Sys2Proof/Machine/Edge.lean ====
section
/-! DEFINITION. Spindles, rounds and small transfers: majors 0x34 and 0x35 and their events (10 R263, R273–R292). -/

namespace Sys2Proof.Machine

/-! ### Shape records (R273–R275) -/

def Shape.nd (r : Shape) : Nat := r.dims.toNat + 1
def Shape.np (r : Shape) : Nat := r.depth.toNat + 1
def Shape.e (r : Shape) (j : Nat) : Nat := (r.ext.toList.getD j 0).toNat
def Shape.sd (r : Shape) (j : Nat) : Int := (r.stride.toList.getD j 0).toInt
/-- The product of the extents from j, n of them. -/
def Shape.prod (r : Shape) (j n : Nat) : Nat := ((List.range n).map fun i => r.e (j + i)).foldl (· * ·) 1
def Shape.bytes (r : Shape) : Nat := r.prod 0 r.np
/-- RC, the number of rounds. -/
def Shape.count (r : Shape) : Nat := r.prod r.np (r.nd - r.np)
def Shape.blk (r : Shape) : Bool := isB r.fmt
/-- The validity of R274. -/
def Shape.valid (r : Shape) : Bool :=
  let al := if r.blk then 2 * mw r.fmt else 8
  decide (r.np ≤ r.nd) && decide (8 ≤ r.e 0) && r.fmt != 7 && !r.resv
    && ((List.range 8).all fun j =>
      (if j < r.nd then decide (1 ≤ r.e j) else r.e j == 0 && r.sd j == 0) && decide (r.sd j % (al : Int) = 0))
    && r.sd 0 == 0 && decide (r.e 0 % al = 0) && decide (r.base.toNat % 8 = 0) && decide (r.sbase.toNat % 2 = 0)
    && decide (r.bytes ≤ 65528) && decide (r.count ≤ 2 ^ 32)
    && (!r.xp || (decide (r.fmt.toNat ≤ 3) && !r.dir && decide (2 ≤ r.np) && r.e 1 == 16 && (r.fmt != 3 || decide (r.e 0 % 32 = 0))))
/-- O of round n (R275). -/
def Shape.origin (r : Shape) (n : Nat) : Int :=
  ((List.range (r.nd - r.np)).foldl (fun (o, q) i =>
    let j := r.np + i
    (o + ((q % r.e j : Nat) : Int) * r.sd j, q / r.e j)) ((0 : Int), n)).1
/-- The start of run q of a round, relative to its origin: i[1] varies fastest (R275). -/
def Shape.runAt (r : Shape) (q : Nat) : Int :=
  ((List.range (r.np - 1)).foldl (fun (o, q) i =>
    (o + ((q % r.e (i + 1) : Nat) : Int) * r.sd (i + 1), q / r.e (i + 1))) ((0 : Int), q)).1
/-- The edge address of byte o of round n's stream. -/
def Shape.byteAt (r : Shape) (n o : Nat) : Int :=
  (r.base.toNat : Int) + r.origin n + r.runAt (o / r.e 0) + ((o % r.e 0 : Nat) : Int)
/-- The side address of the block at mantissa address x. -/
def Shape.sideAt (r : Shape) (x : Int) : Int := (r.sbase.toNat : Int) + (x - r.base.toNat) / (mw r.fmt : Int)
/-- The bounding intervals of round n: first and last byte of each (R275). -/
def Shape.intervals (r : Shape) (n : Nat) : List (Int × Int) :=
  let reach := fun (pos : Bool) => ((List.range (r.np - 1)).map fun i =>
    let v := ((r.e (i + 1) : Int) - 1) * r.sd (i + 1)
    if pos = decide (0 < v) then v else 0).foldl (· + ·) 0
  let o := (r.base.toNat : Int) + r.origin n
  let lo := o + reach false
  let hi := o + reach true + r.e 0 - 1
  (lo, hi) :: if r.blk then [(r.sideAt lo, r.sideAt (hi + 1) - 1)] else []

/-- Bytes of a block or BF16 row of 16 elements. -/
def Shape.blkBytes (r : Shape) : Nat := if r.blk then 2 * mw r.fmt else 32
/-- The bytes of a unit (R276). -/
def Shape.unitBytes (r : Shape) : Nat := if r.xp then 16 * r.blkBytes else if r.blk ∨ r.fmt = 3 then r.blkBytes else 8
def Shape.units (r : Shape) : Nat := (r.bytes + r.unitBytes - 1) / r.unitBytes
/-- n bytes at an address as pieces of at most 8 bytes, with their data if written. -/
def wordPieces (va n : Nat) (data : List Byte) : List Piece :=
  if n ≤ 8 then [⟨va, n, 0, data⟩] else (List.range (n / 8)).map fun i => ⟨va + 8 * i, 8, 0, (data.drop (8 * i)).take 8⟩
/-- The stream offsets at which a unit's parts lie, with their lengths: its words, or with XP its sixteen blocks. -/
def Shape.parts (r : Shape) (u : Nat) : List (Nat × Nat) :=
  if r.xp then
    let c := r.e 0 / r.blkBytes
    (List.range 16).map fun i => ((u / c * 16 + i) * r.e 0 + u % c * r.blkBytes, r.blkBytes)
  else if r.blk then [(u * r.unitBytes, r.unitBytes)]
  else (List.range (Nat.min r.unitBytes (r.bytes - u * r.unitBytes) / 8)).map fun i => (u * r.unitBytes + 8 * i, 8)
/-- The pieces of unit u of round n; `src` gives the data of a part and of a side pair of a write round. -/
def Shape.pieces (r : Shape) (n u : Nat) (src : Nat → Nat → List Byte) (side : Nat → List Byte) : List Piece :=
  let ps := r.parts u
  (ps.map fun (o, k) => wordPieces (r.byteAt n o).toNat k (src o k)).flatten ++
    if r.blk then ps.map fun (o, _) => ⟨(r.sideAt (r.byteAt n o)).toNat, 2, 0, side (o / mw r.fmt)⟩ else []

/-! ### Faults and results -/

/-- ESTRM (Table 10.10). -/
def estrm (sub : Nat) (slot : BitVec 4) (x : Nat) : Trap := mkTrap cESTRM (sub + 16 * slot.toNat + 256 * x)
/-- EPF and EUE (Table 10.10): slot and round number for rounds, operation, write intent, reason, address. -/
def edgeTrap (f : BitVec 8 × BitVec 2 × Dword) (slot op : Nat) (write : Bool) (round : Nat) : Trap :=
  ⟨f.1, BitVec.ofNat 32 (slot + 16 * op + 64 * bit write + 128 * f.2.1.toNat + 512 * (round % 2 ^ 23)), f.2.2⟩
/-- The serving brick posts a record of a faulted tag (R278, 14 R361). -/
def State.brickRecord (s : State) (b l : Nat) (f : Trap) : State :=
  let r := mkRec ⟨2, b, 0, (s.core l).part⟩ (frameOf f) true 0 s.time
  s.modBrick b fun k => { k with held := k.held ++ [r.withSeq k.recSeq], recSeq := k.recSeq + 1 }

/-- The data of a request's pieces. -/
def EdgeReq.bytes (q : EdgeReq) : List Byte := (q.pieces.map Piece.data).flatten
/-- A core's outstanding edge operations (R263). -/
def State.edgeCount (s : State) (l : Nat) : Nat :=
  (s.reqs.filter fun r => r.core == l && (match r.op with | .unit _ _ _ | .launch _ _ _ _ => false | .eld _ _ _ _ _ _ => !r.landed | _ => true)).length
    + ((s.core l).streams.toList.map fun t => t.rounds.length).foldl (· + ·) 0
/-- Sends an edge request of the executing strand to a brick. -/
def State.sendEdge (s : State) (b : Nat) (write : Bool) (op : EdgeOp) (ps : List Piece) : State :=
  ({ s with
      reqs := s.reqs ++ [⟨s.nextId, s.cur, s.slot, b, write, op, ps, .toBrick, s.time, none, 0, false⟩],
      nextId := s.nextId + 1 } : State).modSt fun t => { t with edgeIds := t.edgeIds ++ [s.nextId] }

/-! ### Stream slots (R284–R287) -/

def Core.stream (c : Core) (n : BitVec 4) : Stream := rd c.streams n
def Core.modStream (c : Core) (n : BitVec 4) (f : Stream → Stream) : Core := { c with streams := wr c.streams n (f (c.stream n)) }
/-- A change of the round with an id in slot n. -/
def Core.modRound (c : Core) (n id : Nat) (f : Round → Round) : Core :=
  c.modStream (BitVec.ofNat 4 n) fun t => { t with rounds := t.rounds.map fun q => if q.id = id then f q else q }
def Core.shape (c : Core) (e : BitVec 6) : Option Shape := rd c.shapes e
/-- A bobbin's binding (Table 6.1). -/
def Core.bindBob (c : Core) (n : BitVec 5) (kind : BitVec 2) (e : BitVec 6) : Core :=
  c.setBobbin n { c.bobbin n with bkind := kind, bind := e }

/-- SPBIND (R284); b is the bobbin, n its NB bit. -/
def execSpbind (d a : BitVec 4) (e : BitVec 6) (n : BitVec 1) (b : BitVec 5) (s : State) : Out :=
  let c := s.me
  let r := (c.shape e).getD Shape.reset
  let k := c.bobbin b
  s.guard
    [when ((c.stream a).st == .bound) (estrm 1 a e.toNat), when (c.shape e).isNone (estrm 2 a e.toNat),
     when (!r.valid) (estrm 5 a e.toNat), when ((n == 1) != r.dir) (estrm 4 a e.toNat),
     when (n == 1 && b != 0) s.illop,
     when (n == 0 && !(k.valid && k.st == .empty && k.bkind == 0 && decide (r.bytes ≤ k.size.toNat)
       && (k.fmt == r.fmt || !(isB k.fmt || isB r.fmt)))) (estrm 3 a e.toNat)] <|
    .next ((s.modMe fun c =>
      let c := c.modStream a fun t =>
        { t with st := .binding, entry := e, bob := if n = 0 then some b else none, shape := r, rounds := [], by_ := (s.slot, d) }
      if n = 0 then c.bindBob b 2 e else c).awaitG d).advance
/-- SPBIND_REPLY (R284): the lowest free spindle of the record's brick, or none. -/
def execSpbindReply (c n : Nat) (s : State) : Out :=
  let ix : BitVec 4 := BitVec.ofNat 4 n
  let t := (s.core c).stream ix
  if t.st ≠ .binding then .next s
  else
    let b := t.shape.brick.toNat
    let used := (s.brick b).spindles
    let reply := fun (s : State) (v : Word) => s.modCore c fun x => x.modStrand t.by_.1 fun q => q.answer t.by_.2 v (x.nextCycle + 1)
    match (List.range 256).find? fun i => !used.any fun u => u.1 == i with
    | some i =>
      .next (reply ((s.modBrick b fun k => { k with spindles := k.spindles ++ [(i, (c, n))] }).modCore c fun x =>
        x.modStream ix fun t => { t with st := .bound, spindle := i }) 0)
    | none =>
      .next (reply (s.modCore c fun x =>
        let x := x.modStream ix fun _ => Stream.reset
        match t.bob with | some m => x.bindBob m 0 0 | none => x) 1)
/-- The spindle of a slot is released (R284). -/
def State.releaseSpindle (s : State) (l : Nat) (t : Stream) : State :=
  s.modBrick t.shape.brick.toNat fun k => { k with spindles := k.spindles.filter fun u => !(u.1 == t.spindle && u.2.1 == l) }
/-- SPFREE (R284). -/
def execSpfree (a : BitVec 4) (s : State) : Out :=
  let t := s.me.stream a
  s.guard [when (t.st != .bound) (estrm 1 a 0), when (!t.rounds.isEmpty) (estrm 6 a 0)] <|
    .next ((s.releaseSpindle s.cur t).modMe fun c =>
      let c := c.modStream a fun _ => Stream.reset
      match t.bob with | some m => c.bindBob m 0 0 | none => c).advance

/-- A round is queued, and moves on at once if it can (R285, Table 10.6). -/
def State.queueRound (s : State) (n : BitVec 4) (r : Round) : State :=
  ({ s with nextId := s.nextId + 1 } : State).modWake s.cur fun c =>
    ((c.takeTag r.tag .round).modStream n fun t => { t with rounds := t.rounds ++ [r] }).modStrand s.slot fun t =>
      { t with edgeIds := t.edgeIds ++ [s.nextId] }
/-- SPRUN and SPRUN.W (R285): the checks in their order, then the round. -/
def State.sprun (s : State) (d a n : BitVec 4) (k : BitVec 6) (write : Bool) : Out :=
  let c := s.me
  let t := c.stream n
  let r := t.shape
  let m := (s.g a).toNat
  let arc := (s.g d).toNat
  let w := (s.g (a + 1)).toNat
  let src := w % 65536
  let side := w / 65536
  s.guard
    [when (t.st != .bound) (estrm 1 n k.toNat), when (r.dir != write) (estrm 4 n k.toNat),
     when (decide (r.count ≤ m)) (estrm 7 n k.toNat),
     when (d != 0 && (decide (128 ≤ arc) || arc == 64 + k.toNat)) (estrm 8 n k.toNat),
     when (!write && (match t.bob with | some b => decide ((c.bobbin b).size.toNat < r.bytes) | none => false)) (estrm 3 n k.toNat),
     when (write && decide (src % 8 ≠ 0)) (misal src 3), when (write && decide (side % 2 ≠ 0)) (misal side 1),
     if write then c.checkRead src r.bytes else none,
     if write && r.blk then c.checkRead side (r.bytes / mw r.fmt) else none,
     c.plbCheck (if write then 1 else 0) (r.intervals m), when (!c.tagFree k) (tagBusy k)] <|
    .next (s.queueRound n
      ⟨s.nextId, m, k, if d ≠ 0 ∧ 64 ≤ arc then some (BitVec.ofNat 6 arc) else none, r, BitVec.ofNat 16 src, BitVec.ofNat 16 side,
        s.slot, .queued, false, 0, [], none, [], none⟩).advance
/-- SPRUN (R285). -/
def execSprun (d a sx : BitVec 4) (k : BitVec 6) (s : State) : Out := s.sprun d a sx k false
/-- SPRUN.W (R285). -/
def execSprunW (d a sx : BitVec 4) (k : BitVec 6) (s : State) : Out := s.sprun d a sx k true
/-- The record with one field overwritten (R286). -/
def Shape.set (r : Shape) (sel : BitVec 4) (p : Dword) : Shape :=
  if sel = 0 then { r with base := p.truncate 57 } else if sel = 1 then { r with sbase := p.truncate 57 }
  else { r with ext := wr r.ext ((sel - 2).truncate 3 : BitVec 3) (p.truncate 32) }
/-- SPSET (R286). -/
def execSpset (a sx e : BitVec 4) (s : State) : Out :=
  let t := s.me.stream sx
  let r := t.shape.set e (s.p a)
  s.guard [when (t.st != .bound) (estrm 1 sx 0), when (!r.valid) (estrm 5 sx 0)] <|
    .next (s.modMe fun c => c.modStream sx fun t => { t with shape := r }).advance

/-! ### The progress of rounds (R276–R278) -/

/-- The bobbin of a slot takes no deposit: it is full or draining (R142, R143). -/
def Core.shut (c : Core) (b : BitVec 5) : Bool := (c.bobbin b).st == .full || (c.bobbin b).st == .draining

/-- The units complete from the start of a round. -/
def Round.done (r : Round) : Nat := ((List.range (r.landed.length + 1)).find? fun i => !r.landed.contains i).getD 0
/-- Bytes of the complete units. -/
def Round.fill (r : Round) : Nat := Nat.min (r.done * r.shape.unitBytes) r.shape.bytes
/-- Units requested and not answered. -/
def State.inFlight (s : State) (l n id : Nat) : List EdgeReq :=
  s.reqs.filter fun q => q.core == l && (match q.op with | .unit m i _ => m == n && i == id | _ => false)

/-- A round ends: its tag is set and the slot takes its next round (Table 10.6). A cancelled read round that had begun
leaves its bobbin full. -/
def State.endRound (s : State) (l n : Nat) (r : Round) : State :=
  let ix : BitVec 4 := BitVec.ofNat 4 n
  let s := s.modCore l fun c =>
    let t := c.stream ix
    let c := match t.bob with
      | some b => if r.begun ∧ !r.shape.dir ∧ !c.shut b then c.setBobSt b { c.bobbin b with fill := BitVec.ofNat 16 r.fill } .full else c
      | none => c
    (c.modStream ix fun t => { t with rounds := t.rounds.filter fun q => q.id != r.id }).finishTag r.tag
  (s.modWake l id).completed l r.slot r.id
/-- The oldest round of slot n after a reply: it faults once the units before the faulting one are complete, ends when
every unit is, or when the units of a cancelled one are answered (R277, R278). -/
def State.settleRound (s : State) (l n : Nat) : State :=
  let ix : BitVec 4 := BitVec.ofNat 4 n
  match ((s.core l).stream ix).rounds with
  | [] => s
  | r :: _ =>
    if r.st = .faulting then
      match r.fault with
      | some f =>
        if f.at_ ≤ r.done then
          let e := if f.cause = cMEMUE then mkTrap cMEMUE (f.addr.toNat * 65536) else edgeTrap (f.cause, f.reason, f.addr) n 0 r.shape.dir r.n
          let s := s.modWake l fun c => (c.modRound n r.id fun q => { q with st := .faulted }).failTag r.tag e true
          (if f.cause = cMEMUE then s else s.brickRecord r.shape.brick.toNat l e).faultRel l r.slot r.id e
        else s
      | none => s
    else if r.st = .cancelling then (if s.inFlight l n r.id = [] then s.endRound l n r else s)
    else if r.st = .running ∧ r.done = r.shape.units then s.endRound l n r
    else s
/-- The bytes that a read unit's data deposit: at what offset of the stream, and the side bytes with theirs (R275, R276). -/
def Shape.delivery (r : Shape) (u : Nat) (data : List Byte) : List Byte × List Byte :=
  if r.xp then
    let k := r.blkBytes
    let rs := (List.range 16).map fun i =>
      (rowFields r.fmt 16 ((data.drop (k * i)).take k), BitVec.ofNat 16 (ofBytes ((data.drop (16 * k + 2 * i)).take 2)))
    let t := transposeRows r.fmt rs
    ((t.map fun x => rowBytes r.fmt x.1).flatten, if r.blk then (t.map fun x => toBytes 2 x.2.toNat).flatten else [])
  else
    let n := Nat.min r.unitBytes (r.bytes - u * r.unitBytes)
    (data.take n, data.drop n)
/-- The words of a read unit's flits, 16 bytes and their side bytes each, from the words of its bytes (R137). -/
def portFlits (ws side : List Nat) : List (List Nat) :=
  (List.range ((ws.length + 15) / 16)).map fun i =>
    let per := 16 * side.length / ws.length
    (((ws.drop (16 * i)).take 16) ++ ((side.drop (per * i)).take per)).eraseDups
/-- A read unit is written at its offset under the bobbin's swizzle (R276), through the deposit port (R137). -/
def Core.putUnit (c : Core) (b : BitVec 5) (r : Round) (u : Nat) (data : List Byte) : Core :=
  let k := c.bobbin b
  let d := r.shape.delivery u data
  let off := u * r.shape.unitBytes
  let swz := if k.st = .empty then r.shape.swz else k.swz
  let place := fun (o : Nat) => if swz = 1 ∧ (isB r.shape.fmt ∨ r.shape.fmt = 3) then skew o (rowWords r.shape.fmt) else o
  let cells := d.1.zipIdx.map fun (v, i) => ((k.base.toNat + place (off + i)) % 65536, v)
  let side := k.sbase.toNat + (if r.shape.blk then off / mw r.shape.fmt else 0)
  let c := (c.storeCells cells).store side d.2
  { c with depQ := c.depQ ++ portFlits (cells.map fun (x : Nat × Byte) => x.1 / 8) ((span side d.2.length).map (· / 8)) }
/-- A read unit lands: FILL covers the complete units, and the bobbin is filling once there is one, so that it stays empty when the
first unit faults (R276, R278). Of a transposing round a unit is kept until every earlier one is complete: behind a faulting one
the bytes keep their old contents. -/
def Core.landUnit (c : Core) (n : Nat) (b : BitVec 5) (r : Round) (u : Nat) (data : List Byte) : Core :=
  let k := c.bobbin b
  let r' := { r with landed := u :: r.landed, kept := (u, data) :: r.kept }
  let now := if r.shape.xp then r'.kept.filter fun x => decide (x.1 < r'.done) else [(u, data)]
  let c := now.foldl (fun c x => c.putUnit b r x.1 x.2) c
  let c := c.modRound n r.id fun _ => { r' with kept := if r.shape.xp then r'.kept.filter fun x => decide (r'.done ≤ x.1) else [] }
  let swz := if k.st = .empty then r.shape.swz else k.swz
  if r'.done = 0 then c
  else c.setBobSt b { k with swz := swz, fill := BitVec.ofNat 16 r'.fill } (if r'.fill = r.shape.bytes then .full else .filling)

/-- The mantissa bytes of a write round's next unit: where they stand, and how many; and where its side pair stands (R279). -/
def Round.from_ (r : Round) : Nat := (r.src.toNat + r.next * r.shape.unitBytes) % 65536
def Round.count (r : Round) : Nat := Nat.min r.shape.unitBytes (r.shape.bytes - r.next * r.shape.unitBytes)
def Round.pairAt (r : Round) : Nat := (r.side.toNat + r.next * r.shape.unitBytes / mw r.shape.fmt) % 65536
/-- The word of side pairs that the next unit needs, unless the unit before it has read it (R279). -/
def Round.pairWord (r : Round) : List Nat :=
  let w := r.pairAt / 8
  if r.shape.blk && (match r.sideWord with | some k => k.1 != w | none => true) then [w] else []
/-- The data of the next unit are still to be read (R279). -/
def Round.unread (r : Round) : Bool := !r.kept.any fun x => x.1 == r.next
/-- The first byte of the next unit's data with an uncorrectable error (R138). -/
def Core.unitError (c : Core) (r : Round) : Option Nat :=
  if !r.unread then none
  else match c.ueAt r.from_ r.count with
    | some a => some a
    | none => if r.pairWord = [] then none else c.ueAt r.pairAt 2
/-- A write round's data for its next unit (R279): those kept from an earlier request of it, or read now over the data port (R137),
each 8-byte word of the source once: a unit takes its own mantissa words, and the word of side pairs serves the units that share
it. Corrected errors are counted (R138). -/
def Core.readUnit (c : Core) (n : Nat) (r : Round) : Core × List Byte :=
  match r.kept.find? fun x => x.1 == r.next with
  | some x => (c, x.2)
  | none =>
    let m := Memory.bytes c.sram r.from_ r.count
    let l := c.sideWordOf r.sideWord (r.pairAt / 8)
    let x := m ++ if r.shape.blk then (l.drop (r.pairAt % 8)).take 2 else []
    let c := r.pairWord.foldl (fun c w => c.countCe (8 * w) 8) (c.countCe r.from_ r.count)
    ({ c.modRound n r.id fun q =>
        { q with kept := (r.next, x) :: q.kept, sideWord := if r.shape.blk then some (r.pairAt / 8, l) else q.sideWord } with
       dataQ := c.dataQ ++ [wordsOf r.from_ r.count ++ r.pairWord] }, x)
/-- SPINDLE_UNIT_REQUEST (R276): the spindle of slot n requests the running round's next unit: the first one of a read round while
its bobbin is empty, one of a write round once the data port can read it. A source word with an uncorrectable error faults the
round at that unit with MEMUE, as it does the tag of any other operation that reads on its own (R138, R147; DESIGN CHOICE, log
entry 20). -/
def execSpindleUnitRequest (c n : Nat) (s : State) : Out :=
  let ix : BitVec 4 := BitVec.ofNat 4 n
  let x := s.core c
  match (x.stream ix).rounds with
  | [] => .next s
  | r :: _ =>
    let waits : Bool := !r.shape.dir && r.next == 0 && (match (x.stream ix).bob with | some b => (x.bobbin b).st != .empty | none => false)
    let busy : Bool := r.shape.dir && r.unread && !x.portFree
    if (x.stream ix).st ≠ .bound ∨ r.st ≠ .running ∨ x.frozen ∨ r.shape.units ≤ r.next ∨ 16 ≤ n ∨ waits ∨ busy then .next s
    else if let some a := (if r.shape.dir then x.unitError r else none) then
      .next ((s.modCore c fun x => x.modRound n r.id fun q =>
        { q with st := .faulting, fault := some ⟨r.next, cMEMUE, 0, BitVec.ofNat 64 a⟩ }).settleRound c n)
    else
      let (y, data) := if r.shape.dir then x.readUnit n r else (x, [])
      let first := r.next * r.shape.unitBytes
      let ps := r.shape.pieces r.n r.next (fun o k => if r.shape.dir then (data.drop (o - first)).take k else [])
        fun _ => if r.shape.dir then data.drop (Nat.min r.shape.unitBytes (r.shape.bytes - first)) else []
      let s := if r.shape.dir then s.setCore c y else s
      let s' : State := { s with
          reqs := s.reqs ++ [⟨s.nextId, c, r.slot, r.shape.brick.toNat, r.shape.dir, .unit n r.id r.next, ps, .toBrick, s.time, none, 0, false⟩],
          nextId := s.nextId + 1 }
      .next (s'.modCore c fun x => x.modRound n r.id fun q => { q with next := q.next + 1 })

/-- UNIT_REPLY (R276, R278): a unit lands or is complete, or its fault is taken: the earliest faulting unit counts, and
nothing after it. A unit for a bobbin that is full or draining waits (R143). -/
def execUnitReply (id : Nat) (s : State) : Out :=
  match s.req id with
  | none => .next s
  | some q =>
    match q.op, q.stage with
    | .unit n i u, .back =>
      let ix : BitVec 4 := BitVec.ofNat 4 n
      let bob := ((s.core q.core).stream ix).bob
      let before := s
      let s := s.dropReq id
      match ((s.core q.core).stream ix).rounds.find? fun r => r.id == i with
      | none => .next s
      | some r =>
        if q.fault.isNone && !r.shape.dir && (match bob with | some b => (s.core q.core).shut b | none => false) then .next before
        else
        let s := match q.fault with
          | some f =>
            if (match r.fault with | some g => decide (g.at_ ≤ u) | none => false) then s
            else
              let s := { s with reqs := s.reqs.filter fun p => !(p.core == q.core &&
                (match p.op with | .unit m j w => m == n && j == i && decide (u < w) | _ => false)) }
              s.modCore q.core fun c => c.modRound n i fun (r : Round) =>
                { r with fault := some ⟨u, f.1, f.2.1, f.2.2⟩, landed := r.landed.filter fun w => decide (w < u),
                         kept := if r.shape.dir then r.kept else r.kept.filter fun x => decide (x.1 < u),
                         st := if r.st = RoundSt.running then .faulting else r.st }
          | none =>
            if (match r.fault with | some g => decide (g.at_ < u) | none => false) then s
            else s.modCore q.core fun c =>
              match bob with
              | some b => if r.shape.dir then c.modRound n i fun r => { r with landed := u :: r.landed, kept := r.kept.filter fun x => x.1 != u }
                else c.landUnit n b r u q.bytes
              | none => c.modRound n i fun r => { r with landed := u :: r.landed, kept := r.kept.filter fun x => x.1 != u }
        .next ((s.settleRound q.core n).modWake q.core fun c => c)
    | _, _ => .next s

/-! ### ECANCEL and SPRUN.R (R287) -/

/-- The round of a core that holds tag k, with its slot. -/
def Core.roundOf (c : Core) (k : BitVec 6) : Option (Nat × Round) :=
  (List.range 16).findSome? fun n =>
    ((c.stream (BitVec.ofNat 4 n)).rounds.find? fun r => r.tag == k).map fun r => (n, r)
/-- The ELD, EST or EWATCH of core l that holds tag k. -/
def State.holderOf (s : State) (l : Nat) (k : BitVec 6) : Option EdgeReq :=
  s.reqs.find? fun r => r.core == l && (match r.op with
    | .eld _ _ _ _ _ t => t == k && !r.landed
    | .est t => t == k
    | .ewatch _ t => t == k
    | _ => false)
/-- FILL advances over the run of landed reservations, and an END one fills the bobbin; nothing moves while it is full or draining
(R142, R289). -/
def State.advanceEld (s : State) (l : Nat) (n : BitVec 5) : Nat → State
  | 0 => s
  | k + 1 =>
    let b := (s.core l).bobbin n
    match s.reqs.find? fun r => !(s.core l).shut n && r.core == l && r.landed && (match r.op with | .eld m o _ _ _ _ => m == n && o == b.fill.toNat | _ => false) with
    | some r => match r.op with
      | .eld _ _ size _ last _ =>
        let f := b.fill.toNat + size
        ((s.dropReq r.id).modCore l fun c =>
          c.setBobSt n { b with fill := BitVec.ofNat 16 f } (if last ∨ f = b.size.toNat then .full else .filling)).advanceEld l n k
      | _ => s
    | none => s
/-- An ELD's reservation is done with: landed, or given up by ECANCEL; its tag is set (R287, R289). -/
def State.endEld (s : State) (q : EdgeReq) (n : BitVec 5) (k : BitVec 6) : State :=
  let s := (s.modReq q.id fun r => { r with landed := true }).advanceEld q.core n (s.reqs.length + 1)
  (s.modWake q.core fun c => c.finishTag k).completed q.core q.slot q.id
/-- ECANCEL (R287). -/
def execEcancel (d : BitVec 4) (k : BitVec 6) (s : State) : Out :=
  let l := s.cur
  let res := fun (s : State) (v : Word) => Host.Outcome.next (s.setG d v 2).advance
  match s.me.roundOf k with
  | some (n, r) =>
    let early := r.st == .queued || r.st == .armed
    let s := s.modMe fun c => c.modRound n r.id fun q => { q with st := .cancelling }
    let s := if early then s.endRound l n r
      else if s.inFlight l n r.id = [] then s.endRound l n { r with st := .cancelling } else s
    res s 1
  | none =>
    match s.holderOf l k with
    | none => res s 0
    | some q =>
      match q.op with
      | .ewatch _ _ =>
        let s := (s.dropReq q.id).modBrick ((s.home (q.pieces.headD ⟨0, 0, 0, []⟩).pa).getD 0) fun b =>
          { b with watches := b.watches.filter fun w => w.id != q.id }
        res ((s.modWake l fun c => c.finishTag k).completed l q.slot q.id) 2
      | .eld n _ _ _ _ _ => if q.stage = .held then res (s.endEld q n k) 3 else res s 0
      | _ => res s 0
/-- A faulted tag is busy again (R287). -/
def Core.rebusy (c : Core) (k : BitVec 6) : Core := c.setTag k { c.tag k with st := .busy, live := true, cause := 0, einfo := 0, eaddr := 0 }
/-- SPRUN.R (R287): a faulted round runs from its faulting unit; a faulted ELD, EST or EWATCH is issued again. -/
def execSprunR (k : BitVec 6) (s : State) : Out :=
  match s.me.roundOf k with
  | some (n, r) =>
    if r.st = .faulted then
      .next (s.modMe fun c => (c.modRound n r.id fun q => { q with st := .running, next := r.done, fault := none }).rebusy k).advance
    else .next s.advance
  | none =>
    match s.holderOf s.cur k with
    | some q =>
      if q.stage = .held then
        .next ((s.modReq q.id fun r => { r with stage := .toBrick, fault := none, value := 0 }).modMe fun c => c.rebusy k).advance
      else .next s.advance
    | none => .next s.advance

/-! ### Small transfers (R288–R291) -/

/-- The first and last byte of a range. -/
def byteRange (a : Dword) (n : Nat) : Int × Int := ((a.toNat : Int), (a.toNat : Int) + n - 1)
/-- The bytes reserved in a bobbin by ELDs whose data FILL does not cover yet, and whether one of them is an END (R289). -/
def State.reserved (s : State) (l : Nat) (n : BitVec 5) : Nat × Bool :=
  s.reqs.foldl (fun (k, e) r => match r.op with
    | .eld m _ size _ last _ => if r.core = l ∧ m = n then (k + size, e || last) else (k, e)
    | _ => (k, e)) (0, false)
/-- ELD and ELD.B on their ranges (R289). -/
def State.eld (s : State) (blk : Bool) (size : Nat) (early : List (Option Trap)) (rs : List (Dword × Nat)) (e : BitVec 1) (n : BitVec 5)
    (k : BitVec 6) : Out :=
  let c := s.me
  let b := c.bobbin n
  let r := s.reserved s.cur n
  s.guard
    (early ++
      [when (!b.valid) (c.bobTrap n 7),
       when (b.bkind != 0 || !(b.st == .empty || b.st == .filling) || r.2 || decide (b.size.toNat < b.fill.toNat + r.1 + size)
         || isB b.fmt != blk) (c.bobTrap n 4),
       c.plbCheck 0 (rs.map fun x => byteRange x.1 x.2), when (!c.tagFree k) (tagBusy k)]) <|
    .next ((s.sendEdge (s.ebrick s.cur) false (.eld n (b.fill.toNat + r.1) size blk (e == 1) k)
      (rs.map fun x => wordPieces x.1.toNat x.2 []).flatten).modMe fun c => c.takeTag k .eld).advance
/-- ELD (R289). -/
def execEld (sx : BitVec 2) (a : BitVec 4) (e : BitVec 1) (b : BitVec 5) (k : BitVec 6) (s : State) : Out :=
  let n := 8 * 2 ^ sx.toNat
  let p := s.p a
  s.eld false n [when (decide (p.toNat % n ≠ 0)) (misal p.toNat (3 + sx.toNat))] [(p, n)] e b k
/-- ELD.B (R289). -/
def execEldB (a : BitVec 4) (e : BitVec 1) (b : BitVec 5) (k : BitVec 6) (s : State) : Out :=
  let p := s.p a
  let q := s.p (a + 2)
  let n := 2 * mw (s.me.bobbin b).fmt
  s.eld true n [when (decide (p.toNat % 8 ≠ 0)) (misal p.toNat 3), when (decide (q.toNat % 2 ≠ 0)) (misal q.toNat 1)] [(p, n), (q, 2)] e b k
/-- EST (R290). -/
def execEst (d a : BitVec 4) (w : BitVec 1) (k : BitVec 6) (s : State) : Out :=
  let n := if w = 1 then 8 else 4
  let p := s.p a
  s.guard [when (decide (p.toNat % n ≠ 0)) (misal p.toNat (if w = 1 then 3 else 2)), s.me.plbCheck 1 [byteRange p n],
      when (!s.me.tagFree k) (tagBusy k)] <|
    .next ((s.sendEdge (s.ebrick s.cur) true (.est k) (wordPieces p.toNat n (toBytes n (s.atomArg d (w == 1)).toNat))).modMe fun c =>
      c.takeTag k .est).advance
/-- EST.B (R290): the mantissa plane and the side pair. -/
def execEstB (v a : BitVec 4) (h : BitVec 1) (f : BitVec 3) (k : BitVec 6) (s : State) : Out :=
  let p := s.p a
  let q := s.p (a + 2)
  let n := 2 * mw f
  let x := s.v v
  s.guard [when (decide (p.toNat % 8 ≠ 0)) (misal p.toNat 3), when (decide (q.toNat % 2 ≠ 0)) (misal q.toNat 1),
      s.me.plbCheck 1 [byteRange p n, byteRange q 2], when (!s.me.tagFree k) (tagBusy k)] <|
    .next ((s.sendEdge (s.ebrick s.cur) true (.est k)
      (wordPieces p.toNat n (rowBytes f (x.half h.toNat)) ++ [⟨q.toNat, 2, 0, toBytes 2 (x.sideOf h.toNat).toNat⟩])).modMe fun c =>
        c.takeTag k .est).advance
/-- EWATCH (R291). -/
def execEwatch (d a : BitVec 4) (k : BitVec 6) (s : State) : Out :=
  let p := s.p a
  s.guard [when (decide (p.toNat % 8 ≠ 0)) (misal p.toNat 3), s.me.plbCheck 0 [byteRange p 8], when (!s.me.tagFree k) (tagBusy k)] <|
    .next ((s.sendEdge (s.ebrick s.cur) false (.ewatch (s.p d) k) (wordPieces p.toNat 8 [])).modMe fun c =>
      c.takeTag k .ewatch).advance

/-- An ELD's, EST's or EWATCH's tag faults and its operation stays (R292). -/
def State.holdFault (s : State) (q : EdgeReq) (op : Nat) (k : BitVec 6) (f : BitVec 8 × BitVec 2 × Dword) : State :=
  let e := edgeTrap f 0 op q.write 0
  (((s.modReq q.id fun r => { r with stage := .held }).modWake q.core fun c => c.failTag k e true).brickRecord q.brick q.core e).faultRel
    q.core q.slot q.id e
/-- ELD_RETURN (R289): the data land at their reservation, through the deposit port; a full or draining bobbin holds them (R142). -/
def execEldReturn (id : Nat) (s : State) : Out :=
  match s.req id with
  | none => .next s
  | some q =>
    match q.op, q.stage with
    | .eld n off size blk _ k, .back =>
      if q.landed then .next s
      else match q.fault with
      | some f => .next (s.holdFault q 1 k f)
      | none =>
        if (s.core q.core).shut n then .next s
        else
        let data := q.bytes
        let s := (s.sample q.core 4 0 (s.time - q.issued)).modCore q.core fun c =>
          let b := c.bobbin n
          let c := c.store (b.base.toNat + off) (data.take size)
          let side := b.sbase.toNat + off / mw b.fmt
          let c := if blk then c.store side (data.drop size) else c
          let c := { c with depQ := c.depQ ++ [(wordsOf (b.base.toNat + off) size ++ if blk then wordsOf side 2 else []).eraseDups] }
          if b.st = .empty then c.setBobSt n b .filling else c
        .next (s.endEld q n k)
    | _, _ => .next s
/-- EST_COMPLETE (R290). -/
def execEstComplete (id : Nat) (s : State) : Out :=
  match s.req id with
  | none => .next s
  | some q =>
    match q.op, q.stage with
    | .est k, .back => match q.fault with
      | some f => .next (s.holdFault q 2 k f)
      | none => .next ((((s.sample q.core 4 0 (s.time - q.issued)).dropReq id).modWake q.core fun c => c.finishTag k).completed q.core q.slot id)
    | _, _ => .next s
/-- EWATCH_ARM (R291): at its home, when the table of 256 has room, the watch reads the word once. -/
def execEwatchArm (id : Nat) (s : State) : Out :=
  match s.req id with
  | none => .next s
  | some q =>
    match q.op, q.stage, q.pieces with
    | .ewatch _ k, .back, _ => match q.fault with
      | some f => .next (s.holdFault q 3 k f)
      | none => .next s
    | .ewatch cmp k, .toHome, p :: _ =>
      match s.home p.pa, s.devRead p.pa 8 with
      | some b, some bs =>
        if 256 ≤ (s.brick b).watches.length then .next s
        else if BitVec.ofNat 64 (ofBytes bs) ≠ cmp then
          .next (((s.dropReq id).modWake q.core fun c => c.finishTag k).completed q.core q.slot id)
        else .next (((s.modReq id fun r => { r with stage := .armed }).modBrick b fun x =>
          { x with watches := x.watches ++ [⟨id, q.core, k, p.pa, cmp⟩] }).completed q.core q.slot id)
      | _, _ => .next (s.modReq id fun r => { r with stage := .back, fault := some (cEUE, 3, BitVec.ofNat 64 p.va) })
    | _, _, _ => .next s

end Sys2Proof.Machine
end

