-- ==== Sys2Proof/Machine/Atomic.lean ====
section
/-! DEFINITION. Edge atomics and fences: major 0x36, the atomic units and the notification windows, the arrival and the
performance of edge requests at their bricks, LAUNCH's append, and host accesses (10 R261, R265, 11 R294–R308, 14 R365,
R382). -/

namespace Sys2Proof.Machine

/-! ### Instructions (R299, R302, R303) -/

/-- EATOM and EATOMSC at issue (R303): the strand then waits for the reply (R301). -/
def State.eatom (s : State) (d a b op : BitVec 4) (sys dbl sc : Bool) : Out :=
  let n := if dbl then 8 else 4
  let p := s.p a
  s.guard [when (decide (p.toNat % n ≠ 0)) (misal p.toNat (if dbl then 3 else 2)), s.me.plbCheck 2 [byteRange p n]] <|
    let s' := s.sendEdge (s.ebrick s.cur) true (.atomic op sys dbl sc (s.atomArg b dbl) (s.atomArg d dbl) d s.me.scSeq)
      (wordPieces p.toNat n [])
    .next ((s'.modMe fun c => { c with scSeq := c.scSeq + bit sc }).holdFor .atomic)
/-- EATOM (R303); sx is its scope bit. -/
def execEatom (d a b o : BitVec 4) (sx w : BitVec 1) (s : State) : Out := s.eatom d a b o (sx == 1) (w == 1) false
/-- EATOMSC (R303, R305). -/
def execEatomsc (d a b o : BitVec 4) (w : BitVec 1) (s : State) : Out := s.eatom d a b o false (w == 1) true
/-- EFENCE (R299): with no earlier incomplete request it clears at once. -/
def execEfence (s : State) : Out :=
  .next (s.modSt fun t => if t.edgeIds = [] then t else { t with fences := t.fences ++ [t.edgeIds] }).advance
/-- EFENCE_CLEAR (R299). -/
def execEfenceClear (c k : Nat) (s : State) : Out :=
  .next (s.modCore c fun x => x.modStrand (BitVec.ofNat 3 k) fun t => { t with fences := t.fences.filter fun f => !f.isEmpty })

/-! ### The atomic units (R303, R304) -/

/-- The line that a unit evicts when its 512 are taken: the one whose last atomic is oldest. -/
def Brick.victim (b : Brick) : Option Line :=
  match b.lines with
  | [] => none
  | l :: t => some (t.foldl (fun (a : Line) x => if x.last < a.last then x else a) l)
/-- Brick b's unit holds the line of an address: a full unit evicts one first, writing it back (R304). -/
def State.holdLine (s : State) (b pa : Nat) : State :=
  match (s.brick b).line pa with
  | some _ => s
  | none =>
    let s := if (s.brick b).lines.length < 512 then s
      else match (s.brick b).victim with
        | some v => (s.flushLine b v.pa).modBrick b fun k => { k with lines := k.lines.filter fun l => l.pa != v.pa }
        | none => s
    let data := Memory.flat s.edge (pa / 64 * 64) 64
    s.modBrick b fun k => { k with lines := k.lines ++ [⟨pa / 64 * 64, data, false, s.time⟩] }
/-- One atomic at the home of an address (R303): the old value, or none for EUE, which poisons the line. -/
def State.atomicAt (s : State) (pa : Nat) (op : BitVec 4) (dbl sys : Bool) (v c : Dword) : State × Option Dword :=
  let n := if dbl then 8 else 4
  match s.home pa, s.devRead pa n with
  | some b, some bs =>
    let old : Dword := BitVec.ofNat 64 (ofBytes bs)
    let s := s.holdLine b pa
    let s := s.modBrick b fun k => { k with lines := k.lines.map fun (l : Line) => if l.pa = pa / 64 * 64 then { l with last := s.time } else l }
    let s := s.devWrite pa (toBytes n (atomNew op dbl old v c).toNat)
    (if sys then s.flushLine b pa else s, some old)
  | some _, none => ({ s with poison := if s.poisoned pa then s.poison else s.poison ++ [pa / 64] }, none)
  | none, _ => (s, none)
/-- ATOMIC_LINE_WRITEBACK (R304): 65,536 cycles of the 1.2 GHz mesh clock after the line's last atomic. -/
def execAtomicLineWriteback (b line : Nat) (s : State) : Out :=
  match (s.brick b).line (64 * line) with
  | some l => if 5 * 65536 ≤ 6 * (s.time - l.last) then .next (s.flushLine b l.pa) else .next s
  | none => .next s

/-! ### LAUNCH's append (14 R365, R382) -/

/-- An address translated with write intent at a brick. -/
def State.transW (s : State) (b va : Nat) : State × Except (BitVec 8 × BitVec 2 × Dword) Nat :=
  match s.translate b va true with
  | (s, .error (c, r)) => (s, .error (c, r, BitVec.ofNat 64 va))
  | (s, .ok t) => (s, .ok (t.pa + va % 2 ^ t.bits))
/-- A descriptor's fields (Table 14.5). -/
def Mgmt.queue (m : Mgmt) (q : BitVec 6) : BitVec 128 := rd m.queues q
def qTail (q : BitVec 128) : Nat := q.toNat % 2 ^ 57
def qPrio (q : BitVec 128) : Nat := field q.toNat 64 3
def qEn (q : BitVec 128) : Bool := q.getLsbD 67
def qOpen (q : BitVec 128) : Bool := q.getLsbD 68
def qPriv (q : BitVec 128) : Bool := q.getLsbD 69
def qPreempt (q : BitVec 128) : Bool := q.getLsbD 70
/-- The next step of a LAUNCH whose record lies at physical address pa: read QUEUE and its descriptor and write the origin;
then steps 1 to 3 of R365 with system scope. -/
def State.launchStep (s : State) (q : EdgeReq) (d : BitVec 4) (rec phase old pa : Nat) : State :=
  let reply := fun (s : State) (v : Dword) => s.modReq q.id fun r => { r with stage := .back, value := v }
  let fail := fun (s : State) (f : BitVec 8 × BitVec 2 × Dword) => s.modReq q.id fun r => { r with stage := .back, fault := some f }
  let go := fun (s : State) (p o : Nat) => s.modReq q.id fun r => { r with op := .launch d rec p o }
  let me := s.core q.core
  if phase = 0 then
    match s.devRead (pa + 24) 8 with
    | none => fail s (cEUE, 3, BitVec.ofNat 64 (rec + 24))
    | some bs =>
      let x := s.mgmt.queue (BitVec.ofNat 6 (ofBytes bs))
      if !qEn x then reply s 1
      else if !qOpen x ∧ !me.priv then reply s 2
      else go (s.sysWrite (pa + 72) (toBytes 8 (me.part.getD 0 + 64 + 128 * bit me.priv))) 1 0
  else if phase = 1 then go (s.sysWrite pa (toBytes 8 0)) 2 0
  else if phase = 2 then
    match s.devRead (pa + 24) 8 with
    | none => fail s (cEUE, 3, BitVec.ofNat 64 (rec + 24))
    | some bs =>
      let tail := qTail (s.mgmt.queue (BitVec.ofNat 6 (ofBytes bs)))
      match s.transW q.brick tail with
      | (s, .error f) => fail s f
      | (s, .ok t) => match s.atomicAt t 6 true true (BitVec.ofNat 64 rec) 0 with
        | (s, some o) => go s 3 o.toNat
        | (s, none) => fail s (cEUE, 3, BitVec.ofNat 64 tail)
  else
    match s.transW q.brick (old % 2 ^ 57) with
    | (s, .error f) => fail s f
    | (s, .ok o) => reply (s.sysWrite o (toBytes 8 rec)) 0

/-! ### Requests at their bricks (10 R261, 11 R295, R305) -/

/-- Request `id` of brick b is announced in the present window, or waits at the brick: during a takeover, behind the window's 64
announcements of the brick, and behind one that waits already (R305, R308). -/
def State.announce (s : State) (b id : Nat) : Stage :=
  let w := s.time / 64
  if s.mgmt.takeover ∨ 64 ≤ (s.reqs.filter fun r => r.brick == b && r.stage == .announced w).length ∨
      (s.reqs.takeWhile fun r => r.id != id).any fun r => r.brick == b && r.stage == .unannounced then .unannounced
  else .announced w
/-- A unit comes after a unit of its round that has faulted, or before it in the queue one still stands: what the spindle's
order asks (R276, R278). -/
def State.unitOrder (s : State) (q : EdgeReq) (n i u : Nat) : Bool × Bool :=
  let mine := (s.reqs.takeWhile fun r => r.id != q.id).filter fun r => r.core == q.core &&
    (match r.op with | .unit m j _ => m == n && j == i | _ => false)
  let r := ((s.core q.core).stream (BitVec.ofNat 4 n)).rounds.find? fun r => r.id == i
  let dead := (mine.any fun r => r.fault.isSome) ||
    (match r with | none => true | some r => match r.fault with | some f => decide (f.at_ < u) | none => false)
  (dead, mine.any fun r => r.stage == .toBrick)
/-- Translates a request and sends it on (R261, R303, R305). A write to an address that no port maps faults EUE (R421). -/
def State.forward (s : State) (q : EdgeReq) : State :=
  let x := s.translatePieces q.brick q.write q.pieces
  let s := x.s
  match x.fault with
  | some f => s.modReq q.id fun r => { r with stage := .back, fault := some f }
  | none =>
    match if q.write then x.done.find? fun p => (s.home p.pa).isNone else none with
    | some p => s.modReq q.id fun r => { r with stage := .back, fault := some (cEUE, 3, BitVec.ofNat 64 p.va) }
    | none =>
      let st := match q.op with
        | .atomic _ _ _ true _ _ _ _ => s.announce q.brick q.id
        | _ => .toHome
      s.modReq q.id fun r => { r with stage := st, pieces := x.done }
/-- EDGE_REQUEST_ARRIVAL (R261): units of a round are translated in order; an EATOMSC that waits at its brick is announced once it
can be (R305, R308). -/
def execEdgeRequestArrival (id : Nat) (s : State) : Out :=
  match s.req id with
  | none => .next s
  | some q =>
    if q.stage = .unannounced then .next (s.modReq id fun r => { r with stage := s.announce q.brick id })
    else if q.stage ≠ .toBrick then .next s
    else match q.op with
      | .unit n i u =>
        let o := s.unitOrder q n i u
        .next (if o.1 then s.dropReq id else if o.2 then s else s.forward q)
      | _ => .next (s.forward q)

/-- The pieces an access performs now: all of them, or for EST.B its planes one after the other (R290, R295). -/
def EdgeReq.turn (q : EdgeReq) : List Piece × Bool :=
  match q.op with
  | .est _ => if q.pieces.length ≤ 1 then (q.pieces, true)
    else if q.value = 0 then (q.pieces.dropLast, false) else (q.pieces.drop (q.pieces.length - 1), true)
  | _ => (q.pieces, true)
/-- A read or write is performed at its home (R295, R278). -/
def State.performAccess (s : State) (q : EdgeReq) : State :=
  if q.write then
    let t := q.turn
    let s := t.1.foldl (fun s p => s.devWrite p.pa p.data) s
    s.modReq q.id fun r => if t.2 then { r with stage := .back } else { r with value := 1 }
  else
    let got := q.pieces.map fun p => (p, s.devRead p.pa p.n)
    match got.find? fun x => x.2.isNone with
    | some x => s.modReq q.id fun r => { r with stage := .back, fault := some (cEUE, 3, BitVec.ofNat 64 x.1.va) }
    | none => s.modReq q.id fun r => { r with stage := .back, pieces := got.map fun x => { x.1 with data := x.2.getD [] } }
/-- An edge atomic is performed at its home (R303). -/
def State.performAtomic (s : State) (q : EdgeReq) : State :=
  match q.op, q.pieces with
  | .atomic op sys dbl _ v c _ _, p :: _ =>
    match s.atomicAt p.pa op dbl sys v c with
    | (s, some old) => s.modReq q.id fun r => { r with stage := .back, value := old }
    | (s, none) => s.modReq q.id fun r => { r with stage := .back, fault := some (cEUE, 3, BitVec.ofNat 64 p.va) }
  | _, _ => s
/-- HOME_ACCESS (R295). -/
def execHomeAccess (id : Nat) (s : State) : Out :=
  match s.req id with
  | none => .next s
  | some q =>
    if q.stage ≠ .toHome then .next s
    else match q.op with
      | .atomic _ _ _ _ _ _ _ _ => .next (s.performAtomic q)
      | .launch d rec phase old => .next (s.launchStep q d rec phase old (q.pieces.headD ⟨0, 0, 0, []⟩).pa)
      | .ewatch _ _ => .next s
      | _ => .next (s.performAccess q)

/-- The key of an announced EATOMSC within its window: the issuing core, then its sequence number (R305). -/
def EdgeReq.key (q : EdgeReq) : Nat × Nat := (q.core, match q.op with | .atomic _ _ _ _ _ _ _ n => n | _ => 0)
/-- Inserts a request by its key. -/
def byKey (q : EdgeReq) : List EdgeReq → List EdgeReq
  | [] => [q]
  | r :: t => if r.key.1 < q.key.1 ∨ (r.key.1 = q.key.1 ∧ r.key.2 ≤ q.key.2) then r :: byKey q t else q :: r :: t
/-- WINDOW_CLOSE (R306): from tick 64(w + 9), brick b performs window w's EATOMSCs in key order, windows in order. -/
def execWindowClose (b win : Nat) (s : State) : Out :=
  let mine := s.reqs.filter fun r => (match r.stage with | .announced _ => true | _ => false) &&
    s.home (r.pieces.headD ⟨0, 0, 0, []⟩).pa == some b
  if s.time < 64 * (win + 9) ∨ mine.any fun r => (match r.stage with | .announced w => decide (w < win) | _ => false) then .next s
  else .next (((mine.filter fun r => r.stage == .announced win).foldl (fun l q => byKey q l) []).foldl State.performAtomic s)

/-- ATOMIC_REPLY (R301, R303): the destination is written, or the strand stops at its instruction. -/
def execAtomicReply (id : Nat) (s : State) : Out :=
  match s.req id with
  | none => .next s
  | some q =>
    let finish := fun (d : BitVec 4) (dbl timed : Bool) =>
      let s := (s.dropReq id).completed q.core q.slot id
      let s := if timed then s.sample q.core 4 0 (s.time - q.issued) else s
      match q.fault with
      | some f => Host.Outcome.next (s.modCore q.core fun c => c.modStrand q.slot fun t => t.stopThere (edgeTrap f 0 0 true 0))
      | none =>
        .next (s.modCore q.core fun c => c.modStrand q.slot fun t =>
          let t := if dbl then ((t.putP d q.value).mark (.g d) (some (c.nextCycle + 1))).mark (.g (d + 1)) (some (c.nextCycle + 1))
            else (t.putG d (q.value.truncate 32)).mark (.g d) (some (c.nextCycle + 1))
          t.unhold c.nextCycle)
    match q.op, q.stage with
    | .atomic _ _ dbl _ _ _ d _, .back => finish d dbl true
    | .launch d _ _ _, .back => finish d false false
    | _, _ => .next s

/-! ### Hosts (R265, R304) -/

/-- A trained host port stands behind a brick number. -/
def State.hostPort (s : State) (p : Nat) : Bool := (s.brick p).cxl.toList.any fun x => x.host && x.link == 2
/-- HOST_READ (R265): served by the device, without effect on the module. -/
def execHostRead (_port _pa _len : Nat) (s : State) : Out := .next s
/-- A host write within one line: a held line is written back and dropped first (R304). -/
def State.hostLine (s : State) (pa : Nat) (bs : List Byte) : State :=
  match s.home pa with
  | none => s
  | some b => ((s.flushLine b pa).modBrick b fun k => { k with lines := k.lines.filter fun l => l.pa != pa / 64 * 64 }).devWrite pa bs
/-- HOST_WRITE (R265). -/
def execHostWrite (port pa : Nat) (bytes : List (BitVec 8)) (s : State) : Out :=
  if !s.hostPort port then .next s
  else
    let lines := ((List.range bytes.length).map fun i => (pa + i) / 64).eraseDups
    .next (lines.foldl (fun s n =>
      let lo := if 64 * n < pa then 0 else 64 * n - pa
      s.hostLine (pa + lo) ((bytes.drop lo).take (64 * (n + 1) - (pa + lo)))) s)

end Sys2Proof.Machine
end

