-- ==== Sys2Proof/Machine/Flags.lean ====
section
/-! DEFINITION. The arithmetic status register: raising its sticky bits when a latency elapses, LAST and FADDR, and
clearing them (05 R115). -/

namespace Sys2Proof.Machine

/-- An instruction with result latency `lat` will raise `bits` (Table 5.6); `fp` for scalar FP and FCVT, which replace LAST.
ASTAT counts as a register that it writes. -/
def State.flagged (s : State) (lat : Nat) (bits : BitVec 7) (fp : Bool) : State :=
  s.modSt fun t =>
    let t := t.mark .astat (some (s.cc + lat))
    { t with flags := t.flags ++ [⟨s.cc + lat, bits, fp, t.pc⟩] }

/-- ASTAT after one instruction's bits: FADDR names the instruction that set a bit while bits 6:0 were all 0. -/
def raise (w : Word) (f : FlagUp) : Word :=
  let old := w.toNat % 128
  let faddr := if old = 0 then (if f.bits = 0 then 0 else f.addr.toNat) else w.toNat / 65536
  let last := if f.fp then f.bits.toNat % 32 else field w.toNat 8 5
  BitVec.ofNat 32 ((BitVec.ofNat 7 old ||| f.bits).toNat + last * 256 + faddr * 65536)

/-- Clearing sticky bits by a mask; FADDR reads 0 once bits 6:0 are all 0. -/
def astatClear (w mask : Word) : Word :=
  let low := w &&& 0x7F &&& ~~~mask
  (if low = 0 then 0 else w &&& 0xFFFF0000) ||| (w &&& 0x1F00) ||| low

/-- The scoreboard entries and flag raises due by core cycle cc take effect (R93, R115). Of two whose latencies end in the same cycle
LAST names the one that issued later (DESIGN CHOICE, log entry 48). -/
def Strand.elapse (t : Strand) (cc : Nat) : Strand :=
  { t with
    astat := (t.flags.filter fun f => decide (f.due ≤ cc)).foldl raise t.astat,
    flags := t.flags.filter fun f => !decide (f.due ≤ cc),
    pend := t.pend.filter fun p => match p.due with | some n => !decide (n ≤ cc) | none => true }

/-- Flag sets of the encoders as ASTAT bits. -/
def FFlags.astat (f : FFlags) : BitVec 7 := f.zeroExtend 7
/-- IV, DZ, IDZ and IOV alone. -/
def fIV : FFlags := 0b00001
def fDZ : FFlags := 0b00010
def flIDZ : BitVec 7 := 0b0100000
def flIOV : BitVec 7 := 0b1000000

end Sys2Proof.Machine
end

