-- ==== Sys2Proof/Machine/Hub.lean ====
section
/-! DEFINITION. Requests to the hub: major 0x37, monitors, join elements, hub CSRs, and the offering and writing of fault
records (11 R309–R314, 13 R346, R352, 14 R361–R363, R376). -/

namespace Sys2Proof.Machine

/-! ### Requests and replies (R310) -/

/-- A request leaves for the hub of core l. -/
def State.toHub (s : State) (l : Nat) (k : BitVec 3) (op : HubOp) : State := { s with hubReqs := s.hubReqs ++ [⟨l, k, op⟩] }
/-- A reply leaves for a core. -/
def State.fromHub (s : State) (l : Nat) (k : BitVec 3) (r : HubRep) : State := { s with hubReps := s.hubReps ++ [(l, k, r)] }
/-- The first item of a list that satisfies a test, and the rest. -/
def takeFirst {α : Type} (p : α → Bool) : List α → Option (α × List α)
  | [] => none
  | a :: t => if p a then some (a, t) else (takeFirst p t).map fun (b, r) => (b, a :: r)
/-- The oldest request at hub h: those in flight when a freeze comes are counted too (R313, 14 R372). -/
def State.hubHead (s : State) (h : Nat) : Option (HubReq × State) :=
  (takeFirst (fun r : HubReq => hubOf r.core == h) s.hubReqs).map fun (q, r) => (q, { s with hubReqs := r })

/-! ### CATOM (R309, R310) -/

/-- CATOM (R310): the operand group follows the width and the operation (R309). -/
def execCatom (d a o : BitVec 4) (w : BitVec 1) (s : State) : Out :=
  let dbl := w == 1
  let p := s.addr a
  let x := s.atomArg d dbl
  let y := s.atomArg (d + if dbl then 2 else 1) dbl
  let op := if o = 7 then HubOp.catom o dbl (BitVec.ofNat 16 p) y x d else .catom o dbl (BitVec.ofNat 16 p) x 0 d
  s.guard [when (decide (p % (if dbl then 8 else 4) ≠ 0)) (misal p (if dbl then 3 else 2))] <|
    .next ((s.toHub s.cur s.slot op).holdFor .atomic)
/-- CATOM_PERFORM (R310): an uncorrectable word writes nothing and faults MEMUE. -/
def execCatomPerform (h : Nat) (s : State) : Out :=
  match s.hubHead h with
  | some (q, s') => match q.op with
    | .catom o dbl addr v c d =>
      let n := if dbl then 8 else 4
      let hub := s'.hub h
      if hub.ue.any fun x => x / 8 == addr.toNat / 8 then
        .next (s'.fromHub q.core q.slot (.fault cMEMUE (BitVec.ofNat 32 (addr.toNat * 65536 + 1))))
      else
        let old : Dword := BitVec.ofNat 64 (ofBytes (Memory.bytes hub.sram addr.toNat n))
        .next ((s'.setHub h { hub with sram := Memory.write hub.sram addr.toNat (toBytes n (atomNew o dbl old v c).toNat) }).fromHub
          q.core q.slot (.value d dbl old true))
    | _ => .next s
  | none => .next s

/-! ### Joins (R311–R314) -/

/-- The fault of the oldest faulted request among these (R313). -/
def State.heldFault (s : State) (l : Nat) (ids : List Nat) : Option Trap :=
  let c := s.core l
  ids.findSome? fun i =>
    match s.req i with
    | some q => if q.stage = .held then (match q.op with
        | .eld _ _ _ _ _ k => some (c.tagTrap k)
        | .est k => some (c.tagTrap k)
        | .ewatch _ k => some (c.tagTrap k)
        | _ => none) else none
    | none => (c.streams.toList.findSome? fun t => t.rounds.find? fun r => r.id == i && r.st == .faulted).map fun r => c.tagTrap r.tag
/-- CJOIN (R313); q is A, r is R. -/
def execCjoin (d : BitVec 4) (q r : BitVec 1) (j : BitVec 5) (s : State) : Out :=
  let acq := q == 1
  let ids := s.st.edgeIds
  let held := r == 1 && !ids.isEmpty
  let wait := fun (s : State) => if acq then s.suspend (.cjoinCount j d held) else s.advance
  s.guard [if held && acq then s.heldFault s.cur ids else none] <|
    .next (wait ((if held then s.modSt fun t => { t with rel := t.rel ++ [⟨j, d, acq, ids⟩] }
      else s.toHub s.cur s.slot (.join j d acq)).awaitG d))
/-- CJOIN.CFG (R314): the strand waits for the hub's acknowledgement. -/
def execCjoinCfg (a : BitVec 4) (j : BitVec 5) (s : State) : Out :=
  .next ((s.toHub s.cur s.slot (.cfg j (s.g a))).holdFor .hubAck)
/-- CJQ (R314). -/
def execCjq (d : BitVec 4) (j : BitVec 5) (s : State) : Out := .next ((s.toHub s.cur s.slot (.query j d)).awaitG d).advance
/-- CJOIN_REL_SEND (R313): every held arrival whose earlier requests are complete is sent, in order. -/
def execCjoinRelSend (c k : Nat) (s : State) : Out :=
  let kk : BitVec 3 := BitVec.ofNat 3 k
  let ready := (((s.core c).strand kk).rel.filter fun r => r.ids.isEmpty)
  .next (ready.foldl (fun s r => (s.toHub c kk (.join r.j r.d r.acq)).modCore c fun x => x.modStrand kk fun t =>
      if r.acq then { t with wait := .cjoinCount r.j r.d false } else t)
    (s.modCore c fun x => x.modStrand kk fun t => { t with rel := t.rel.filter fun r => !r.ids.isEmpty }))
/-- The strand waits for join j (R312). -/
def Strand.waitsJoin (t : Strand) (j : BitVec 5) : Bool :=
  match t.wait with | .cjoinFire i _ => i == j | .cjoinCount i _ rel => i == j && !rel | _ => false
/-- JOIN_ARRIVAL (R312): the arc is counted, and the join fires when COUNT reaches N. -/
def execJoinArrival (h : Nat) (s : State) : Out :=
  match s.hubHead h with
  | some (q, s') => match q.op with
    | .join j d acq =>
      let x := rd (s'.hub h).joins j
      let gen := x.gen + 1
      let s' := s'.fromHub q.core q.slot (.joined j d gen acq)
      if x.n.toNat ≤ x.count.toNat + 1 then
        let s' := s'.modHub h fun u => { u with joins := wr u.joins j { x with count := 0, gen := gen, wait := false } }
        .next ((hubCores h).foldl (fun s l =>
          if slots.any fun k => ((s.core l).strand k).waitsJoin j then s.fromHub l 0 (.fire j gen) else s) s')
      else
        .next (s'.modHub h fun u => { u with joins := wr u.joins j { x with count := x.count + 1, wait := x.wait || acq } })
    | _ => .next s
  | none => .next s
/-- JOIN_FIRE (R312): the strands of a core that wait for this generation are released; the fire comes between core cycles, and
they are ready in the first that begins after it. -/
def execJoinFire (c j : Nat) (s : State) : Out :=
  match takeFirst (fun r : Nat × BitVec 3 × HubRep => r.1 == c) s.hubReps with
  | some ((_, _, .fire i gen), rest) =>
    if i.toNat ≠ j then .next s
    else
      .next (slots.foldl (fun s k =>
        let t := (s.core c).strand k
        if t.run = .waiting ∧ t.wait = .cjoinFire i gen ∧ !t.frozen then
          (s.sample c 2 0 (s.time - t.waitFrom)).modCore c fun x => x.setStrand k (t.awake x.nextCycle)
        else s) { s with hubReps := rest })
  | _ => .next s

/-! ### Other requests (R314, R352, R376) -/

/-- CJQ's word (R314). -/
def Join.word (x : Join) : Word :=
  BitVec.ofNat 32 ((x.n.toNat - 1) % 1024 + x.count.toNat * 2 ^ 10 + x.gen.toNat % 1024 * 2 ^ 20 + bit x.wait * 2 ^ 30)
/-- A monitor configuration that MONX refuses (Table 13.8, R352). -/
def badMonitor (w : Word) : Bool :=
  let q := field w.toNat 0 3
  decide (5 ≤ q) || decide (field w.toNat 17 15 ≠ 0) || (w.getLsbD 10 && decide (field w.toNat 3 7 ≠ 0))
    || (decide (q ≠ 1) && decide (field w.toNat 11 6 ≠ 0))
/-- MONSET (R352). -/
def execMonset (a : BitVec 4) (m : BitVec 2) (s : State) : Out :=
  s.guard [when (badMonitor (s.g a)) ⟨cMONX, s.g a, 0⟩] (.next (s.toHub s.cur s.slot (.monset m (s.g a))).advance)
/-- MONRD (R352). -/
def execMonrd (d : BitVec 4) (sx : BitVec 5) (m : BitVec 2) (s : State) : Out :=
  .next ((s.toHub s.cur s.slot (.monrd m sx d)).awaitG d).advance
/-- A monitor's field (R352). -/
def Monitor.read (m : Monitor) (sel : BitVec 5) : Word :=
  if sel = 0 then m.count else if sel = 1 then m.min else if sel = 2 then m.max else if sel = 3 then m.cfg
  else rd m.bins ((sel - 4).truncate 4 : BitVec 4)
/-- HUBFSTAT (Table 14.4). -/
def Hub.fstat (h : Hub) : Word := BitVec.ofNat 32 (h.refused.toNat + bit h.ovf * 2 ^ 16 + h.buf.length * 2 ^ 17)
def Hub.csr (h : Hub) (n : BitVec 12) : Word :=
  if n = 0x200 then h.drth else if n = 0x201 then h.stretch else if n = 0x202 then h.halvewin else h.fstat
/-- A hub CSR written with a value (CSRW 1, CSRS 2, CSRC 3): read-write fields, and OVF which a 1 clears (R383). -/
def Hub.setCsr (h : Hub) (op : BitVec 2) (n : BitVec 12) (v : Word) : Hub :=
  let new := fun old : Word => if op = 1 then v else if op = 2 then old ||| v else old &&& ~~~v
  if n = 0x200 then { h with drth := new h.drth &&& 0xFF }
  else if n = 0x201 then { h with stretch := new h.stretch &&& 0xF }
  else if n = 0x202 then { h with halvewin := new h.halvewin &&& 0x3FF }
  else if op ≠ 2 ∧ v.getLsbD 16 then { h with ovf := false, refused := 0 } else h
/-- HUB_REQUEST_ARRIVAL (R310): CJOIN.CFG, CJQ, MONSET, MONRD and hub CSR accesses, in arrival order. -/
def execHubRequestArrival (h : Nat) (s : State) : Out :=
  match s.hubHead h with
  | some (q, s') =>
    let hub := s'.hub h
    match q.op with
    | .cfg j n =>
      let x := rd hub.joins j
      let sub := if n.toNat = 0 ∨ 1024 < n.toNat then 1 else if x.count ≠ 0 ∨ x.wait then 2 else 0
      .next (if sub ≠ 0 then s'.fromHub q.core q.slot (.fault cJOINX (BitVec.ofNat 32 (sub + 16 * j.toNat)))
        else (s'.setHub h { hub with joins := wr hub.joins j { x with n := n.truncate 11 } }).fromHub q.core q.slot .ack)
    | .query j d => .next (s'.fromHub q.core q.slot (.value d false ((rd hub.joins j).word.zeroExtend 64) false))
    | .monset m v => .next (s'.setHub h { hub with monitors := wr hub.monitors m { Monitor.reset with cfg := v } })
    | .monrd m sel d => .next (s'.fromHub q.core q.slot (.value d false (((rd hub.monitors m).read sel).zeroExtend 64) false))
    | .csr op n d v =>
      let hub := if op = 0 then hub else hub.setCsr op n v
      .next ((s'.setHub h hub).fromHub q.core q.slot (.value d false ((hub.csr n).zeroExtend 64) (op != 0)))
    | _ => .next s
  | none => .next s

/-! ### Fault records (14 R361–R363) -/

/-- A core's records that are due are offered to its hub: those of its stopped strands, and the oldest asynchronous report
(R361). -/
def State.offerAll (s : State) (l : Nat) : State :=
  let c := s.core l
  if c.quiescent then s else
  let s := slots.foldl (fun s k =>
    let t := c.strand k
    if t.offer ∧ t.offered = 0 ∧ t.notBefore ≤ c.cc then
      let r := t.fault.getD (mkRec (s.coreSource l) t.frame false k.toNat s.time)
      (({ s with nextId := s.nextId + 1 } : State).toHub l k (.offer r true s.nextId)).modCore l fun x =>
        x.modStrand k fun t => { t with offered := s.nextId, fault := some r }
    else s) s
  match c.reports with
  | r :: _ =>
    if c.offers == 0 && (match c.reofferAt with | some n => decide (n ≤ c.cc) | none => true) then
      (({ s with nextId := s.nextId + 1 } : State).toHub l 0 (.offer r false s.nextId)).modCore l fun x =>
        { x with offers := s.nextId, reofferAt := none }
    else s
  | [] => s
/-- FAULT_REOFFER (R361): refused offers whose 256 core cycles have passed are made again. -/
def execFaultReoffer (c : Nat) (s : State) : Out := .next (s.offerAll c)
/-- FAULT_OFFER (R362): the hub takes the record into its 16-entry buffer, or refuses it. -/
def execFaultOffer (h : Nat) (s : State) : Out :=
  match s.hubHead h with
  | some (q, s') => match q.op with
    | .offer r stopped no =>
      let hub := s'.hub h
      if hub.buf.length < 16 then
        let seq := (s'.core q.core).recSeq
        .next (((s'.setHub h { hub with buf := hub.buf ++ [r.withSeq seq] }).modCore q.core fun c => { c with recSeq := seq + 1 }).fromHub
          q.core q.slot (.offer true stopped no))
      else
        let s' := s'.setHub h { hub with refused := if hub.refused = 0xFFFF then 0xFFFF else hub.refused + 1, ovf := true }
        let s' := if hub.ovf then s' else s'.alert alertOvf
        .next (s'.fromHub q.core q.slot (.offer false stopped no))
    | _ => .next s
  | none => .next s

/-- An answer has come to core l: a request that was sent once more has had its one retry succeed, which the leader hears of
(R404, kind 4). -/
def State.replied (s : State) (l : Nat) (r : HubRep) : State :=
  let answer : Bool := match r with | .fire _ _ => false | .freeze => false | _ => true
  let m := s.mgmt
  if answer ∧ m.resent.contains l then
    { s with mgmt := { m with resent := m.resent.erase l, recovered := m.recovered ++ [(siteIx (m.site l), 4)] } }
  else s
/-- HUB_REPLY_ARRIVAL (R310, R372): results, acknowledgements, faults, generations, answers to offers, and the freeze that the hub
sends its cores and routers over the control network. The answer to an offer whose strand has been resumed or released since
concerns no one: the record goes no further, or stands in the hub's buffer (DESIGN CHOICE, log entry 48). -/
def execHubReplyArrival (c : Nat) (s : State) : Out :=
  match takeFirst (fun r : Nat × BitVec 3 × HubRep => r.1 == c) s.hubReps with
  | none => .next s
  | some ((_, k, r), rest) =>
    let s' := ({ s with hubReps := rest } : State).replied c r
    let upd := fun (f : Core → Strand → Strand) => Host.Outcome.next (s'.modCore c fun x => x.modStrand k (f x))
    match r with
    | .value d dbl v true => upd fun x t =>
        let t := if dbl then ((t.putP d v).mark (.g d) (some (x.nextCycle + 1))).mark (.g (d + 1)) (some (x.nextCycle + 1))
          else (t.putG d (v.truncate 32)).mark (.g d) (some (x.nextCycle + 1))
        t.unhold x.nextCycle
    | .value d _ v false => upd fun x t => t.answer d (v.truncate 32) (x.nextCycle + 1)
    | .ack => upd fun x t => t.unhold x.nextCycle
    | .fault cause einfo => upd fun _ t => t.stopThere ⟨cause, einfo, 0⟩
    | .joined j d gen acq => upd fun x t =>
        let t := t.answer d (gen.zeroExtend 32) (x.nextCycle + 1)
        if acq ∧ t.run = .waiting ∧ t.wait = .cjoinCount j d false then { t with wait := .cjoinFire j gen } else t
    | .fire _ _ => .next s
    | .freeze => .next (s'.modCore c fun x => { x with frozen := true })
    | .offer ok true no => upd fun x t =>
        if t.offered ≠ no then t
        else if ok then { t with offer := false, offered := 0, fault := none } else { t with offered := 0, notBefore := x.cc + 256 }
    | .offer ok false no => .next (s'.modCore c fun x =>
        if x.offers ≠ no then x
        else if ok then { x with reports := x.reports.drop 1, offers := 0 } else { x with offers := 0, reofferAt := some (x.cc + 256) })

/-- The queue of a record: its partition's, or the leader's management queue (R361). -/
def Mgmt.queueOf (m : Mgmt) (p : Option Nat) : QRegs :=
  match p with | some n => (rd m.faultQs (BitVec.ofNat 6 n)).q | none => m.mgq
def Mgmt.setQueue (m : Mgmt) (p : Option Nat) (q : QRegs) : Mgmt :=
  match p with
  | some n => { m with faultQs := wr m.faultQs (BitVec.ofNat 6 n) { rd m.faultQs (BitVec.ofNat 6 n) with q := q } }
  | none => { m with mgq := q }
/-- A record is written to its queue; one that lands in an empty partition queue raises the queue's vector (R363). -/
def State.postRecord (s : State) (r : FaultRec) : State :=
  let q := s.mgmt.queueOf r.part
  let s := s.sysWriteWords (q.slot 32) r.bytes
  let m := s.mgmt.setQueue r.part q.push
  let raised := match r.part with
    | some n =>
      let ctl := (rd m.faultQs (BitVec.ofNat 6 n)).ctl.toNat
      if q.used = 0 then ((List.range 8).filter fun b => s.hostPort b && ctl.testBit (8 + b)).map fun b => (b, ctl % 64) else []
    | none => []
  { s with mgmt := { m with irqs := m.irqs ++ raised } }
/-- A brick's or the root controller's next record that can go: records of a full queue hold those behind them for the same
queue (R361). -/
def nextRecord (m : Mgmt) : List (Option Nat) → List FaultRec → Option FaultRec
  | _, [] => none
  | held, r :: t =>
    if held.contains r.part then nextRecord m held t
    else if (m.queueOf r.part).full then nextRecord m (r.part :: held) t
    else some r
/-- Removes the first record equal to this one. -/
def dropRecord (r : FaultRec) : List FaultRec → List FaultRec
  | [] => []
  | x :: t => if x = r then t else x :: dropRecord r t
/-- FAULT_RECORD_WRITE (R362): source 0 to 7,679 is a hub, 8,192 + b brick b with its sequencers, 8,224 the root
controller. -/
def execFaultRecordWrite (src : Nat) (s : State) : Out :=
  if src < 8192 then
    match (s.hub src).buf with
    | r :: rest => if (s.mgmt.queueOf r.part).full then .next s else .next ((s.postRecord r).modHub src fun h => { h with buf := rest })
    | [] => .next s
  else if src < 8224 then
    let b := src - 8192
    match nextRecord s.mgmt [] (s.brick b).held with
    | some r => .next ((s.postRecord r).modBrick b fun k => { k with held := dropRecord r k.held })
    | none => .next s
  else match nextRecord s.mgmt [] s.mgmt.held with
    | some r => let s := s.postRecord r; .next { s with mgmt := { s.mgmt with held := dropRecord r s.mgmt.held } }
    | none => .next s
/-- FQHEAD of a partition written (R363). -/
def Mgmt.fqHead (m : Mgmt) (part v : Nat) : Mgmt :=
  m.setQueue (some part) { m.queueOf (some part) with head := BitVec.ofNat 64 (v % 2 ^ 32) }
/-- FQHEAD_WRITE (R362). -/
def execFqheadWrite (part v : Nat) (s : State) : Out := .next (if 64 ≤ part then s else { s with mgmt := s.mgmt.fqHead part v })

end Sys2Proof.Machine
end

