-- ==== Sys2Proof/Machine/Collective.lean ====
section
/-! DEFINITION. Collectives and Nirber links: major 0x38, the sequencers and the ports (12 R317–R333). -/

namespace Sys2Proof.Machine

/-! ### Nirber ports (R330–R333) -/

/-- Port p of brick b. -/
def State.port (s : State) (b p : Nat) : Nirber := (s.brick b).ports.toList.getD p Nirber.reset
def State.modPort (s : State) (b p : Nat) (f : Nirber → Nirber) : State :=
  s.modBrick b fun k => { k with ports := Vector.ofFn fun i : Fin 6 => if i.val = p then f (k.ports.toList.getD i.val Nirber.reset) else k.ports.toList.getD i.val Nirber.reset }
/-- The ports of a set that have trained and are not down, in ascending number (R330): a retraining one keeps its flits. -/
def State.upPorts (s : State) (b : Nat) (set : BitVec 6) : List Nat :=
  (List.range 6).filter fun p => set.getLsbD p && decide (2 ≤ (s.port b p).st.toNat)
/-- Every port of a set is down (Table 12.4). -/
def State.allDown (s : State) (b : Nat) (set : BitVec 6) : Bool := (List.range 6).all fun p => !set.getLsbD p || (s.port b p).st == 0
/-- The group, the collective's number, the failure and the slot that a match flit carries (R317). -/
def NFlit.group (f : NFlit) : Nat := Sys2Proof.Machine.ofBytes (f.payload.take 1)
def NFlit.number (f : NFlit) : Nat := Sys2Proof.Machine.ofBytes ((f.payload.drop 6).take 4)
def NFlit.failure (f : NFlit) : Nat := Sys2Proof.Machine.ofBytes ((f.payload.drop 25).take 1)
def NFlit.slot (f : NFlit) : Nat := Sys2Proof.Machine.ofBytes ((f.payload.drop 26).take 1)
/-- A data flit's number in its chunk. No chunk's flits fill the payload's last two bytes, and the model puts the number there, by
which stripes are put together in any order (R331; DESIGN CHOICE, log entry 48). -/
def NFlit.index (f : NFlit) : Nat := Sys2Proof.Machine.ofBytes ((f.payload.drop 238).take 2)
/-- One step of CRC-64 with the ECMA-182 polynomial, most significant bit first. -/
def crcByte (c : Dword) (x : Byte) : Dword :=
  (List.range 8).foldl (fun c _ => if c.getLsbD 63 then (c <<< 1) ^^^ 0x42F0E1EBA9EA3693#64 else c <<< 1)
    (c ^^^ (x.zeroExtend 64 <<< 56))
def crc64 (bs : List Byte) : Dword := bs.foldl crcByte 0
/-- A flit's 248 covered bytes (Table 12.5). -/
def NFlit.bytes (f : NFlit) : List Byte :=
  toBytes 2 (f.type.toNat + 16 * f.seq.toNat) ++ toBytes 2 f.ack.toNat ++ toBytes 4 f.stream.toNat ++ (f.payload ++ List.replicate 240 0).take 240
/-- The flit in 256 received bytes. -/
def NFlit.ofBytes (bs : List Byte) : NFlit :=
  let n := Sys2Proof.Machine.ofBytes (bs.take 8)
  ⟨BitVec.ofNat 4 n, BitVec.ofNat 12 (n / 16), BitVec.ofNat 12 (n / 65536), BitVec.ofNat 32 (n / 2 ^ 32), (bs.drop 8).take 240⟩
/-- The highest SEQ received in order. -/
def Nirber.ackSeq (p : Nirber) : BitVec 12 := p.recvSeq - 1
/-- Puts a control flit on the wire. -/
def Nirber.control (p : Nirber) (type : BitVec 4) : Nirber := { p with wire := p.wire ++ [⟨type, 0, p.ackSeq, 0, []⟩] }
/-- A data flit is sent and kept for replay (R332). -/
def Nirber.send (p : Nirber) (now : Nat) (stream : Word) (payload : List Byte) : Nirber :=
  let f : NFlit := ⟨1, p.sendSeq, p.ackSeq, stream, payload⟩
  { p with wire := p.wire ++ [f], sendSeq := p.sendSeq + 1, replayBuf := p.replayBuf ++ [(f, now)] }
/-- The data flits that an ACKSEQ covers leave the replay buffer. -/
def Nirber.acked (p : Nirber) (a : BitVec 12) : Nirber :=
  let keep := p.replayBuf.filter fun f => decide (2048 ≤ (a - f.1.seq).toNat)
  if keep.length = p.replayBuf.length then p else { p with replayBuf := keep, replays := 0 }
/-- The flits kept are sent again (R332). -/
def Nirber.replayAll (p : Nirber) (now : Nat) : Nirber :=
  if p.replayBuf = [] then p
  else { p with wire := p.wire ++ p.replayBuf.map (·.1), replayBuf := p.replayBuf.map fun f => (f.1, now), replays := p.replays + 1,
                replay := satInc p.replay }
/-- What the forward error correction of a received flit has seen, which the model takes behind the flit's 256 bytes, a byte each:
the lanes with corrected codewords, the lanes with uncorrectable ones, and the number of corrected codewords (R333; DESIGN CHOICE,
log entry 48). -/
def Nirber.fec (p : Nirber) (bs : List Byte) : Nirber :=
  { p with fecc := p.fecc ||| bs.getD 0 0, fecu := p.fecu ||| bs.getD 1 0,
           corr := if p.corr.toNat + (bs.getD 2 0).toNat < 2 ^ 32 then p.corr + (bs.getD 2 0).zeroExtend 32 else 0xFFFFFFFF }
/-- A data flit or a match flit comes to the sequencer, unless it is of a collective that has failed here: such a one is passed over,
until the peer tells of the failure too (R326). -/
def Nirber.take (x : Nirber) (f : NFlit) : Nirber :=
  match x.skip.find? fun e => if f.type = 5 then f.group == e.1 && f.number == e.2.1 else f.stream.toNat / 2 ^ 27 == e.2.2 with
  | some e => if f.type = 5 ∧ f.failure ≠ 0 then { x with skip := x.skip.erase e } else x
  | none => { x with got := x.got ++ [f] }
/-- NIRBER_FLIT_RECEIVE (R332): delivered once and in SEQ order. -/
def execNirberFlitReceive (b p : Nat) (bytes : List (BitVec 8)) (s : State) : Out :=
  if (s.port b p).st ≠ 2 ∨ 32 ≤ b then .next s
  else
    let f := NFlit.ofBytes bytes
    let bad := bytes.length < 256 ∨ crc64 (bytes.take 248) ≠ BitVec.ofNat 64 (ofBytes ((bytes.drop 248).take 8))
    .next (s.modPort b p fun x =>
      let x := x.fec (bytes.drop 256)
      if bad then { x with crc := satInc x.crc }.control 3
      else if f.type = 1 then
        if f.seq = x.recvSeq then ({ x with recvSeq := x.recvSeq + 1 } : Nirber).take f |>.control 2 else x.control 3
      else if f.type = 2 then x.acked f.ack
      else if f.type = 3 then (x.acked f.ack).replayAll s.time
      else if f.type = 5 then x.take f
      else if f.type = 0 ∨ f.type = 4 then x
      else { x with crc := satInc x.crc })
/-- The data flits that a port that is down has had no acknowledgement for go on over the other ports of their set, one by one to
the one that keeps the fewest, as long as that has room (R330, R332). -/
def State.restripe (s : State) (b p : Nat) : State :=
  (s.port b p).replayBuf.foldl (fun s e =>
    match s.colls.reverse.find? fun c => c.slot == e.1.stream.toNat / 2 ^ 27 && c.succ.getLsbD p with
    | none => s
    | some c => match leastBy (fun q => (s.port b q).replayBuf.length) ((s.upPorts b c.succ).filter (· != p)) with
      | none => s
      | some q =>
        if 512 ≤ (s.port b q).replayBuf.length then s
        else (s.modPort b p fun x => { x with replayBuf := x.replayBuf.erase e }).modPort b q fun y => y.send s.time e.1.stream e.1.payload) s
/-- NIRBER_REPLAY_TIMEOUT (R332): a flit unacknowledged for 2 µs; of a port that is down, the flits that it still keeps. -/
def execNirberReplayTimeout (b p : Nat) (s : State) : Out :=
  if (s.port b p).st = 0 then .next (s.restripe b p)
  else .next (s.modPort b p fun x => if x.st = 2 ∧ x.replayBuf.any fun f => decide (f.2 + 2000 ≤ s.time) then x.replayAll s.time else x)
/-- NIRBER_RETRAIN (R332): after 16 replays without progress; the replay buffer is kept. -/
def execNirberRetrain (b p : Nat) (s : State) : Out :=
  let x := s.port b p
  if x.st = 2 ∧ 16 ≤ x.replays then
    .next ((s.modPort b p fun x => { x with st := 3, replays := 0, retrain := satInc x.retrain, retrainAt := s.time }).alert alertPort)
  else .next s
/-- RETRAIN_TIMEOUT (R332): 10 ms. -/
def execRetrainTimeout (b p : Nat) (s : State) : Out :=
  let x := s.port b p
  if x.st = 3 ∧ x.retrainAt + 10000000 ≤ s.time then
    .next (((s.modPort b p fun x => { x with st := 0 }).restripe b p).alert alertPort)
  else .next s
/-- NIRBER_LINK_TRAINING (R330): `lanes` holds in bits 3:0 how many lanes trained, counted from lane 0, in bit 8 that the
peer is on another rail or on this module, and in bits 31:16 the peer's identifier. -/
def execNirberLinkTraining (b p lanes : Nat) (s : State) : Out :=
  let x := s.port b p
  let n := lanes % 16
  if x.st = 1 ∨ x.st = 3 then
    let up := !lanes.testBit 8 && decide (4 ≤ n)
    let s := s.modPort b p fun x =>
      { x with st := if up then 2 else 0, degr := up && decide (n < 8), misrail := lanes.testBit 8, peer := BitVec.ofNat 16 (lanes / 65536) }
    .next (if up then s else (s.restripe b p).alert alertPort)
  else .next s
/-- Counter 0 NLCRC, 1 NLREPLAY, 2 NLRETRAIN or 3 NLCORR cleared (R333). -/
def Nirber.clearCounter (x : Nirber) (n : Nat) : Nirber :=
  if n = 0 then { x with crc := 0 } else if n = 1 then { x with replay := 0 } else if n = 2 then { x with retrain := 0 }
  else if n = 3 then { x with corr := 0 } else x
/-- NL_COUNTER_WRITE (R333). -/
def execNlCounterWrite (b p n : Nat) (s : State) : Out := .next (if 32 ≤ b then s else s.modPort b p fun x => x.clearCounter n)

/-! ### Groups of 16 elements (R321, R323) -/

/-- Mantissa bytes of a group of 16 elements. -/
def grpBytes (f : BitVec 3) : Nat := if f = 2 then 8 else if f = 1 then 16 else if f = 0 ∨ f = 3 then 32 else 64
/-- The partial format: B16, FP32 or INT32 (R323). -/
def partialFmt (f : BitVec 3) : BitVec 3 := if isB f then 0 else if f = 6 then 6 else 4
/-- Bytes of a partial group. -/
def partialBytes (f : BitVec 3) : Nat := if isB f then 34 else 64
/-- The exact values of a group: mantissa bytes, then a side pair for a B format. -/
def grpVals (f : BitVec 3) (bs : List Byte) : List Val :=
  if isB f ∨ f = 3 then
    rowVals f (rowFields f 16 (bs.take (grpBytes f))) (BitVec.ofNat 16 (ofBytes ((bs.drop (grpBytes f)).take 2)))
  else (List.range 16).map fun i =>
    let w : Word := BitVec.ofNat 32 (ofBytes ((bs.drop (4 * i)).take 4))
    if f = 4 then decFp32 w else Val.ofInt w.toInt
/-- A group of values in a format, rounded RNE. -/
def grpEnc (f : BitVec 3) (x : List Val) : List Byte :=
  if isB f then let r := (pack f x .rne []).row; rowBytes f r.1 ++ toBytes 2 r.2.toNat
  else if f = 3 then (x.map fun v => toBytes 2 (encBf16 v .rne 0).toNat).flatten
  else if f = 4 then (x.map fun v => toBytes 4 (encFp32 v .rne 0).toNat).flatten
  else (x.map fun v => toBytes 4 (BitVec.ofInt 32 v.int).toNat).flatten
/-- A contribution joins a partial (R323). -/
def grpJoin (red : BitVec 2) (x y : List Val) : List Val :=
  (x.zip y).map fun (a, b) => if red = 0 then a.add b .rne else if red = 1 then a.max b else a.min b

/-- Piece i of k of a range of groups (R321). -/
def piece (r : Nat × Nat) (i k : Nat) : Nat × Nat := (r.1 + (r.2 - r.1) * i / k, r.1 + (r.2 - r.1) * (i + 1) / k)
/-- The i-th group of ranges laid end to end. -/
def nthGroup : List (Nat × Nat) → Nat → Nat
  | [], i => i
  | r :: t, i => if i < r.2 - r.1 then r.1 + i else nthGroup t (i - (r.2 - r.1))
def groupCount (rs : List (Nat × Nat)) : Nat := (rs.map fun r => r.2 - r.1).foldl (· + ·) 0
/-- The groups of chunk c. -/
def chunkGroups (rs : List (Nat × Nat)) (per c : Nat) : List Nat :=
  (List.range per).filterMap fun i => if c * per + i < groupCount rs then some (nthGroup rs (c * per + i)) else none

/-! ### Collectives (R317–R326) -/

/-- The participant whose parameters stand for the collective's. -/
def Coll.lead (c : Coll) : CollPart := c.parts.headD ⟨0, none, none, 0, 0, 0, 0, 0, 0, 0, 0, 0, 0, 0, 0, 0, false⟩
/-- V in groups (R321). -/
def Coll.total (c : Coll) : Nat :=
  let p := c.lead
  (if p.op = 1 ∨ p.op = 2 then p.count * c.gsize * c.localN else p.count) / 16
/-- Groups per chunk. -/
def Coll.per (c : Coll) : Nat := c.lead.chunk / grpBytes c.lead.fmt
/-- Brick b's piece of module range m. -/
def Coll.range (c : Coll) (m b : Nat) : Nat × Nat := piece (piece (0, c.total) (m % c.gsize) c.gsize) b 32
/-- Brick b's pieces of every module range. -/
def Coll.allRanges (c : Coll) (b : Nat) : List (Nat × Nat) := (List.range c.gsize).map fun m => c.range m b
/-- The module of the root, and this module's distance behind it on the ring. -/
def Coll.rootMod (c : Coll) : Nat := c.lead.root / c.localN
def Coll.fromRoot (c : Coll) : Nat := (c.mrank + c.gsize - c.rootMod % c.gsize) % c.gsize
/-- The ranges of step 1 (Table 12.3). -/
def Coll.readRanges (c : Coll) (b : Nat) : List (Nat × Nat) :=
  let op := c.lead.op
  if op = 2 then [c.range c.mrank b] else if op = 3 then (if c.rootMod = c.mrank then c.allRanges b else []) else c.allRanges b
/-- The ranges of step 3 (Table 12.3). -/
def Coll.writeRanges (c : Coll) (b : Nat) : List (Nat × Nat) := if c.lead.op = 1 then [c.range c.mrank b] else c.allRanges b
/-- What ring step r of step 2 or 3 sends and receives (R322). -/
def Coll.ringRanges (c : Coll) (b step r : Nat) : List (Nat × Nat) × List (Nat × Nat) :=
  let m := c.mrank + c.gsize
  if step = 2 then ([c.range (m - r) b], [c.range (m + c.gsize - r - 1) b])
  else if c.lead.op = 3 then
    (if r = c.fromRoot + 1 then c.allRanges b else [], if r = c.fromRoot then c.allRanges b else [])
  else ([c.range (m - r + 1) b], [c.range (m - r) b])
/-- The rank of a participant. -/
def Coll.rank (c : Coll) (p : CollPart) : Nat := c.mrank * c.localN + p.lidx
/-- The group of a participant's buffer that holds group g of the vector, if any: in the send or the receive buffer. -/
def Coll.place (c : Coll) (p : CollPart) (g : Nat) (share : Bool) : Option Nat :=
  let per := p.count / 16
  if share then (if g / per = c.rank p then some (g % per) else none) else some g

/-- A sequencer's read of n bytes at its brick: the bytes or the fault (R324). -/
def State.seqRead (s : State) (b va n : Nat) : State × Except (BitVec 8 × BitVec 2 × Dword) (List Byte) :=
  let x := s.translatePieces b false (wordPieces va n [])
  match x.fault with
  | some f => (x.s, .error f)
  | none =>
    let got := x.done.map fun p => (p, x.s.devRead p.pa p.n)
    match got.find? fun g => g.2.isNone with
    | some g => (x.s, .error (cEUE, 3, BitVec.ofNat 64 g.1.va))
    | none => (x.s, .ok (got.map fun g => g.2.getD []).flatten)
/-- A sequencer's write. -/
def State.seqWrite (s : State) (b va : Nat) (bs : List Byte) : State × Option (BitVec 8 × BitVec 2 × Dword) :=
  let x := s.translatePieces b true (wordPieces va bs.length bs)
  match x.fault with
  | some f => (x.s, some f)
  | none =>
    match x.done.find? fun p => (s.home p.pa).isNone with
    | some p => (x.s, some (cEUE, 3, BitVec.ofNat 64 p.va))
    | none => (x.done.foldl (fun s p => s.devWrite p.pa p.data) x.s, none)
/-- A sequencer's read of a group of a buffer with a side plane. -/
def State.readGroup (s : State) (b : Nat) (f : BitVec 3) (base side g : Nat) : State × Except (BitVec 8 × BitVec 2 × Dword) (List Byte) :=
  match s.seqRead b (base + g * grpBytes f) (grpBytes f) with
  | (s, .error e) => (s, .error e)
  | (s, .ok m) =>
    if isB f then
      match s.seqRead b (side + 2 * g) 2 with
      | (s, .error e) => (s, .error e)
      | (s, .ok d) => (s, .ok (m ++ d))
    else (s, .ok m)
/-- A sequencer's write of a group. -/
def State.writeGroup (s : State) (b : Nat) (f : BitVec 3) (base side g : Nat) (bs : List Byte) : State × Option (BitVec 8 × BitVec 2 × Dword) :=
  match s.seqWrite b (base + g * grpBytes f) (bs.take (grpBytes f)) with
  | (s, some e) => (s, some e)
  | (s, none) => if isB f then s.seqWrite b (side + 2 * g) (bs.drop (grpBytes f)) else (s, none)

/-- COLLX (R326, R328). -/
def collx (sub : Nat) : Trap := mkTrap cCOLLX sub
def State.coll (s : State) (id : Nat) : Option Coll := s.colls.find? fun c => c.id == id
def State.modColl (s : State) (id : Nat) (f : Coll → Coll) : State := { s with colls := s.colls.map fun c => if c.id = id then f c else c }
/-- A participant's tag takes a state: at its core, if the collective holds it there, or in what its image meets when it resumes
(R325). -/
def State.setCollTag (s : State) (p : CollPart) (f : Tag → Tag) : State :=
  if p.core < nobody then s.modWake p.core fun c => if (c.tag p.tag).holder = .coll then c.setTag p.tag (f (c.tag p.tag)) else c
  else
    { s with colls := s.colls.map fun c => { c with parts := c.parts.map fun (q : CollPart) =>
        if q.core = p.core ∧ q.tag = p.tag ∧ !q.done then { q with away := some (f (q.away.getD ⟨.busy, .coll, true, 0, 0, 0⟩)) } else q } }
/-- A participant's tag faults, and its sequencer posts a record (R326). -/
def State.failPart (s : State) (b : Nat) (p : CollPart) (f : Trap) (live : Bool) : State :=
  let s := s.setCollTag p fun k => { k with st := .faulted, live := live, cause := f.cause, einfo := f.einfo, eaddr := f.eaddr }
  let r := mkRec ⟨3, b, 0, p.part⟩ (frameOf f) true 0 s.time
  s.modBrick b fun k => { k with held := k.held ++ [r.withSeq k.seqSeq], seqSeq := k.seqSeq + 1 }
/-- The payload of a match flit (R317): GROUP, GSIZE, LOCALN, MRANK, n. Behind these, which the spec names the first bytes, the
model carries OP, RED, FMT, COUNT, CHUNK, ROOT, the subcode of a failure, 0 for none, by which the modules of a group learn what
Table 12.4 lets reach every module, and the slot that STREAM names the collective by (DESIGN CHOICE, log entry 48). -/
def Coll.matchBytes (c : Coll) : List Byte :=
  let p := c.lead
  toBytes 1 c.group ++ toBytes 2 c.gsize ++ toBytes 1 c.localN ++ toBytes 2 c.mrank ++ toBytes 4 c.n ++ toBytes 1 p.op.toNat ++ toBytes 1 p.red.toNat
    ++ toBytes 1 p.fmt.toNat ++ toBytes 5 p.count ++ toBytes 3 p.chunk ++ toBytes 4 p.root ++ toBytes 1 c.sub ++ toBytes 1 c.slot
/-- A match flit of a collective leaves on every port of its SUCC and PRED sets. -/
def State.sendMatch (s : State) (c : Coll) : State :=
  if c.gsize ≤ 1 then s
  else (List.range 32).foldl (fun s b => (s.upPorts b (c.succ ||| c.pred)).foldl (fun s p =>
    s.modPort b p fun x => { x with wire := x.wire ++ [⟨5, 0, x.ackSeq, 0, c.matchBytes⟩] }) s) s
/-- The ports lose what they hold of a collective that fails here: its match flits, and once it runs the data from the module before
it. What still comes of it is passed over until the peer tells of the failure too (R326). -/
def State.purgeColl (s : State) (c : Coll) : State :=
  if c.gsize ≤ 1 then s
  else (List.range 32).foldl (fun s b => (s.upPorts b (c.succ ||| c.pred)).foldl (fun s p => s.modPort b p fun x =>
    let slot := if (c.st == .running || c.st == .aborting) && c.pred.getLsbD p then c.peer else 32
    let mine := fun (f : NFlit) => f.type == 5 && f.group == c.group && f.number == c.n % 2 ^ 32
    let told := c.st == .failed || x.got.any fun f => mine f && f.failure != 0
    { x with got := x.got.filter fun f => !mine f && !(f.type == 1 && f.stream.toNat / 2 ^ 27 == slot),
             skip := if told then x.skip else x.skip ++ [(c.group, c.n % 2 ^ 32, slot)] }) s) s
/-- Every tag of a collective faults, here and, by the match flits that say so, in every other module, and it ends (Table 12.4). -/
def State.failColl (s : State) (c : Coll) (b sub : Nat) : State :=
  let s := s.purgeColl c
  let c := { c with sub := sub }
  let s := (c.parts.filter fun p => !p.done).foldl (fun s p => s.failPart b p (collx sub) false) s
  let s := c.extra.foldl (fun s (l, k) => s.modWake l fun x => if (x.tag k).holder = .coll then x.failTag k (collx sub) false else x) s
  (s.sendMatch c).modColl c.id fun c => { c with st := .failed, bricks := [], sub := sub }
/-- The brick, and the subcode, of a failure that a neighbouring module has sent for a collective. -/
def State.peerFailure (s : State) (c : Coll) : Option (Nat × Nat) :=
  if c.gsize ≤ 1 then none
  else (List.range 32).findSome? fun b => (s.upPorts b (c.succ ||| c.pred)).findSome? fun p =>
    ((s.port b p).got.find? fun f => f.type == 5 && f.group == c.group && f.number == c.n % 2 ^ 32 && f.failure != 0).map fun f => (b, f.failure)
/-- The parameters that every rank must share (Table 12.4). -/
def CollPart.agrees (p q : CollPart) : Bool :=
  p.op == q.op && p.red == q.red && p.fmt == q.fmt && p.count == q.count && p.chunk == q.chunk && p.root == q.root

/-- The lowest free one of the 8 slots on the bricks (R318). A collective holds one from its match flits on, as the spec's note on
partners held behind other modules' slots has it, and an aborted one until every brick has stopped it. -/
def State.freeSlots (s : State) : Option Nat :=
  (List.range 8).find? fun i => !s.colls.any fun x => (x.st == .matched || x.st == .running || x.st == .aborting) && x.slot == i
/-- A collective begins to run. -/
def Coll.run (c : Coll) : Coll := { c with st := .running, bricks := (List.range 32).map fun b => ⟨b, 0, 0, 0, 0, 0, 0, 0, [], none⟩ }
/-- An earlier collective of the group, or one of an earlier launch by the same number, still waits to start (R318). One that lost a
participant with its launch before every rank had come never does. -/
def State.waitsEarlier (s : State) (c : Coll) : Bool :=
  s.colls.any fun x => x.group == c.group && (decide (x.n < c.n) || (x.n == c.n && decide (x.id < c.id))) &&
    (x.st == .matching || x.st == .matched || x.st == .waiting) && (decide (x.localN ≤ x.parts.length) || x.parts.all fun p => p.core != nobody)
/-- The first match flit of a group that a port has delivered and that tells of no failure. -/
def Nirber.matchOf (p : Nirber) (g : Nat) : Option NFlit := p.got.find? fun f => f.type == 5 && f.group == g && f.failure == 0
/-- Removes the first flit that satisfies a test. -/
def dropFlit (t : NFlit → Bool) (l : List NFlit) : List NFlit := match takeFirst t l with | some (_, r) => r | none => l
/-- The subcode with which a match flit on port p of brick b fails a collective (R317, Table 12.4), 0 for none: 6 for the group,
the number or the rank order, 2 for the parameters. -/
def Coll.mismatch (c : Coll) (f : NFlit) (p : Nat) : Nat :=
  let rank := fun (set : BitVec 6) (r : Nat) => set.getLsbD p && ofBytes ((f.payload.drop 4).take 2) != r % c.gsize
  if f.payload.take 4 != c.matchBytes.take 4 || f.number != c.n % 2 ^ 32 || rank c.pred (c.mrank + c.gsize - 1) || rank c.succ (c.mrank + 1) then 6
  else if (f.payload.drop 10).take 15 != (c.matchBytes.drop 10).take 15 then 2 else 0
/-- COLL_MATCH (R317, R318): once every local rank has come and no earlier collective of the group still waits, the
parameters are compared and the collective takes a slot, or waits for one; across modules match flits are exchanged and checked on
every port of SUCC and PRED. A collective that has failed learns from a peer that it is aborted. -/
def execCollMatch (id : Nat) (s : State) : Out :=
  match s.coll id with
  | none => .next s
  | some c =>
    let live := c.st == .matching || c.st == .matched || c.st == .waiting
    match if live then s.peerFailure c else if c.st = .failed then (s.peerFailure c).filter (fun f => f.2 == 4 && c.sub != 4) else none with
    | some (b, sub) => .next (s.failColl c b sub)
    | none =>
    if s.waitsEarlier c ∨ c.parts.length < c.localN then .next s
    else match c.st with
      | .matching | .waiting =>
        if c.parts.any fun p => !p.agrees c.lead then .next (s.failColl c 0 2)
        else match if c.gsize ≤ 1 then none else (List.range 32).find? fun b => s.allDown b c.succ || s.allDown b c.pred with
          | some b => .next (s.failColl c b 5)
          | none => match s.freeSlots with
            | none => .next (s.modColl id fun c => { c with st := .waiting })
            | some i =>
              let c := { c with slot := i }
              if c.gsize ≤ 1 then .next (s.modColl id fun _ => c.run)
              else if (List.range 32).any fun b => s.upPorts b c.succ == [] || s.upPorts b c.pred == [] then .next s
              else .next ((s.sendMatch c).modColl id fun _ => { c with st := .matched })
      | .matched =>
        let ends := ((List.range 32).map fun b => (s.upPorts b (c.succ ||| c.pred)).map fun p => (b, p)).flatten
        if ends.any fun e => ((s.port e.1 e.2).matchOf c.group).isNone then .next s
        else
          let wrong := ends.findSome? fun e => match (s.port e.1 e.2).matchOf c.group with
            | some f => if c.mismatch f e.2 = 0 then none else some (e.1, c.mismatch f e.2)
            | none => none
          let s' := ends.foldl (fun s e => s.modPort e.1 e.2 fun x =>
            { x with got := dropFlit (fun f => f.type == 5 && f.group == c.group && f.failure == 0) x.got }) s
          match wrong with
          | some (b, sub) => .next (s'.failColl c b sub)
          | none =>
            let peer := ends.findSome? fun e => if c.pred.getLsbD e.2 then ((s.port e.1 e.2).matchOf c.group).map NFlit.slot else none
            .next (s'.modColl id fun c => { c with peer := peer.getD 0 }.run)
      | _ => .next s

/-- One group of step 1: the contributions of the local send buffers, in the order in which the ranks arrived (R323). -/
def State.reduceGroup (s : State) (c : Coll) (b g : Nat) : State × Except (CollPart × (BitVec 8 × BitVec 2 × Dword)) (List Byte) :=
  let l := c.lead
  let ps := c.parts.filterMap fun p =>
    if l.op = 3 then (if c.rank p = l.root then some (p, g) else none) else (c.place p g (l.op == 2)).map fun i => (p, i)
  let r := ps.foldl (fun (x : State × Except (CollPart × (BitVec 8 × BitVec 2 × Dword)) (Option (List Byte))) (p, i) =>
    match x.2 with
    | .error e => (x.1, .error e)
    | .ok acc => match x.1.readGroup b l.fmt p.send p.sside i with
      | (s, .error e) => (s, .error (p, e))
      | (s, .ok bs) =>
        let v := grpVals l.fmt bs
        (s, .ok (some (grpEnc (partialFmt l.fmt) (match acc with | none => v | some a => grpJoin l.red (grpVals (partialFmt l.fmt) a) v))))) (s, .ok none)
  match r.2 with
  | .error e => (r.1, .error e)
  | .ok a => (r.1, .ok (a.getD []))
/-- One group of step 3, written to the local receive buffers that take it (R323). -/
def State.deliverGroup (s : State) (c : Coll) (b g : Nat) (bs : List Byte) : State × Option (CollPart × (BitVec 8 × BitVec 2 × Dword)) :=
  let l := c.lead
  let out := if l.fmt = 4 ∨ l.fmt = 6 then bs else grpEnc l.fmt (grpVals (partialFmt l.fmt) bs)
  c.parts.foldl (fun (x : State × Option (CollPart × (BitVec 8 × BitVec 2 × Dword))) p =>
    match x.2, c.place p g (l.op == 1) with
    | none, some i => match x.1.writeGroup b l.fmt p.recv p.rside i out with
      | (s, some e) => (s, some (p, e))
      | (s, none) => (s, none)
    | _, _ => x) (s, none)
/-- A participant's buffer faults: its tag faults, and the sequencer holds at the chunk (R326). -/
def State.haltColl (s : State) (c : Coll) (b : Nat) (p : CollPart) (f : BitVec 8 × BitVec 2 × Dword) (write : Bool) : State :=
  (s.failPart b p (edgeTrap f 0 0 write 0) true).modColl c.id fun c =>
    { c with bricks := c.bricks.map fun k => if k.brick = b then { k with halted := some (p.core, p.tag) } else k }
/-- A brick's progress changes, and the chunks completed are counted. -/
def State.stepBrick (s : State) (c : Coll) (b n : Nat) (f : CollBrick → CollBrick) : State :=
  s.modColl c.id fun c => { c with chunks := c.chunks + n, bricks := c.bricks.map fun k => if k.brick = b then f k else k }
/-- The ring steps of a collective, in order, each with its step of STREAM: 2 reduce-scatter, 3 all-gather (Table 12.3). -/
def Coll.rings (c : Coll) : List (Nat × Nat) :=
  let run : Nat → List (Nat × Nat) := fun step => (List.range (c.gsize - 1)).map fun r => (step, r + 1)
  (if c.lead.op.toNat ≤ 1 then run 2 else []) ++ if c.lead.op = 1 then [] else run 3
/-- The chunks of ranges. -/
def Coll.chunksOf (c : Coll) (rs : List (Nat × Nat)) : Nat := (groupCount rs + c.per - 1) / c.per
/-- A group has been through this many ring steps; a finished one through all (R322). -/
def CollBrick.stage (k : CollBrick) (g : Nat) : Option Nat := (k.partials.find? fun e => e.1 == g).map (·.2.1)
/-- Every group of a chunk has been through at least n ring steps. -/
def CollBrick.ready (k : CollBrick) (gs : List Nat) (n : Nat) : Bool :=
  gs.all fun g => match k.stage g with | some m => decide (n ≤ m) | none => false
/-- The groups of a chunk that a brick reads, writes, sends next or receives next, where any is left. -/
def Coll.toRead (c : Coll) (k : CollBrick) : Option (List Nat) :=
  let rs := c.readRanges k.brick
  if k.read < c.chunksOf rs then some (chunkGroups rs c.per k.read) else none
def Coll.toWrite (c : Coll) (k : CollBrick) : Option (List Nat) :=
  let rs := c.writeRanges k.brick
  if k.write < c.chunksOf rs then some (chunkGroups rs c.per k.write) else none
def Coll.toSend (c : Coll) (k : CollBrick) : Option (Nat × Nat × List Nat) :=
  (c.rings[k.send]?).map fun (step, r) => (step, r, chunkGroups (c.ringRanges k.brick step r).1 c.per k.sChunk)
def Coll.toRecv (c : Coll) (k : CollBrick) : Option (Nat × Nat × List Nat) :=
  (c.rings[k.recv]?).map fun (step, r) => (step, r, chunkGroups (c.ringRanges k.brick step r).2 c.per k.rChunk)
/-- The sequencer of a brick has done its part. -/
def Coll.brickDone (c : Coll) (k : CollBrick) : Bool :=
  (c.toRead k).isNone && (c.toWrite k).isNone && (c.toSend k).isNone && (c.toRecv k).isNone
/-- STREAM of a chunk of the collective in a slot (Table 12.5). -/
def streamWord (slot step ring chunk : Nat) : Word :=
  BitVec.ofNat 32 (chunk % 2 ^ 13 + ring % 2 ^ 12 * 2 ^ 13 + step % 4 * 2 ^ 25 + slot * 2 ^ 27)
/-- Groups in a flit's payload, and the flits of a chunk. -/
def Coll.perFlit (c : Coll) : Nat := 240 / partialBytes c.lead.fmt
def Coll.flits (c : Coll) (gs : List Nat) : Nat := (gs.length + c.perFlit - 1) / c.perFlit
/-- The flits of a chunk from number j on leave on the SUCC ports, one after the other (R330), as far as the replay buffers of 512
take them (R332): the state, and the flits gone. -/
def State.sendFlits (s : State) (c : Coll) (k : CollBrick) (step ring : Nat) (gs : List Nat) : Nat → Nat → State × Nat
  | 0, j => (s, j)
  | n + 1, j =>
    let ps := s.upPorts k.brick c.succ
    let p := ps.getD (j % ps.length) 0
    if c.flits gs ≤ j ∨ ps = [] ∨ 512 ≤ (s.port k.brick p).replayBuf.length then (s, j)
    else
      let pay := (((gs.drop (j * c.perFlit)).take c.perFlit).map fun g => (lookup (0, []) k.partials g).2).flatten
      (s.modPort k.brick p fun x => x.send s.time (streamWord c.slot step ring k.sChunk)
        ((pay ++ List.replicate 238 0).take 238 ++ toBytes 2 j)).sendFlits c k step ring gs n (j + 1)
/-- The payloads of a chunk received on the PRED ports, whichever of them each flit came by, when all of its n flits have come, and
the state without them (R330, R331). -/
def State.recvChunk (s : State) (c : Coll) (k : CollBrick) (step ring n : Nat) : Option (List (List Byte) × State) :=
  let ps := (List.range 6).filter c.pred.getLsbD
  let mine := fun (f : NFlit) => f.type == 1 && f.stream == streamWord c.peer step ring k.rChunk
  let fs := (ps.map fun p => (s.port k.brick p).got.filter mine).flatten
  ((List.range n).mapM fun j => (fs.find? fun f => f.index == j).map NFlit.payload).map fun l =>
    (l, ps.foldl (fun s p => s.modPort k.brick p fun x => { x with got := x.got.filter fun f => !mine f }) s)
/-- A chunk of step 1: what is read of an all-gather or a broadcast is finished. -/
def State.chunkReduce (s : State) (c : Coll) (k : CollBrick) (gs : List Nat) : State :=
  let n := if c.lead.op.toNat ≤ 1 then 0 else c.gsize - 1
  let r := gs.foldl (fun (x : State × CollBrick × Bool) g =>
    if x.2.2 then x
    else match x.1.reduceGroup c k.brick g with
      | (s, .error (p, e)) => (s.haltColl c k.brick p e false, x.2.1, true)
      | (s, .ok bs) => (s, { x.2.1 with partials := insert g (n, bs) x.2.1.partials }, false)) (s, k, false)
  if r.2.2 then r.1 else r.1.stepBrick c k.brick 1 fun _ => { r.2.1 with read := k.read + 1 }
/-- A chunk of step 3. -/
def State.chunkWrite (s : State) (c : Coll) (k : CollBrick) (gs : List Nat) : State :=
  let r := gs.foldl (fun (x : State × Bool) g =>
    if x.2 then x
    else match x.1.deliverGroup c k.brick g (lookup (0, []) k.partials g).2 with
      | (s, some (p, e)) => (s.haltColl c k.brick p e true, true)
      | (s, none) => (s, false)) (s, false)
  if r.2 then r.1 else r.1.stepBrick c k.brick 1 fun k => { k with write := k.write + 1 }
/-- A received chunk joins the partials, or replaces them in the all-gather ring (R322). -/
def Coll.absorb (c : Coll) (k : CollBrick) (step ring : Nat) (gs : List Nat) (pays : List (List Byte)) : CollBrick :=
  let f := c.lead.fmt
  let n := partialBytes f
  let items := gs.zipIdx.map fun (g, i) => (g, (((pays.getD (i / c.perFlit) []).drop (i % c.perFlit * n)).take n))
  let join := fun (a bs : List Byte) => if step ≠ 2 ∨ a = [] then bs
    else grpEnc (partialFmt f) (grpJoin c.lead.red (grpVals (partialFmt f) a) (grpVals (partialFmt f) bs))
  let ps := items.foldl (fun l x => insert x.1 (if step = 2 then ring else c.gsize - 1, join (lookup (0, []) l x.1).2 x.2) l) k.partials
  { k with partials := ps, rChunk := k.rChunk + 1 }
/-- The next chunk leaves, or what of it there is room for, once its groups are complete (R322). -/
def State.tryChunkSend (s : State) (c : Coll) (k : CollBrick) : Option State :=
  match c.toSend k with
  | none => none
  | some (_, _, []) => some (s.stepBrick c k.brick 0 fun k => { k with send := k.send + 1, sChunk := 0, sFlit := 0 })
  | some (step, r, gs) =>
    if !k.ready gs (if step = 2 then r - 1 else c.gsize - 1) then none
    else
      let x := s.sendFlits c k step r gs (c.flits gs) k.sFlit
      if x.2 = k.sFlit then none
      else some (x.1.stepBrick c k.brick 0 fun k =>
        if c.flits gs ≤ x.2 then { k with sChunk := k.sChunk + 1, sFlit := 0 } else { k with sFlit := x.2 })
/-- The next chunk is received, once all of it has come and what it is added to has been read. -/
def State.tryChunkRecv (s : State) (c : Coll) (k : CollBrick) : Option State :=
  match c.toRecv k with
  | none => none
  | some (_, _, []) => some (s.stepBrick c k.brick 0 fun k => { k with recv := k.recv + 1, rChunk := 0 })
  | some (step, r, gs) =>
    if step = 2 ∧ !k.ready gs 0 then none
    else (s.recvChunk c k step r (c.flits gs)).map fun (pays, s) => s.stepBrick c k.brick 1 fun k => c.absorb k step r gs pays
/-- COLL_CHUNK_STEP (R322): one chunk of the first step that brick b can go on with; successive chunks and steps overlap. -/
def execCollChunkStep (id b : Nat) (s : State) : Out :=
  match s.coll id with
  | none => .next s
  | some c =>
    match c.bricks.find? fun k => k.brick == b with
    | none => .next s
    | some k =>
      if c.st ≠ .running ∨ k.halted.isSome then .next s
      else match s.peerFailure c with
      | some (b, sub) => .next (s.failColl c b sub)
      | none =>
        if ((c.toSend k).isSome && s.allDown b c.succ) || ((c.toRecv k).isSome && s.allDown b c.pred) then .next (s.failColl c b 5)
        else match s.tryChunkSend c k with
        | some s => .next s
        | none => match s.tryChunkRecv c k with
          | some s => .next s
          | none => match c.toWrite k, c.toRead k with
            | some gs, r =>
              if k.ready gs (c.gsize - 1) then .next (s.chunkWrite c k gs)
              else match r with | some gs => .next (s.chunkReduce c k gs) | none => .next s
            | none, some gs => .next (s.chunkReduce c k gs)
            | none, none => .next s
/-- COLL_COMPLETE (R324): every brick has written; a core's tag is set. -/
def execCollComplete (id core : Nat) (s : State) : Out :=
  match s.coll id with
  | none => .next s
  | some c =>
    if c.st = .running ∧ c.bricks.all c.brickDone then
      let mine := c.parts.filter fun p => p.core == core && !p.done
      let s := mine.foldl (fun s p => s.setCollTag p fun _ => ⟨.set, .coll, false, 0, 0, 0⟩) s
      .next (s.modColl id fun c =>
        let c := { c with parts := c.parts.map fun (p : CollPart) => if p.core = core then { p with done := true } else p }
        if c.parts.all (·.done) then { c with st := .complete, bricks := [] } else c)
    else .next s
/-- COLL_ABORT_DONE (R329): every brick has stopped an aborted collective. -/
def execCollAbortDone (id : Nat) (s : State) : Out :=
  match s.coll id with
  | some c => if c.st = .aborting then .next (s.failColl c 0 4) else .next s
  | none => .next s

/-! ### Instructions: major 0x38 (R327–R329) -/

/-- A group table entry's fields (Table 12.1). -/
def Mgmt.group (m : Mgmt) (g : Nat) : Dword := m.groups.toList.getD g 0
/-- A parameter block's participant, from its 16 doublewords. -/
def collPart (core : Nat) (part : Option Nat) (slot : BitVec 3) (n : Nat) : CollPart :=
  let d := fun i => n / 2 ^ (64 * i) % 2 ^ 64
  ⟨core, part, none, BitVec.ofNat 6 (d 8), slot, field (d 0) 24 6, BitVec.ofNat 4 (d 0), BitVec.ofNat 2 (d 0 / 16), BitVec.ofNat 3 (d 0 / 64),
   d 1 % 2 ^ 32, d 2, d 3, d 4, d 5, d 6 % 2 ^ 36, d 7 % 2 ^ 21, false⟩
/-- The elements of a participant's send and receive buffers (R320). -/
def CollPart.elements (p : CollPart) (n : Nat) : Nat × Nat :=
  (if p.op = 1 then p.count * n else p.count, if p.op = 2 then p.count * n else p.count)
/-- The mantissa and side ranges of a buffer of e elements. -/
def CollPart.ranges (p : CollPart) (base side e : Nat) : List (Int × Int) :=
  ((base : Int), (base : Int) + (e / 16 * grpBytes p.fmt : Nat) - 1) ::
    if isB p.fmt then [((side : Int), (side : Int) + (e / 16 * 2 : Nat) - 1)] else []
/-- Two ranges of bytes share one. -/
def meets (a b : Int × Int) : Bool := decide (a.1 ≤ b.2) && decide (b.1 ≤ a.2)
/-- COLLX subcode 1 (R328). -/
def badBlock (n : Nat) (p : CollPart) (e : Dword) : Bool :=
  let d := fun i => n / 2 ^ (64 * i) % 2 ^ 64
  let ranks := field e.toNat 0 12 * field e.toNat 24 6
  let sz := p.elements ranks
  decide (3 < p.op.toNat) || p.red == 3 || (decide (1 < p.op.toNat) && p.red != 0) || p.fmt == 5 || p.fmt == 7
    || decide (field (d 0) 9 7 ≠ 0) || decide (field (d 0) 30 34 ≠ 0) || decide (d 1 / 2 ^ 32 ≠ 0)
    || ([2, 3, 4, 5].any fun i => decide (2 ^ 57 ≤ d i)) || decide (2 ^ 36 ≤ d 6) || decide (2 ^ 21 ≤ d 7) || decide (64 ≤ d 8)
    || ([9, 10, 11, 12, 13, 14, 15].any fun i => decide (d i ≠ 0))
    || (p.op != 3 && p.root != 0) || (!isB p.fmt && (p.sside != 0 || p.rside != 0))
    || p.count == 0 || decide (p.count % 16 ≠ 0)
    || !((List.range 13).any fun i => p.chunk == 256 * 2 ^ i)
    || decide (p.send % 8 ≠ 0) || decide (p.recv % 8 ≠ 0) || decide (p.sside % 2 ≠ 0) || decide (p.rside % 2 ≠ 0)
    || !e.getLsbD 63 || decide (field e.toNat 24 6 ≤ p.lidx) || (p.op == 3 && decide (ranks ≤ p.root))
    || ((p.op == 1 || p.op == 2) && (p.ranges p.send p.sside sz.1).any fun a => (p.ranges p.recv p.rside sz.2).any (meets a))
/-- A participant joins collective n of its group: a second one with its LIDX fails, and so does one that comes after an abort
(R318, Table 12.4). A collective that has lost a participant of its partition is of an earlier launch, and takes none of this. -/
def State.joinColl (s : State) (g : Nat) (e : Dword) (p : CollPart) : State :=
  let key := g * 64 + p.lidx
  let n := lookup 0 (s.core p.core).collCount key
  let s := s.modCore p.core fun c => { c with collCount := insert key (n + 1) c.collCount }
  match s.colls.find? fun c => c.group == g && c.n == n && c.st != .complete && (c.st != .failed || decide (c.parts.length < c.localN)) &&
      c.parts.all fun q => q.core != nobody || q.part != p.part with
  | some c =>
    if c.parts.any fun q => q.lidx == p.lidx then
      (s.failPart 0 p (collx 3) false).modColl c.id fun c => { c with extra := c.extra ++ [(p.core, p.tag)] }
    else
      let s := s.modColl c.id fun c => { c with parts := c.parts ++ [p] }
      if c.st = .failed then s.failPart 0 p (collx c.sub) false else s
  | none =>
    { s with
      colls := s.colls ++ [⟨s.nextId, g, n, field e.toNat 0 12, field e.toNat 12 12, field e.toNat 24 6, BitVec.ofNat 6 (e.toNat / 2 ^ 30),
        BitVec.ofNat 6 (e.toNat / 2 ^ 36), 0, 0, [p], [], 0, [], .matching, 0⟩],
      nextId := s.nextId + 1 }
/-- The record of an earlier collective on a tag is forgotten when the tag is taken again. -/
def State.forgetColl (s : State) (l : Nat) (k : BitVec 6) : State :=
  { s with colls := (s.colls.filter fun c => !((c.st == .complete || c.st == .failed) &&
      c.parts.all fun p => (p.core == l && p.tag == k) || (decide (p.core < nobody) && ((s.core p.core).tag p.tag).holder != .coll))).map fun c =>
      { c with parts := c.parts.map (fun (p : CollPart) => if p.core = l ∧ p.tag = k then { p with core := nobody } else p),
               extra := c.extra.filter fun x => x != (l, k) } }
/-- COLL (R328). -/
def execColl (a : BitVec 4) (s : State) : Out :=
  let p := s.addr a
  let n := s.me.load p 128
  let q := collPart s.cur s.me.part s.slot n
  let g := field n 16 8
  let e := s.mgmt.group g
  let ranks := field e.toNat 0 12 * field e.toNat 24 6
  let sz := q.elements ranks
  let sends := q.op != 3 || field e.toNat 12 12 * field e.toNat 24 6 + q.lidx == q.root
  s.guard
    [when (decide (p % 8 ≠ 0)) (misal p 3), s.me.readFault p 128, when (badBlock n q e) (collx 1),
     if sends then s.me.plbCheck 0 (q.ranges q.send q.sside sz.1) else none, s.me.plbCheck 1 (q.ranges q.recv q.rside sz.2),
     when (!s.me.tagFree q.tag) (tagBusy q.tag)] <|
    let s := ((s.forgetColl s.cur q.tag).modMe fun c => (c.countCe p 128).takeTag q.tag .coll).useData [wordsOf p 128]
    .next (s.joinColl g e q).advance
/-- The collective that a core's tag belongs to. -/
def State.collOf (s : State) (l : Nat) (k : BitVec 6) : Option Coll :=
  if ((s.core l).tag k).holder = .coll then
    s.colls.reverse.find? fun c => (c.parts.any fun p => p.core == l && p.tag == k) || c.extra.contains (l, k)
  else none
/-- COLL.R (R329). -/
def execCollR (k : BitVec 6) (s : State) : Out :=
  let t := s.me.tag k
  match s.collOf s.cur k with
  | some c =>
    if t.st = .faulted ∧ (t.cause = cEPF ∨ t.cause = cEUE) then
      .next ((s.modMe fun x => x.rebusy k).modColl c.id fun c =>
        { c with bricks := c.bricks.map fun b => if b.halted = some (s.cur, k) then { b with halted := none } else b }).advance
    else .next s.advance
  | none => .next s.advance
/-- COLL.X (R329): it aborts a collective that has failed otherwise too. -/
def execCollX (k : BitVec 6) (s : State) : Out :=
  match s.collOf s.cur k with
  | some c =>
    if (c.st = .failed ∧ c.sub = 4) ∨ c.st = .complete ∨ (s.me.tag k).st = .set then .next s.advance
    else .next (s.modColl c.id fun c => { c with st := .aborting }).advance
  | none => .next s.advance
/-- COLLW (R329). -/
def execCollw (d : BitVec 4) (k : BitVec 6) (s : State) : Out :=
  let t := s.me.tag k
  if t.st = .idle ∨ t.holder ≠ .coll then .next (s.setG d 1 1).advance else .next (s.await (.collw d k))
/-- How far a sequencer has come: the state of COLLQ and the ring step, 5 once it is done. -/
def Coll.phase (c : Coll) (k : CollBrick) : Nat × Nat :=
  if (c.toRead k).isSome then (2, 0)
  else match c.toRecv k, c.toSend k with
    | some (_, r, _), _ => (3, r)
    | none, some (_, r, _) => (3, r)
    | none, none => (if (c.toWrite k).isSome then 4 else 5, 0)
/-- The sequencer that has come least far. -/
def Coll.least (c : Coll) : Nat × Nat :=
  match c.bricks with
  | [] => (2, 0)
  | b :: t => c.phase (t.foldl (fun a x =>
      let p := c.phase a
      let q := c.phase x
      if q.1 < p.1 ∨ (q.1 = p.1 ∧ x.recv < a.recv) then x else a) b)
/-- COLLQ's word (R329). -/
def State.collWord (s : State) (k : BitVec 6) (sel : BitVec 2) : Word :=
  match s.collOf s.cur k with
  | none => 0
  | some c =>
    let st := if (s.me.tag k).st = .set then 5 else if (s.me.tag k).st = .faulted then 6 else match c.st with
      | .matching | .matched => 1
      | .waiting => 7
      | .running | .aborting => Nat.min 4 c.least.1
      | .failed => 6
      | .complete => 5
    let ring := if c.st = .running ∨ c.st = .aborting then c.least.2 else 0
    if sel = 0 then BitVec.ofNat 32 (st + c.chunks % 2 ^ 24 * 256) else if sel = 1 then BitVec.ofNat 32 c.n else BitVec.ofNat 32 ring
/-- COLLQ (R329). -/
def execCollq (d : BitVec 4) (sx : BitVec 2) (k : BitVec 6) (s : State) : Out := .next (s.setG d (s.collWord k sx) 2).advance

end Sys2Proof.Machine
end

