-- ==== Sys2Proof/Machine/Control.lean ====
section
/-! DEFINITION. Strands and control: majors 0x01 to 0x04 (spec/04), and the withdrawal of a declaration that an exit makes
(13 R338). -/

namespace Sys2Proof.Machine

/-! ### Transfers (R95–R98) -/

/-- A PC-relative target (R30). -/
def relTarget (addr : Addr) (words : Int) : Addr := BitVec.ofInt 16 (addr.toNat + 4 * words)

/-- A transfer to a target: ILLCL subcode 3 if it is no header (R36), else arrival there. The header of a loop-resident
clause in the buffer is the one the fill read, whatever its word of SRAM has become (R39, R42; DEDUCED, log entry 10). Another
target's word is tested as SRAM holds it when the transfer issues, whatever a COPY or a store still changes before the fill reads it
(DESIGN CHOICE, log entry 48). -/
def State.jump (s : State) (target : Addr) (resolve : Nat) (link : State → State) : Out :=
  if s.st.reuses target || s.me.isTarget target then .next ((link s).modSt fun t => t.goto target resolve)
  else .next (s.trap (mkTrap cILLCL (3 + target.toNat * 65536)))

/-- BRA (R96). -/
def execBra (o : BitVec 22) (s : State) : Out := s.jump (relTarget s.st.pc o.toInt) s.cc id
/-- BAL (R96): g15 takes the next address. -/
def execBal (o : BitVec 22) (s : State) : Out :=
  s.jump (relTarget s.st.pc o.toInt) s.cc fun s => s.setG 15 ((s.st.pc + 4).zeroExtend 32) 1

/-- A compare-and-branch resolves in the cycle after issue (R95, R97). -/
def State.branch (s : State) (taken : Bool) (o : BitVec 14) : Out :=
  if taken then s.jump (relTarget s.st.pc o.toInt) (s.cc + 1) id
  else .next (s.modSt fun t =>
    { t.next with notBefore := s.cc + 2, fill := t.next.fill.map fun f => { f with asked := s.cc + 2 } })

/-- BEQ (R97). -/
def execBeq (a b : BitVec 4) (o : BitVec 14) (s : State) : Out := s.branch (s.g a == s.g b) o
/-- BNE (R97). -/
def execBne (a b : BitVec 4) (o : BitVec 14) (s : State) : Out := s.branch (s.g a != s.g b) o
/-- BLT (R97). -/
def execBlt (a b : BitVec 4) (o : BitVec 14) (s : State) : Out := s.branch ((s.g a).slt (s.g b)) o
/-- BGE (R97). -/
def execBge (a b : BitVec 4) (o : BitVec 14) (s : State) : Out := s.branch (!(s.g a).slt (s.g b)) o
/-- BLO (R97). -/
def execBlo (a b : BitVec 4) (o : BitVec 14) (s : State) : Out := s.branch ((s.g a).ult (s.g b)) o
/-- BHS (R97). -/
def execBhs (a b : BitVec 4) (o : BitVec 14) (s : State) : Out := s.branch (!(s.g a).ult (s.g b)) o
/-- BZ (R97). -/
def execBz (a : BitVec 4) (o : BitVec 14) (s : State) : Out := s.branch (s.g a == 0) o
/-- BNZ (R97). -/
def execBnz (a : BitVec 4) (o : BitVec 14) (s : State) : Out := s.branch (s.g a != 0) o

/-- (g[a] + imm12) mod 65,536 (R98). -/
def State.absTarget (s : State) (a : BitVec 4) (imm : BitVec 12) : Addr := (s.g a).truncate 16 + imm.zeroExtend 16

/-- JMP (R98). -/
def execJmp (a : BitVec 4) (imm : BitVec 12) (s : State) : Out := s.jump (s.absTarget a imm) s.cc id
/-- JAL (R98): the target uses the old g[a], even when d = a. -/
def execJal (d a : BitVec 4) (imm : BitVec 12) (s : State) : Out :=
  s.jump (s.absTarget a imm) s.cc fun s => s.setG d ((s.st.pc + 4).zeroExtend 32) 1
/-- LOOP (R98): the counter falls by one; not zero, the strand loops back. -/
def execLoop (d : BitVec 4) (imm : BitVec 12) (s : State) : Out :=
  let n := s.g d - 1
  if n = 0 then .next (s.setG d 0 1).advance
  else s.jump (s.st.pc - 4 * imm.zeroExtend 16) s.cc fun s => s.setG d n 1

/-- A strand is inside an indivisible clause that has begun (02 R38). -/
def Strand.indivisible (t : Strand) : Bool :=
  (t.run == .ready || t.run == .waiting) && t.fill.isNone && t.buf.valid && hdrIndiv t.buf.hdr && t.cover != .fresh && t.cover != .claimed

/-! ### Grants and spawning (R82, R84–R86) -/

/-- The strand occupies its slot (R84). -/
def Strand.resident (t : Strand) : Bool := t.run != .free
/-- The resident slots. -/
def Core.residents (c : Core) : List (BitVec 3) := slots.filter fun k => (c.strand k).resident

/-- A slot is taken: by a resident strand, or in the core cycle in which its strand was freed (R105). -/
def Core.taken (c : Core) (k : BitVec 3) : Bool := (c.strand k).resident || decide (c.cc < (c.strand k).notBefore)

/-- First fit (R82): the lowest base at which n of `total` indexes are free. -/
def firstFit (total n : Nat) (used : List (Nat × Nat)) : Option Nat :=
  if n = 0 then some 0
  else (List.range total).find? fun b =>
    decide (b + n ≤ total) && used.all fun (ub, un) => decide (b + n ≤ ub) || decide (ub + un ≤ b)

/-- Granules of 4 vector registers for a count (R82). -/
def granules (v : BitVec 5) : Nat := (v.toNat + 3) / 4

/-- The grant of an entry: slot, vector granule base, tile base and accumulator base, when all can be satisfied at once
and the cap allows (R82, R84, R86). -/
def Core.grant (c : Core) (e : Entry) : Option (BitVec 3 × Nat × Nat × Nat) :=
  let r := (slots.filter c.taken).map c.strand
  if c.cap.toNat ≤ r.length then none
  else match slots.find? fun k => !c.taken k with
    | none => none
    | some k =>
      match firstFit 8 (granules e.v) (r.map fun t => (t.vbase / 4, t.vgrant / 4)),
            firstFit 8 e.t.toNat (r.map fun t => (t.tbase, t.tgrant)),
            firstFit 4 e.a.toNat (r.map fun t => (t.abase, t.agrant)) with
      | some v, some t, some a => some (k, v, t, a)
      | _, _, _ => none

/-- STATUS of a new strand (Table 4.2). -/
def mkStatus (abase tbase vbase : Nat) (e : Entry) (no : BitVec 4) (k : BitVec 3) : Word :=
  BitVec.ofNat 32 (abase * 2 ^ 28 + tbase * 2 ^ 25 + vbase * 2 ^ 22 + e.a.toNat * 2 ^ 19 + e.t.toNat * 2 ^ 15
    + 4 * granules e.v * 2 ^ 10 + e.pri.toNat * 2 ^ 8 + no.toNat * 16 + k.toNat)

/-- The state of a new strand (R86). -/
def newStrand (cc : Nat) (no : BitVec 4) (e : Entry) (k : BitVec 3) (v t a : Nat) (g1 g2 : Word) : Strand :=
  { Strand.reset with
    run := .ready, pc := e.addr, g := wr (wr (Vector.replicate 16 0) (1 : BitVec 4) g1) (2 : BitVec 4) g2,
    fill := some (mkFill e.addr .enter (cc + 1)), notBefore := cc + 1, status := mkStatus a t v e no k, stamp := cc, trapEntry := e.trap,
    fsel := k }

/-- A granted request's new strand. -/
def Core.spawn (c : Core) (no : BitVec 4) (e : Entry) (g : BitVec 3 × Nat × Nat × Nat) (g1 g2 : Word) : Core :=
  { c.setStrand g.1 (newStrand c.cc no e g.1 g.2.1 g.2.2.1 g.2.2.2 g1 g2) with grantHeld := true, exitRep := .none }

/-- The entry of a number in the core's entry table (R81). -/
def Core.entry (c : Core) (e : BitVec 4) : Option Entry := rd c.entries e

/-- The spawn queue's head is granted when it can be (R85): the new strand starts, and a waiting SPAWN gets its slot. The
spec gives the write of g[d] in the cycle c of the grant and no cycle in which the SPAWN's strand is ready: the model makes it
ready from c + 1, as R103 does (DESIGN CHOICE, log entry 48). -/
def Core.spawnGrant (c : Core) : Core :=
  match c.spawnQ with
  | [] => c
  | q :: rest =>
    if c.grantHeld then c
    else match c.entry q.entry with
      | none => { c with spawnQ := rest }
      | some e => match c.grant e with
        | none => c
        | some g =>
          let c := ({ c with spawnQ := rest }).spawn q.entry e g q.g1 q.g2
          match q.waiter with
          | none => c
          | some (k, d) => c.modStrand k fun t =>
              ((t.putG d (g.1.zeroExtend 32)).mark (.g d) (some (c.cc + 1))).awake (c.cc + 1)

/-- SPAWN and SPAWN.NW (R104). The trigger spawns of its core cycle enter the queue behind it (R85). -/
def execSpawn (d a : BitVec 4) (n : BitVec 1) (e : BitVec 4) (s : State) : Out :=
  let c := s.me
  match c.entry e with
  | none => .next (s.trap (mkTrap cNOENT e.toNat))
  | some ent =>
    match (if c.spawnQ = [] ∧ !c.grantHeld then c.grant ent else none) with
    | some g =>
      .next ((s.modMe fun c => c.spawn e ent g (s.g a) (64 + s.slot.zeroExtend 32)).setG d (g.1.zeroExtend 32) 1).advance
    | none =>
      if n = 1 then .next (s.setG d 0xFFFFFFFF 1).advance
      else if 16 ≤ c.spawnQ.length then .next (s.suspend (.spawnRoom d e (s.g a)))
      else .next ((s.suspend (.spawnGrant d)).modMe fun c =>
        { c with spawnQ := c.spawnQ ++ [⟨e, s.g a, 64 + s.slot.zeroExtend 32, some (s.slot, d)⟩] })

/-! ### Ending (R105, R338) -/

/-- A strand's declaration is withdrawn: it gives back an admitted charge whose slot has not begun (R338). -/
def State.withdraw (s : State) (l : Nat) (k : BitVec 3) : State :=
  if ((s.core l).strand k).decl.st = .none then s
  else
    (s.modDomain (domainOf l) fun d =>
      { d with requests := d.requests.filter fun r => !(r.core == l && r.slot == k),
               charges := d.charges.filter fun r => !(r.core == l && r.slot == k && decide (s.dcyc (domainOf l) < 16 * r.at_)) }).modCore l
      fun c => c.modStrand k fun t => { t with decl := Decl.reset }

/-- A strand whose slot is freed: its registers keep their values (R105). The slot serves a spawn from core cycle `from_` on. -/
def Strand.freed (t : Strand) (from_ : Nat) : Strand :=
  { Strand.reset with
    g := t.g, m := t.m, pc := t.pc, status := t.status, stamp := t.stamp, frame := t.frame, fsel := t.fsel, inbind := t.inbind,
    astat := t.astat, undecl := t.undecl, tpr := t.tpr, proj := t.proj, map := t.map, notBefore := from_ }
/-- The slot, its clause buffer and its grants are freed, and its declaration ends (R105, R338). Slot and grants serve a spawn
from core cycle `from_` on. -/
def State.freeSlot (s : State) (l : Nat) (k : BitVec 3) (from_ : Nat) : State :=
  (s.withdraw l k).modCore l fun c =>
    { c.setStrand k ((c.strand k).freed from_) with
      lastGone := c.lastGone || c.lastIssue == some k,
      drainM := c.drainM.map fun w => if w.slot = k then { w with own := false } else w }

/-- An exiting strand ends once its pending entries have cleared (R105). EXIT.SPLICE sets the splice flag also while no successor
is queued, so that one queued later is taken (R105, against R106's 'behaves as EXIT'; DESIGN CHOICE, log entry 48). -/
def State.tryExit (s : State) (l : Nat) (k : BitVec 3) : State :=
  let t := (s.core l).strand k
  match t.hold with
  | .exiting splice =>
    if t.pend = [] ∧ t.rel = [] then
      (s.freeSlot l k ((s.core l).cc + 1)).modCore l fun c => { c with splice := c.splice || splice }
    else s
  | _ => s

/-- EXIT (R105). -/
def execExit (s : State) : Out := .next ((s.modSt fun t => { t with hold := .exiting false }).tryExit s.cur s.slot)
/-- EXIT.SPLICE (R105, R106). -/
def execExitSplice (s : State) : Out := .next ((s.modSt fun t => { t with hold := .exiting true }).tryExit s.cur s.slot)

/-! ### The other strand operations -/

/-- NOP (R100). -/
def execNop (s : State) : Out := .next s.advance
/-- YIELD (R90, R101). -/
def execYield (s : State) : Out := .next (s.modMe fun c => { c with yielded := some (s.slot, c.cc) }).advance
/-- SLEEP (R102). -/
def execSleep (a : BitVec 4) (imm : BitVec 12) (s : State) : Out :=
  let n := s.g a + imm.zeroExtend 32
  if n = 0 then .next s.advance
  else .next (s.suspend (.sleep (s.cc + n.toNat)))

/-- A SLEEP whose cycle has come is ready in that cycle (R102). -/
def Core.sleepEnd (c : Core) (k : BitVec 3) : Core :=
  let t := c.strand k
  match t.wait with
  | .sleep n => if t.run = .waiting ∧ !t.frozen ∧ n ≤ c.cc then c.setStrand k (t.awake c.cc) else c
  | _ => c
/-- SLEEP_END (R102). -/
def execSleepEnd (c k : Nat) (s : State) : Out := .next (s.modCore c fun x => x.sleepEnd (BitVec.ofNat 3 k))

/-- WAITM (R103). -/
def execWaitm (d a : BitVec 4) (s : State) : Out :=
  if s.p a = 0 then .next (s.setG d 64 1).advance
  else .next (s.await (.waitm d (s.p a)))

/-- SEL (R107). -/
def execSel (d a b c : BitVec 4) (s : State) : Out :=
  .next (s.setG d (if s.g c = 0 then s.g b else s.g a) 1).advance

end Sys2Proof.Machine
end

