-- ==== Sys2Proof/Machine/Power.lean ====
section
/-! DEFINITION. Power and time: PHASE, PHASEQ, TIME, TIMEW of major 0x39, and the events of the arbiters, tokens, droop
detectors, over-current holds, clock grants and the time base (13 R334–R352, 01 R15). -/

namespace Sys2Proof.Machine

/-- The domain cycle in which a core's current core cycle begins (R420). -/
def Core.dc (c : Core) : Nat := c.cc + c.stretched

/-! ### Declarations (R338–R340, R348) -/

/-- A division rounded up. -/
def ceilDiv (a b : Nat) : Nat := (a + b - 1) / b
/-- The first slot a request may have (R339). -/
def wantedSlot (issued onset : Nat) : Nat := Nat.max (ceilDiv (issued + 16 * onset) 16) (ceilDiv (issued + 48) 16)
/-- A covered execution whose declaration is withdrawn before it was active becomes uncovered (R340). -/
def Strand.uncover (t : Strand) : Strand :=
  if t.cover = .covered ∧ (t.decl.st = .requested ∨ t.decl.st = .admitted) then
    { t with cover := .uncovered, undecl := satInc t.undecl }
  else t
/-- PHASE (R348). -/
def execPhase (d a : BitVec 4) (s : State) : Out :=
  let w := (s.g a).toNat
  let len := field w 16 16
  if len = 0 then .next (((s.modSt Strand.uncover).withdraw s.cur s.slot).setG d 0 1).advance
  else
    let n := s.me.dc
    let i := field w 12 4
    let s := s.withdraw s.cur s.slot
    let s := s.modDomain (domainOf s.cur) fun x =>
      { x with requests := x.requests ++ [⟨s.cur, s.slot, i + 1, n, wantedSlot n (field w 0 12)⟩] }
    .next ((s.modSt fun t =>
      { t with decl := ⟨.requested, i, len, n, none⟩, phases := t.phases ++ [⟨d, s.cc + 40, n, none⟩] }).awaitG d).advance

/-- The order in which requests are handled: by slot, and those of one slot by column, row and strand slot (R339). -/
def Charge.key (r : Charge) : Nat := (r.issued / 16 * 1024 * 1024 + colOf r.core * 1024 + rowOf r.core) * 8 + r.slot.toNat
/-- Inserts a request behind those of lower or equal key. -/
def insertCharge (r : Charge) : List Charge → List Charge
  | [] => [r]
  | x :: t => if r.key < x.key then r :: x :: t else x :: insertCharge r t
/-- The charge admitted in a slot. -/
def Domain.load (x : Domain) (slot : Nat) : Nat :=
  ((x.charges.filter fun r => r.at_ == slot).map (·.amount)).foldl (· + ·) 0
/-- The slot that takes a request (R339): no more slots can be full than there are charges. -/
def Domain.place (x : Domain) (r : Charge) : Nat :=
  (((List.range (x.charges.length + 1)).map (r.at_ + ·)).find? fun n => decide (x.load n + r.amount ≤ x.admitMax.toNat)).getD r.at_
/-- The start of a request reaches its strand and its reply. -/
def Strand.settle (t : Strand) (issued start : Nat) : Strand :=
  { t with decl := if t.decl.st = .requested ∧ t.decl.issued = issued then { t.decl with start := some start } else t.decl,
           phases := t.phases.map fun p => if p.issued = issued then { p with start := some start } else p }
/-- The arbiter of domain d admits one request (R339). -/
def State.admitOne (d : Nat) (s : State) (r : Charge) : State :=
  let x := s.domain d
  let n := x.place r
  (s.setDomain d { x with charges := x.charges ++ [{ r with at_ := n }] }).modCore r.core fun c =>
    c.modStrand r.slot fun t => t.settle r.issued (16 * n)
/-- ARBITER_SLOT_END (R339): the requests whose slot has ended, in their order; charges of slots before that one are over. -/
def execArbiterSlotEnd (d : Nat) (s : State) : Out :=
  let x := s.domain d
  let now := s.dcyc d / 16
  let due : Charge → Bool := fun r => decide (r.issued / 16 < now)
  let rs := (x.requests.filter due).foldl (fun l r => insertCharge r l) []
  .next (rs.foldl (State.admitOne d) (s.setDomain d
    { x with requests := x.requests.filter fun r => !due r, charges := x.charges.filter fun r => decide (now ≤ r.at_) }))

/-- PHASE_REPLY (R338): 40 core cycles after a PHASE its offset is written and its declaration is admitted. The offset of
one withdrawn before it was handled is open. -/
def execPhaseReply (c k : Nat) (s : State) : Out :=
  let k : BitVec 3 := BitVec.ofNat 3 k
  let x := s.core c
  match takeFirst (fun p : PhaseRep => decide (p.due ≤ x.cc)) (x.strand k).phases with
  | none => .next s
  | some (p, rest) =>
    if (s.domain (domainOf c)).requests.any fun r => r.core == c && r.slot == k && r.issued == p.issued then .next s
    else
      let v : Word := match p.start with | some n => BitVec.ofNat 32 (n - p.issued) | none => Config.freeWord s.free
      .next (({ s with free := s.free + 1 } : State).modCore c fun y => y.modStrand k fun t =>
        let u := t.answer p.d v (x.cc + 1)
        { u with phases := rest,
                 decl := if t.decl.st = .requested ∧ t.decl.issued = p.issued then { t.decl with st := .admitted } else t.decl })
/-- DECLARATION_START (R338). -/
def execDeclarationStart (c k : Nat) (s : State) : Out :=
  let k : BitVec 3 := BitVec.ofNat 3 k
  let d := ((s.core c).strand k).decl
  match d.st, d.start with
  | .admitted, some n =>
    if n ≤ (s.core c).dc then .next (s.modCore c fun x => x.modStrand k fun t => { t with decl := { d with st := .active } }) else .next s
  | _, _ => .next s
/-- DECLARATION_END (R338). -/
def execDeclarationEnd (c k : Nat) (s : State) : Out :=
  let k : BitVec 3 := BitVec.ofNat 3 k
  let d := ((s.core c).strand k).decl
  match d.st, d.start with
  | .active, some n =>
    if n + 256 * d.length ≤ (s.core c).dc then .next (s.modCore c fun x => x.modStrand k fun t => { t with decl := Decl.reset })
    else .next s
  | _, _ => .next s

/-- RDSTAT (Table 13.1). -/
def Domain.rdstat (x : Domain) : Word :=
  BitVec.ofNat 32 (x.div.toNat + 8 * bit x.boost + 16 * bit x.oclim + 32 * x.admitMax.toNat)
/-- PHASEQ selector 0 (R349). -/
def Decl.word (x : Decl) (dc : Nat) : Word :=
  let left := match x.st, x.start with
    | .active, some n => ceilDiv (n + 256 * x.length - dc) 256
    | .none, _ => 0
    | _, _ => x.length
  BitVec.ofNat 32 (left % 65536 + 65536 * bit (x.st == .requested || x.st == .admitted) + 131072 * bit (x.st == .active)
    + 2 ^ 18 * (if x.st = .none then 0 else x.intensity))
/-- PHASEQ (R349). -/
def execPhaseq (d : BitVec 4) (sx : BitVec 2) (s : State) : Out :=
  let x := s.domain (domainOf s.cur)
  let v := if sx = 0 then s.st.decl.word s.me.dc
    else if sx = 1 then BitVec.ofNat 32 (x.load (s.me.dc / 16) + 4096 * x.tokens + 2 ^ 20 * Nat.min x.tokenQ.length 4095)
    else x.rdstat
  s.guard [when (sx == 3) s.illop] (.next (s.setG d v 4).advance)

/-! ### The time base (R336, R337, R350, R351) -/

/-- TIME (R350). -/
def execTime (d : BitVec 4) (s : State) : Out := .next (s.setP d (BitVec.ofNat 64 s.time) 3).advance
/-- TIMEW (R351). -/
def execTimew (a : BitVec 4) (s : State) : Out :=
  if (s.p a).toNat ≤ s.time then .next s.advance
  else .next (s.suspend (.timew (s.p a)))
/-- TIMEW_EXPIRY (R351). -/
def execTimewExpiry (c k : Nat) (s : State) : Out :=
  let k : BitVec 3 := BitVec.ofNat 3 k
  let t := (s.core c).strand k
  match t.wait with
  | .timew n => if t.run = .waiting ∧ !t.frozen ∧ n.toNat ≤ s.time then .next (s.modCore c fun x => x.setStrand k (t.awake x.cc)) else .next s
  | _ => .next s
/-- REFERENCE_LOSS (R337). -/
def execReferenceLoss (s : State) : Out :=
  if s.mgmt.unsync then .next s
  else .next { s with mgmt := { s.mgmt with unsync := true, slew := none,
                                            lossCnt := if s.mgmt.lossCnt = 0xFFFF then 0xFFFF else s.mgmt.lossCnt + 1 } }
/-- REFERENCE_RETURN (R337): the count slews while its phase error is not zero. -/
def execReferenceReturn (phase : Int) (s : State) : Out :=
  if s.mgmt.unsync then
    .next { s with mgmt := { s.mgmt with unsync := false, slew := if phase = 0 then none else some phase } }
  else .next s
/-- SLEW_COMPLETE (R337). -/
def execSlewComplete (s : State) : Out := .next { s with mgmt := { s.mgmt with slew := none } }
/-- TIMEQ (Table 13.2). -/
def Mgmt.timeq (m : Mgmt) : Word :=
  BitVec.ofNat 32 (bit m.unsync + 2 * bit m.slew.isSome + 4 * m.leader.toNat + 65536 * m.lossCnt.toNat)

/-! ### Inrush tokens (R341, R342) -/

/-- The tokens a unit needs. -/
def tokenNeed (vec : Bool) : Nat := if vec then 4 else 8
/-- A request's place: by domain cycle, then column, then row (R342). -/
def insertToken (r : Nat × Nat × Bool) : List (Nat × Nat × Bool) → List (Nat × Nat × Bool)
  | [] => [r]
  | x :: t =>
    if r.1 < x.1 ∨ (r.1 = x.1 ∧ colOf r.2.1 * 1024 + rowOf r.2.1 < colOf x.2.1 * 1024 + rowOf x.2.1) then r :: x :: t
    else x :: insertToken r t
/-- Core l asks for a unit's tokens unless it holds a request (R341). -/
def State.askTokens (s : State) (l : Nat) (vec : Bool) : State :=
  if (s.core l).token.isSome then s
  else (s.modCore l fun c => { c with token := some vec }).modDomain (domainOf l) fun x =>
    { x with tokenQ := insertToken ((s.core l).dc, l, vec) x.tokenQ }
/-- An execution of a class-3 clause whose first instruction cannot issue for want of a unit is covered all the same (R340, R412). -/
def Strand.claim (t : Strand) : Strand :=
  if t.cover = .fresh ∧ hdrClass t.buf.hdr = 3 ∧ t.decl.st ≠ .none then { t with cover := .claimed } else t
/-- The strand of slot k of core l waits for a gated unit (R341). -/
def State.needUnit (s : State) (l : Nat) (k : BitVec 3) (vec : Bool) : State :=
  (s.modCore l fun c => c.modStrand k fun t => { t.claim with run := .waiting, wait := .token vec, waitFrom := s.time }).askTokens l vec
/-- The periods of its row domain's clock that core l has taken part in (R420). -/
def Core.periods (c : Core) : Nat := c.cc + c.stretched
/-- Every listed core of row domain d has taken part in the domain's present clock period. -/
def State.periodOver (s : State) (d : Nat) : Bool :=
  s.cores.all fun e => domainOf e.1 != d || decide (s.dcyc d < e.2.periods)
/-- The core cycle that a grant in domain cycle n falls in (R420). -/
def Core.cycleOf (c : Core) (n : Nat) : Nat := if c.periods ≤ n ∨ c.half then c.cc else c.cc - 1
/-- A unit of a core wakes in core cycle g: the strands that wait for it are ready 4 core cycles later (R341). -/
def Core.wakeUnit (c : Core) (vec : Bool) (g : Nat) : Core :=
  let c := if vec then { c with vecOn := true, vecIdle := 0, token := none } else { c with tenOn := true, tenIdle := 0, token := none }
  { c with strands := c.strands.map fun t =>
      if t.run = .waiting ∧ t.wait = .token vec then { t with run := .ready, wait := .idle, notBefore := g + 4 } else t }
/-- INRUSH_TOKEN_GRANT (R341, R342): strictly in order of arrival, once every request of that domain cycle has been made. -/
def execInrushTokenGrant (d : Nat) (s : State) : Out :=
  let x := s.domain d
  match x.tokenQ with
  | [] => .next s
  | (n, l, vec) :: rest =>
    let k := tokenNeed vec
    if x.tokens < k ∨ (s.dcyc d ≤ n ∧ !s.periodOver d) then .next s
    else
      .next ((s.setDomain d { x with tokenQ := rest, tokens := x.tokens - k, returns := x.returns ++ [(s.dcyc d + 64, k)] }).modCore
        l fun c => c.wakeUnit vec (c.cycleOf (s.dcyc d)))
/-- A core with no request outstanding asks for the unit that a strand of it still waits for (R341). -/
def State.askAgain (s : State) (l : Nat) : State :=
  if (s.core l).token.isSome then s
  else if slots.any fun k => ((s.core l).strand k).wait == .token true then s.askTokens l true
  else if slots.any fun k => ((s.core l).strand k).wait == .token false then s.askTokens l false
  else s
/-- TOKEN_RETURN (R341). -/
def execTokenReturn (d : Nat) (s : State) : Out :=
  let x := s.domain d
  let due : Nat × Nat → Bool := fun r => decide (r.1 ≤ s.dcyc d)
  .next (s.setDomain d { x with tokens := x.tokens + ((x.returns.filter due).map (·.2)).foldl (· + ·) 0,
                                returns := x.returns.filter fun r => !due r })
/-- UNIT_GATE (R341): u = 0 the vector unit, else the tensor unit. -/
def execUnitGate (c u : Nat) (s : State) : Out :=
  .next (s.modCore c fun x =>
    if u = 0 then (if x.vecOn ∧ 256 ≤ x.vecIdle then { x with vecOn := false, vecIdle := 0 } else x)
    else if x.tenOn ∧ 1024 ≤ x.tenIdle then { x with tenOn := false, tenIdle := 0 } else x)

/-! ### Droop (R343, R344) -/

/-- DROOP_ALARM (R344): the cluster's supply is mv below nominal. -/
def execDroopAlarm (h mv : Nat) (s : State) : Out :=
  let u := s.hub h
  if u.drth = 0 ∨ mv ≤ u.drth.toNat then .next s
  else
    let s := s.setHub h { u with monitors := u.monitors.map fun m => if m.selects 3 0 0 then m.take mv else m }
    .next ((hubCores h).foldl (fun s l => s.modCore l fun c => { c with stretchLeft := u.stretch.toNat + 1, halfLeft := 0 }) s)
/-- STRETCH_END (R344): the halved window begins; halfLeft is 2 × (its cycles left + 1), plus 1 in the cycle of a pair that
does not issue. -/
def execStretchEnd (c : Nat) (s : State) : Out :=
  if (s.core c).stretchLeft = 1 then
    .next (s.modCore c fun x => { x with stretchLeft := 0, halfLeft := 2 * ((s.hub (hubOf c)).halvewin.toNat + 1) })
  else .next s
/-- HALVED_WINDOW_END (R344). -/
def execHalvedWindowEnd (c : Nat) (s : State) : Out :=
  if (s.core c).halfLeft / 2 = 1 then .next (s.modCore c fun x => { x with halfLeft := 0 }) else .next s

/-! ### Clock grants and over-current (01 R15, R335, R345) -/

/-- OC of OCAUSE. -/
def Mgmt.oc (m : Mgmt) : Bool := m.ocause.getLsbD 0
/-- The skein of a record stands on a core of domain d, or is being saved from it: before its first acceptance there a successor
does not, nor a predecessor behind its last. -/
def State.dwells (s : State) (p : PartRec) (d : Nat) : Bool :=
  p.st == .freezing || p.st == .saving || p.cores.any fun l => domainOf l == d && (s.core l).skein == p.recVa
/-- The grant of domain d (01 R15, R345): the fastest request of the resident skeins, but ÷2 under a hold; boost if all ask for
it, OC = 0 and no hold stands. -/
def State.grantOf (s : State) (d : Nat) : BitVec 3 × Bool :=
  let asks := (s.mgmt.parts.filter fun p => p.resident && p.domains.contains d && s.dwells p d).map (·.rowdiv.toNat)
  let held := (s.domain d).oclim
  let div := if asks = [] then 7 else asks.foldl (fun m r => Nat.min m (r - 1)) 7
  let div := if held then Nat.max div 1 else div
  (BitVec.ofNat 3 div, asks != [] && asks.all (· == 0) && !s.mgmt.oc && !held)
/-- The dealer or the power manager asks for domain d's grant anew. -/
def State.regrant (s : State) (d : Nat) : State :=
  let g := s.grantOf d
  s.modDomain d fun x => { x with want := if (x.div, x.boost) = g then none else some g, settling := x.settling && g.2 }
/-- Row domain d runs at this divider and boost. Where they change, the tick edges take another phase against its clock edges (R336). -/
def State.reclock (s : State) (d : Nat) (v : BitVec 3) (b : Bool) : State :=
  let x := s.domain d
  if (x.div, x.boost) = (v, b) then s
  else ({ s with free := s.free + 1 } : State).setDomain d { x with div := v, boost := b, phase := s.free }
/-- GRANT_CHANGE (R335): at a clock edge; a change to boost first raises the supply. -/
def execGrantChange (d : Nat) (s : State) : Out :=
  match (s.domain d).want with
  | none => .next s
  | some (_, true) => .next (s.modDomain d fun x => { x with settling := true })
  | some (v, false) => .next ((s.reclock d v false).modDomain d fun x => { x with want := none, settling := false })
/-- BOOST_SUPPLY_SETTLED (R335). -/
def execBoostSupplySettled (d : Nat) (s : State) : Out :=
  match (s.domain d).want, (s.domain d).settling with
  | some (v, true), true => .next ((s.reclock d v true).modDomain d fun x => { x with want := none, settling := false })
  | _, _ => .next s

/-- The row domains of the grid. -/
def Mgmt.domainNums (m : Mgmt) : List Nat := List.range (m.gridR / 8)
/-- A row domain has a placed core on a reticle: reticles are 152 by 84 sites, 7 in a row (15 R388, R397). -/
def Mgmt.onReticle (m : Mgmt) (ret d : Nat) : Bool :=
  (List.range 8).any fun r =>
    let l := (8 * d + r) * 1024
    m.placed l && decide ((m.site l).2 / 84 = ret / 7) &&
      (List.range m.gridC).any fun c => decide ((m.site (l + c)).1 / 152 = ret % 7)
/-- OVER_CURRENT_ALARM (R345): boost is withdrawn everywhere, the reticle's row domains are held at ÷2 for 1 ms, and the
alarm is latched and posted. -/
def execOverCurrentAlarm (reticle : Nat) (s : State) : Out :=
  if 84 ≤ reticle then .next s
  else
    let m := s.mgmt
    let o := m.ocause.toNat
    let new := 1 + 2 * (if m.oc then field o 1 7 else reticle) + 256 * Nat.min (field o 8 8 + 1) 255
    let s := ({ s with mgmt := { m with ocause := BitVec.ofNat 32 new, ocHolds := m.ocHolds ++ [(reticle, s.time + 1000000)] } } : State).alert alertOc
    .next (m.domainNums.foldl (fun s d =>
      let held := m.onReticle reticle d
      let x := s.domain d
      ((s.reclock d (if held ∧ x.div = 0 then 1 else x.div) false).modDomain d fun x => { x with oclim := x.oclim || held }).regrant d) s)
/-- OC_HOLD_END (R345): 1 ms after the alarm; a domain that no other hold covers runs free again. -/
def execOcHoldEnd (reticle : Nat) (s : State) : Out :=
  match takeFirst (fun r : Nat × Nat => r.1 == reticle && decide (r.2 ≤ s.time)) s.mgmt.ocHolds with
  | none => .next s
  | some (_, rest) =>
    let m := { s.mgmt with ocHolds := rest }
    .next (m.domainNums.foldl (fun s d =>
      let x := s.domain d
      if x.oclim ∧ !rest.any fun r => m.onReticle r.1 d then (s.setDomain d { x with oclim := false }).regrant d else s)
      { s with mgmt := m })
/-- OCAUSE written: a 1 to OC clears the register (Table 13.7). -/
def Mgmt.writeOcause (m : Mgmt) (v : Word) : Mgmt := if v.getLsbD 0 then { m with ocause := 0 } else m
/-- OCAUSE_WRITE (R345). -/
def execOcauseWrite (v : BitVec 32) (s : State) : Out := .next { s with mgmt := s.mgmt.writeOcause v }

end Sys2Proof.Machine
end

