-- ==== Sys2Proof/Machine/System.lean ====
section
/-! DEFINITION. System instructions: major 0x3C, the spawning of handlers and the filling of clauses (02 R36, R40–R43, 14
R357, R358, R377–R382). -/

namespace Sys2Proof.Machine

/-! ### Stopping on purpose (R378) -/

/-- TRAP (R378). -/
def execTrap (imm : BitVec 12) (s : State) : Out := .next (s.trap (mkTrap cTRAP imm.toNat))
/-- BRK (R378): a management alert is posted too. -/
def execBrk (imm : BitVec 12) (s : State) : Out := .next ((s.trap (mkTrap cBRK imm.toNat)).alert alertBrk)
/-- HALT (R378). -/
def execHalt (imm : BitVec 12) (s : State) : Out := .next (s.trap (mkTrap cHALT imm.toNat))

/-! ### Clause fills (R36, R40–R43) -/

/-- R142 for the bytes from a to b that a fill covers, and then the error of a word it reads (R42, R43): BOBST of the first
failing byte, then MEMUE. -/
def Core.fillFault (c : Core) (a n : Nat) : Option Trap :=
  match (span a n).findSome? fun x =>
      (bobNums.find? fun i => (c.bobbin i).valid && !(c.bobbin i).readOk x).map fun i => mkTrap cBOBST (bobInfo x i (c.bobbin i) 1) with
  | some f => some f
  | none => (c.ueAt a n).map fun x => mkTrap cMEMUE (x * 65536)
/-- The header's place, which a fill fault and ILLCL 4 name (R357). Their CAUSE.INDIV is 0: the instruction that INDIV speaks of
has not issued (DESIGN CHOICE, log entry 48). -/
def headerPlace (a : Addr) : Place := ⟨a, a, 0, false⟩
/-- The place of the last instruction of the clause in the buffer, which ILLCL 2 names (Table 2.5). -/
def Strand.lastPlace (t : Strand) : Place :=
  let n := hdrCount t.buf.hdr
  ⟨t.buf.addr + BitVec.ofNat 16 (4 * n), t.buf.addr, n - 1, hdrIndiv t.buf.hdr⟩
/-- The fault of a fill's first read: an unreadable header, or a word that is no header (R36, R42, R43). -/
def Core.headFault (c : Core) (t : Strand) (f : Fill) : Option (Trap × Place) :=
  let a := f.addr.toNat
  match c.fillFault a 4 with
  | some x => some (x, headerPlace f.addr)
  | none =>
    if a % 4 = 0 ∧ isHeader (c.word f.addr) then none
    else match f.why with
      | .fall => some (mkTrap cILLCL (2 + a * 65536), t.lastPlace)
      | .jump p => some (mkTrap cILLCL (3 + a * 65536), p)
      | _ => some (mkTrap cILLCL (3 + a * 65536), headerPlace f.addr)
/-- The 64-bit words that a clause with this header spans (R41), none of them past the last of SRAM. -/
def clauseSpan (a : Addr) (h : Word) : List Nat :=
  let lo := a.toNat / 8
  (List.range (Nat.min ((a.toNat + 4 * hdrCount h + 3) / 8) 8191 - lo + 1)).map (lo + ·)
/-- The bytes of word w that the clause covers: the first, and how many (R42). -/
def coveredBytes (a : Addr) (h : Word) (w : Nat) : Nat × Nat :=
  let lo := Nat.max (8 * w) a.toNat
  (lo, Nat.min (8 * w + 8) (a.toNat + 4 * (hdrCount h + 1)) - lo)
/-- The fault of a clause fill as memory stands: of its first read, of a word it covers, or of its header's form. -/
def Core.clauseFault (c : Core) (t : Strand) (f : Fill) : Option (Trap × Place) :=
  match c.headFault t f with
  | some x => some x
  | none =>
    let h := c.word f.addr
    match (clauseSpan f.addr h).findSome? fun w => c.fillFault (coveredBytes f.addr h w).1 (coveredBytes f.addr h w).2 with
    | some x => some (x, headerPlace f.addr)
    | none => if malformed h f.addr then some (mkTrap cILLCL (4 + f.addr.toNat * 65536), headerPlace f.addr) else none
/-- A plain copy that issued before core cycle n has still to write word w, which a fill that first reads in that cycle must
see written (R42). -/
def Copy.owes (p : Copy) (n w : Nat) : Bool :=
  p.bob.isNone && decide (p.issued < n) && decide (p.pos / 2 ≤ (w + 8192 - p.dst.toNat / 8) % 8192) &&
    decide ((w + 8192 - p.dst.toNat / 8) % 8192 < p.n / 8)
/-- A strand whose fill stands can have it begun: a ready one, or one that waits or is held behind its clause's last
instruction, if the fill raises no fault, which would be raised in the instruction's wait. -/
def Core.fillMay (c : Core) (k : BitVec 3) : Bool :=
  let t := c.strand k
  match t.fill with
  | none => false
  | some f => !c.frozen && !t.frozen && decide (f.asked ≤ c.cc) &&
    (t.run == .ready && t.hold == .none || (t.run == .waiting || t.run == .ready) && (c.clauseFault t f).isNone)
/-- A fill has begun. -/
def Strand.filling (t : Strand) : Bool := match t.fill with | some f => f.first.isSome | none => false
/-- The core cycle from which a strand's fill can be served. -/
def Strand.asked (t : Strand) : Nat := match t.fill with | some f => f.asked | none => 0
/-- The slot that the fill port serves: the fill in progress, else the first in request order, by slot within a cycle (R41). -/
def Core.nextFill (c : Core) : Option (BitVec 3) :=
  match slots.find? fun k => (c.strand k).filling with
  | some k => some k
  | none => leastBy (fun k => (c.strand k).asked) (slots.filter c.fillMay)
/-- Word i of the 32-bit words that start at address a, among 64-bit words read from word a / 8 on. -/
def fillWord (a : Addr) (got : List Dword) (i : Nat) : Word :=
  let x := a.toNat / 4 % 2 + i
  BitVec.ofNat 32 ((got.getD (x / 2) 0).toNat / 2 ^ (32 * (x % 2)))
/-- The clause of a fill that has read every word stands in the buffer, and its first instruction can issue in the next core
cycle (R40, R41); a malformed header raises ILLCL 4 (R36). -/
def Core.fillEnd (c : Core) (k : BitVec 3) (f : Fill) : Core :=
  let t := c.strand k
  if malformed f.hdr f.addr then c.setStrand k (t.stop (mkTrap cILLCL (4 + f.addr.toNat * 65536)) (headerPlace f.addr))
  else
    let n := hdrCount f.hdr
    let i := match f.why with
      | .resume i => if hdrIndiv f.hdr then 0 else Nat.min i n
      | .thaw i => Nat.min i n
      | _ => 0
    let cover := match f.why with | .thaw _ => t.cover | _ => .fresh
    let pc := f.addr + BitVec.ofNat 16 (4 * (i + 1))
    c.setStrand k { t with
      buf := ⟨true, f.addr, f.hdr, (List.range n).map fun j => fillWord f.addr f.got (j + 1)⟩, pc := pc, cover := cover,
      notBefore := Nat.max t.notBefore (c.cc + 1), fill := if i = n then some (mkFill pc .fall (c.cc + 1)) else none }
/-- A fault that a fill meets stops its strand; of a strand that still waits or is held, the fill is given up until it has
gone on. -/
def Core.fillStop (c : Core) (k : BitVec 3) (f : Fill) (x : Trap × Place) : Core :=
  let t := c.strand k
  if t.run = .ready ∧ t.hold = .none then c.setStrand k (t.stop x.1 x.2)
  else c.setStrand k { t with fill := some (mkFill f.addr f.why f.asked) }
/-- The reads of one core cycle: at most this many words, up to the first whose bank is taken or that a copy still has to
write (R41, R42). A word that cannot be read, or whose error cannot be corrected, stops the strand (R43). -/
def Core.fillSteps (c : Core) (k : BitVec 3) (f : Fill) : Nat → Core
  | 0 => c.modStrand k fun t => { t with fill := some f }
  | n + 1 =>
    match (clauseSpan f.addr f.hdr)[f.got.length]? with
    | none => c.fillEnd k f
    | some w =>
      if c.banks.contains (w % 16) ∨ c.copies.any fun p => p.owes (f.first.getD c.cc) w then c.modStrand k fun t => { t with fill := some f }
      else
        let b := coveredBytes f.addr f.hdr w
        match c.fillFault b.1 b.2 with
        | some x => c.fillStop k f (x, headerPlace f.addr)
        | none =>
          let got := f.got ++ [BitVec.ofNat 64 (c.load (8 * w) 8)]
          let c := { c.countCe (8 * w) 8 with banks := (w % 16) :: c.banks }
          let f := { f with got := got, first := some (f.first.getD c.cc) }
          if got.length = (clauseSpan f.addr f.hdr).length then c.fillEnd k f else Core.fillSteps c k f n
/-- The fill port's turn for the strand of slot k (R41): the header decides how far the fill goes. Where several faults apply,
the header's BOBST or MEMUE comes first, then ILLCL 2 or 3, then BOBST or MEMUE of the words in the order they are read, and
ILLCL 4 last, with the last read (DESIGN CHOICE, log entry 48). -/
def Core.fillTurn (c : Core) (k : BitVec 3) : Core :=
  let c := { c with filled := true }
  let t := c.strand k
  match t.fill with
  | none => c
  | some f =>
    if f.first.isSome then c.fillSteps k f 4
    else if c.banks.contains (f.addr.toNat / 8 % 16) ∨ c.copies.any fun p => p.owes c.cc (f.addr.toNat / 8) then c
    else match c.headFault t f with
      | some x => c.fillStop k f x
      | none => c.fillSteps k { f with hdr := c.word f.addr } 4
/-- CLAUSE_FILL (R41): the one fill port serves the strand whose turn it is, once in a core cycle. -/
def execClauseFill (c k : Nat) (s : State) : Out :=
  let k : BitVec 3 := BitVec.ofNat 3 k
  let x := s.core c
  if x.filled ∨ x.nextFill ≠ some k then .next s else .next (s.modCore c fun x => x.fillTurn k)

/-! ### Handlers (R358, R379, R380) -/

/-- The handler of a stopped strand, or the offer of its record to the hub (R358). -/
def Core.spawnHandler (c : Core) (k : BitVec 3) : Core :=
  let t := c.strand k
  match t.trapEntry, slots.find? fun j => !c.taken j with
  | some a, some j =>
    let e : Entry := ⟨a, 0, 0, 0, 3, none, false⟩
    let h := newStrand c.cc t.entryNo e j 0 0 0 (k.zeroExtend 32) (BitVec.ofNat 32 (256 + t.frame.cause.toNat))
    let h := { h.putG 3 t.frame.einfo with handler := true, fsel := k }
    { (c.setStrand k { t with handlerDue := false, frame := { t.frame with handled := true } }).setStrand j h with
        grantHeld := true, exitRep := .none }
  | _, _ => c.setStrand k { t with handlerDue := false, offer := true, offered := 0, fault := none }
/-- HANDLER_SPAWN (R358). -/
def execHandlerSpawn (c k : Nat) (s : State) : Out :=
  let k : BitVec 3 := BitVec.ofNat 3 k
  let t := (s.core c).strand k
  if t.handlerDue ∧ t.run = .stopped ∧ !t.frozen then .next (s.modCore c fun x => x.spawnHandler k) else .next s

/-- ERETX (R379). -/
def eretx (sub x : Nat) : Trap := mkTrap cERETX (sub + 65536 * x)
/-- The slot check of both ERET forms: subcode 1 (R379, R380). -/
def State.slotFault (s : State) (a : BitVec 4) : Option Trap :=
  let k : BitVec 3 := (s.g a).truncate 3
  when (decide (8 ≤ (s.g a).toNat) || k == s.slot || (s.me.strand k).run != .stopped) (eretx 1 0)
/-- The index at which slot k resumes (R379). -/
def Core.resumeAt (c : Core) (t : Strand) (skip : Bool) : Nat :=
  if hdrIndiv (c.word t.frame.eclb) then 0 else t.frame.eidx.toNat + bit skip
/-- A stopped strand resumes in core cycle cc at index i of the clause at a with header h, or past its end (R379). -/
def Strand.resume (t : Strand) (cc : Nat) (a : Addr) (h : Word) (i : Nat) : Strand :=
  let t := { t with run := .ready, handlerDue := false, offer := false, offered := 0, fault := none, notBefore := cc }
  if i = hdrCount h then
    let pc := a + BitVec.ofNat 16 (4 * (hdrCount h + 1))
    { t with pc := pc, buf := ⟨false, a, h, []⟩, fill := some (mkFill pc .fall cc) }
  else { t with pc := a, buf := ⟨false, a, h, []⟩, fill := some (mkFill a (.resume i) cc) }
/-- ERET and ERET.SKIP: slot s is ready from the core cycle after, behind what the core's CSR instructions perform then (R379). -/
def execEret (a : BitVec 4) (sx : BitVec 1) (s : State) : Out :=
  let k : BitVec 3 := (s.g a).truncate 3
  let c := s.me
  let t := c.strand k
  let lb := t.frame.eclb
  let h := c.word lb
  let i := c.resumeAt t (sx == 1)
  s.guard
    [s.slotFault a, when (c.fillFault lb.toNat 4).isSome (eretx 4 lb.toNat),
     when (!c.isTarget lb || malformed h lb) (eretx 3 0),
     when (decide (hdrCount h < i) || (sx == 0 && i == hdrCount h)) (eretx 2 0)] <|
    .next (s.modMe fun c => { c with later := c.later ++ [(c.cc + 1, .resume k lb h i)] }).advance
/-- ERET.REL: the slot is freed in the core cycle after (R380). -/
def execEretRel (a : BitVec 4) (s : State) : Out :=
  s.guard [s.slotFault a] (.next (s.modMe fun c => { c with later := c.later ++ [(c.cc + 1, .release ((s.g a).truncate 3))] }).advance)

/-! ### FREEZE and LAUNCH (R381, R382) -/

/-- FREEZE (R381): the dealer's answer is awaited. -/
def execFreeze (d a : BitVec 4) (s : State) : Out :=
  s.guard [when (decide (64 ≤ (s.g a).toNat)) s.illop, when (!s.me.priv) (mkTrap cPRIV 0)] <|
    .next (({ s with mgmt := { s.mgmt with freezeAns := s.mgmt.freezeAns ++ [(s.cur, s.slot, d, s.g a)] } } : State).awaitG d).advance
/-- LAUNCH (R382): the strand then waits for the reply (R301). -/
def execLaunch (d a : BitVec 4) (s : State) : Out :=
  let p := s.p a
  s.guard [when (decide (p.toNat % 128 ≠ 0)) (misal p.toNat 7), s.me.plbCheck 0 [byteRange p 128], s.me.plbCheck 1 [byteRange p 128]] <|
    .next ((s.sendEdge (s.ebrick s.cur) true (.launch d p.toNat 0 0) (wordPieces p.toNat 128 [])).holdFor .atomic)

end Sys2Proof.Machine
end

