-- ==== Sys2Proof/Machine/Csr.lean ====
section
/-! DEFINITION. Control and status registers: major 0x3D and the map of Table 14.9 (14 R359, R376, R383). -/

namespace Sys2Proof.Machine

/-! ### The map (Table 14.9) -/

/-- A CSR number of the table. -/
def csrListed (n : Nat) : Bool :=
  decide (n ≤ 4) || (decide (8 ≤ n) && decide (n ≤ 0xE)) || (decide (0x10 ≤ n) && decide (n ≤ 0x1F)) ||
    (decide (0x100 ≤ n) && decide (n ≤ 0x108)) || (decide (0x110 ≤ n) && decide (n ≤ 0x12F)) ||
    (decide (0x200 ≤ n) && decide (n ≤ 0x203)) || n == 0x280 || (decide (0x300 ≤ n) && decide (n ≤ 0x302))
/-- PLB0 to PLB15. -/
def isPlb (n : Nat) : Bool := decide (0x110 ≤ n) && decide (n ≤ 0x12F)
/-- A read is privileged. -/
def csrReadPriv (n : Nat) : Bool := n == 0x106 || n == 0x107 || n == 0x108 || isPlb n || n == 0x203 || n == 0x302
/-- A write form is privileged: its write is, or the read of the value it returns is. -/
def csrWritePriv (n : Nat) : Bool :=
  csrReadPriv n || n == 3 || n == 0x102 || n == 0x103 || n == 0x105 || (decide (0x200 ≤ n) && decide (n ≤ 0x203))
/-- A hub's register. -/
def isHubCsr (n : Nat) : Bool := decide (0x200 ≤ n) && decide (n ≤ 0x203)
/-- MODID (Table 14.13). -/
def modId : Word := 0x01020331

/-! ### Reading -/

/-- CAUSE of Table 14.2. -/
def Frame.causeWord (f : Frame) : Word := BitVec.ofNat 32 (f.cause.toNat + 256 * bit f.indiv + 512 * bit f.handled)
/-- Frame register n − 0x008 of a strand; a free slot reads 0 (R359). -/
def Strand.frameCsr (t : Strand) (n : Nat) : Word :=
  if !t.resident then 0
  else if n = 8 then t.frame.causeWord else if n = 9 then t.frame.epc.zeroExtend 32 else if n = 0xA then t.frame.eclb.zeroExtend 32
  else if n = 0xB then t.frame.eidx.zeroExtend 32 else if n = 0xC then t.frame.einfo
  else if n = 0xD then t.frame.eaddr.truncate 32 else (t.frame.eaddr >>> 32).truncate 32
/-- CTAG, 64 bits (R145). -/
def Core.ctag (c : Core) : Nat := (tagNums.map fun k => if (c.tag k).st = .set then 2 ^ k.toNat else 0).foldl (· + ·) 0
/-- LXY of Table 14.9. -/
def lxy (l : Nat) : Word := BitVec.ofNat 32 (colOf l + 65536 * rowOf l)
/-- PLB entry of a CSR number, and whether it names the high word. -/
def plbIx (n : Nat) : BitVec 4 × Bool := (BitVec.ofNat 4 ((n - 0x110) / 2), n % 2 == 1)
/-- The value of a CSR other than a hub's, seen by the strand of slot k of core l. -/
def State.csr (s : State) (l : Nat) (k : BitVec 3) (n : Nat) : Word :=
  let c := s.core l
  let t := c.strand k
  let o := c.strand t.fsel
  if n = 0 then t.status else if n = 1 then t.inbind else if n = 2 then t.astat else if n = 3 then t.undecl
  else if n = 4 then t.fsel.zeroExtend 32
  else if n ≤ 0xE then o.frameCsr n
  else if n ≤ 0x1F then (if o.resident then o.getG (BitVec.ofNat 4 n) else 0)
  else if n = 0x100 then BitVec.ofNat 32 c.ctag else if n = 0x101 then BitVec.ofNat 32 (c.ctag / 2 ^ 32)
  else if n = 0x102 then c.cap.zeroExtend 32 else if n = 0x103 then c.pol.zeroExtend 32
  else if n = 0x104 then lxy l else if n = 0x105 then c.sramce else if n = 0x106 then c.srSeed else if n = 0x107 then c.sigSeed
  else if n = 0x108 then BitVec.ofNat 32 (s.ebrick l)
  else if isPlb n then
    let e := rd c.plb (plbIx n).1
    if (plbIx n).2 then (e >>> 32).truncate 32 else e.truncate 32
  else if n = 0x280 then (s.domain (domainOf l)).rdstat
  else if n = 0x300 then modId else if n = 0x301 then s.mgmt.timeq else s.mgmt.ocause

/-! ### Writing -/

/-- The value a write form gives a field of old value `old` (R383). -/
def csrNew (op : BitVec 2) (old v : Word) : Word := if op = 1 then v else if op = 2 then old ||| v else old &&& ~~~v
/-- A PLB entry as it is stored (R267). -/
def plbStore (v : Dword) : Dword :=
  let n := v.toNat
  let sz := field n 36 6
  let low := n % 2 ^ 45
  BitVec.ofNat 64 (if n.testBit 63 ∧ sz ≤ 36 ∧ n % 2 ^ sz = 0 then low + 2 ^ 63 else low)
/-- SRSEED written (R70). -/
def Core.seed (c : Core) (v : Word) : Core := { c with srSeed := v, srDrain := srLoad v, srVcvt := srLoad (v ^^^ 0x55555555) }
/-- A strand's own register written. -/
def Strand.setCsr (t : Strand) (n : Nat) (op : BitVec 2) (v : Word) : Strand :=
  if n = 1 then { t with inbind := csrNew op t.inbind v }
  else if n = 2 then (if op = 2 then t else { t with astat := astatClear t.astat v })
  else if n = 3 then { t with undecl := csrNew op t.undecl v }
  else if n = 4 then { t with fsel := (csrNew op (t.fsel.zeroExtend 32) v).truncate 3 }
  else t
/-- A frame register or a window register of a stopped strand written (R356, R359). -/
def Strand.setFrame (t : Strand) (n : Nat) (op : BitVec 2) (v : Word) : Strand :=
  if t.run ≠ .stopped then t
  else if n = 0xA then { t with frame := { t.frame with eclb := (csrNew op (t.frame.eclb.zeroExtend 32) v).truncate 16 } }
  else if n = 0xB then { t with frame := { t.frame with eidx := (csrNew op (t.frame.eidx.zeroExtend 32) v).truncate 6 } }
  else if n < 0x10 then t
  else let r : BitVec 4 := BitVec.ofNat 4 n; t.putG r (csrNew op (t.getG r) v)
/-- A core register written. -/
def Core.setCsr (c : Core) (n : Nat) (op : BitVec 2) (v : Word) : Core :=
  let m := fun (bits : Word) => if op = 1 then v else v &&& bits
  if n = 0x102 then
    let x := csrNew op (c.cap.zeroExtend 32) (m 0xF)
    if 1 ≤ x.toNat ∧ x.toNat ≤ 8 then { c with cap := x.truncate 4 } else c
  else if n = 0x103 then
    let x := csrNew op (c.pol.zeroExtend 32) (m 3)
    if x.toNat ≤ 2 then { c with pol := x.truncate 2 } else c
  else if n = 0x105 then { c with sramce := 0 }
  else if n = 0x106 then c.seed (csrNew op c.srSeed v)
  else if n = 0x107 then { c with sigSeed := csrNew op c.sigSeed v }
  else if isPlb n then
    let i := (plbIx n).1
    let e := rd c.plb i
    if (plbIx n).2 then
      let low : Word := (rd c.plbLow i).getD (e.truncate 32)
      let high := csrNew op ((e >>> 32).truncate 32) v
      { c with plb := wr c.plb i (plbStore (high ++ low)), plbLow := wr c.plbLow i none }
    else { c with plbLow := wr c.plbLow i (some (csrNew op (e.truncate 32) v)) }
  else c
/-- A CSR other than a hub's written by the strand of slot k of core l. A 1 written to OC clears OCAUSE (Table 13.7). -/
def State.setCsr (s : State) (l : Nat) (k : BitVec 3) (n : Nat) (op : BitVec 2) (v : Word) : State :=
  if n = 0x302 then
    if op ≠ 3 ∧ v.getLsbD 0 then { s with mgmt := { s.mgmt with ocause := 0 } } else s
  else
    s.modCore l fun c =>
      let t := c.strand k
      if n ≤ 4 then c.setStrand k (t.setCsr n op v)
      else if n ≤ 0x1F then (if t.fsel = k ∧ 0x10 ≤ n then c else c.modStrand t.fsel fun o => o.setFrame n op v)
      else c.setCsr n op v

/-! ### The instructions (R376, R383) -/

/-- A CSR instruction of a strand or core register is performed: its write, then its result (R376). -/
def State.performCsr (s : State) (l : Nat) (o : CsrOp) : State :=
  let n := o.csr.toNat
  let s := if o.op = 0 then s else s.setCsr l o.slot n o.op o.val
  s.modCore l fun c => c.modStrand o.slot fun t => t.putG o.d (s.csr l o.slot n)
/-- CSRR, CSRW, CSRS and CSRC (R383): unlisted, then privilege. A hub's register takes the round trip to the hub. -/
def State.csrInstr (s : State) (op : BitVec 2) (d : BitVec 4) (n : BitVec 12) (v : Word) : Out :=
  s.guard
    [when (!csrListed n.toNat) s.illop,
     when (!s.me.priv && (if op = 0 then csrReadPriv n.toNat else csrWritePriv n.toNat)) (mkTrap cPRIV 0)] <|
    if isHubCsr n.toNat then
      let s := s.toHub s.cur s.slot (.csr op n d v)
      if op = 0 then .next (s.awaitG d).advance else .next (s.holdFor .hubAck)
    else
      .next ((s.modMe fun c => { c with later := c.later ++ [(c.cc + 2, .csr ⟨s.slot, op, n, d, v⟩)] }).modSt fun t =>
        t.mark (.g d) (some (s.cc + 2))).advance
/-- CSRR (R383). -/
def execCsrr (d : BitVec 4) (c : BitVec 12) (s : State) : Out := s.csrInstr 0 d c 0
/-- CSRW (R383). -/
def execCsrw (d a : BitVec 4) (c : BitVec 12) (s : State) : Out := s.csrInstr 1 d c (s.g a)
/-- CSRS (R383). -/
def execCsrs (d a : BitVec 4) (c : BitVec 12) (s : State) : Out := s.csrInstr 2 d c (s.g a)
/-- CSRC (R383). -/
def execCsrc (d a : BitVec 4) (c : BitVec 12) (s : State) : Out := s.csrInstr 3 d c (s.g a)

end Sys2Proof.Machine
end

