-- ==== Sys2Proof/Machine/Message.lean ====
section
/-! DEFINITION. Sending, receiving and configuring channels: majors 0x22 to 0x24 (07 R196–R211), and the injection buffer
(R181). -/

namespace Sys2Proof.Machine

/-! ### Channel entries (Table 7.3) -/

def routeIn (v : BitVec 16) (p : Nat) : Bool := v.getLsbD p
def routeOut (v : BitVec 16) (p : Nat) : Bool := v.getLsbD (5 + p)
def routeRed (v : BitVec 16) : Bool := v.getLsbD 10
def routeValid (v : BitVec 16) : Bool := v.getLsbD 11
/-- The entry that governs the heads which arrive in this core cycle (R170). -/
def Core.route (c : Core) (ch : BitVec 6) : BitVec 16 := rd c.routes ch
/-- The entry as it has been written last: RCFG.R's write governs arriving heads 2 core cycles later only (R170, R207). -/
def Core.routeNow (c : Core) (ch : BitVec 6) : BitVec 16 :=
  c.later.foldl (fun v l => match l.2 with | .route j w => if j = ch then w else v | _ => v) (c.route ch)
/-- The output ports of an entry. -/
def outPorts (v : BitVec 16) : List Nat := [0, 1, 2, 3, 4].filter (routeOut v)
/-- The trick unit bound to a channel (R185). -/
def Core.unitOf (c : Core) (ch : BitVec 6) : Option (BitVec 3) := slots.find? fun u => (rd c.tricks u).bound == some ch
def Core.unit (c : Core) (u : BitVec 3) : Trick := rd c.tricks u
def Core.setUnit (c : Core) (u : BitVec 3) (t : Trick) : Core := { c with tricks := wr c.tricks u t }

/-- The checks of every send (R197): the local bit of the entry (R167) and a bound unit on a reduce channel (R187). -/
def Core.sendFault (c : Core) (ch : BitVec 6) : Option Trap :=
  let v := c.routeNow ch
  if !(routeValid v && routeIn v 4) then some (chErr 1 ch 0)
  else if routeRed v && (c.unitOf ch).isNone then some (chErr 5 ch 0) else none
/-- A contribution to a trick is B8 or B4 with exactly S blocks (R187). -/
def Core.contribFault (c : Core) (ch : BitVec 6) (f : BitVec 3) (blocks : Nat) : Option Trap :=
  if routeRed (c.routeNow ch) then
    match c.unitOf ch with
    | some u => when (!((f == 1 || f == 2) && blocks == (c.unit u).s)) (chErr 2 ch 0)
    | none => none
  else none

/-- Payload flits of a format from its data bytes and side pairs (Table 7.2). -/
def mkFlits (f : BitVec 3) (bs : List Byte) (side : List (BitVec 16)) : List (BitVec 128 × BitVec 32) :=
  (List.range ((bs.length + 15) / 16)).map fun i =>
    (BitVec.ofNat 128 (ofBytes ((bs.drop (16 * i)).take 16)),
     if f = 1 then (side.getD i 0).zeroExtend 32
     else if f = 2 then side.getD (2 * i + 1) 0 ++ side.getD (2 * i) 0
     else if f = 0 ∧ i % 2 = 0 then (side.getD (i / 2) 0).zeroExtend 32 else 0)
/-- A message of a core on a channel, with its sequence number (R165). -/
def mkMsg (ch : BitVec 6) (q : BitVec 16) (f kind : BitVec 3) (bs : List Byte) (side : List (BitVec 16)) : Msg :=
  ⟨mkHdr ch q f 0 ((bs.length + 15) / 16) (bs.length % 16 == 8) kind, mkFlits f bs side⟩
/-- A message enters the injection buffer (R181), with the next number of its channel (R165). Its head reaches the router two mesh
cycles after the send (Table 7.5), which the model counts as core cycles (log entry 6). -/
def Core.queueMsg (c : Core) (ch : BitVec 6) (f kind : BitVec 3) (bs : List Byte) (side : List (BitVec 16)) : Core :=
  let q := rd c.sendCtr ch
  { c with sendCtr := wr c.sendCtr ch (q + 1), inject := c.inject ++ [.msg (mkMsg ch q f kind bs side) 0 (c.cc + 2)] }
/-- The flits in the injection buffer (R181). -/
def injectFlits (l : List Inject) : Nat := l.foldl (fun n x => match x with | .msg m k _ => n + (m.len + 1 - k) | _ => n) 0
/-- The injection buffer has room for n more flits (R181). -/
def Core.injectRoom (c : Core) (n : Nat) : Bool := decide (injectFlits c.inject + n ≤ 64)
/-- The send port is taken for n core cycles (R197). -/
def State.useSend (s : State) (n : Nat) : State := s.modMe fun c => { c with units := { c.units with sendPort := c.cc + n } }
/-- A send of one message whose checks pass. -/
def State.sendOne (s : State) (ch : BitVec 6) (f kind : BitVec 3) (bs : List Byte) (side : List (BitVec 16)) (blocks : Nat) : Out :=
  s.guard [s.me.sendFault ch, s.me.contribFault ch f blocks] <|
    .next ((s.modMe fun c => c.queueMsg ch f kind bs side).useSend 1).advance

/-- The bytes of consecutive registers from g[r]. -/
def State.regBytes (s : State) (r : BitVec 4) (n : Nat) : List Byte :=
  ((List.range n).map fun i => toBytes 4 (s.g (r + BitVec.ofNat 4 i)).toNat).flatten

/-- SEND and SEND.H (R198). -/
def execSend (c : BitVec 6) (sx : BitVec 4) (f : BitVec 3) (h : BitVec 1) (s : State) : Out :=
  s.sendOne c f 0 (s.regBytes sx (if h = 1 then 2 else 4)) [] 0
/-- SENDV (R199). -/
def execSendv (c : BitVec 6) (f : BitVec 3) (v : BitVec 4) (s : State) : Out :=
  let x := s.v v
  s.sendOne c f 0 (x.image f) (if isB f then [x.sideOf 0, x.sideOf 1] else []) (if isB f then 2 else 0)
/-- TRIG (R198): one flit of kind trigger, word 0 = g[s]. -/
def execTrig (c : BitVec 6) (sx : BitVec 4) (s : State) : Out := s.sendOne c 6 1 (toBytes 4 (s.g sx).toNat ++ [0, 0, 0, 0]) [] 0
/-- The messages of a tile: 16 rows, or two halves of 8 for B16 and BF16 (R200), as data bytes and side pairs. -/
def tileMsgs (f : BitVec 3) (rs : List (List (BitVec 16) × BitVec 16)) : List (List Byte × List (BitVec 16)) :=
  let mk := fun l : List (List (BitVec 16) × BitVec 16) => ((l.map fun r => rowBytes f r.1).flatten, if isB f then l.map (·.2) else [])
  if f = 0 ∨ f = 3 then [mk (rs.take 8), mk (rs.drop 8)] else [mk rs]
/-- SENDT (R200). -/
def execSendt (c : BitVec 6) (t : BitVec 3) (s : State) : Out :=
  let x := s.t t
  let ms := tileMsgs x.fmt x.rowList
  s.guard [s.me.sendFault c, s.me.contribFault c x.fmt (if x.fmt = 0 then 8 else 16)] <|
    .next ((s.modMe fun k => ms.foldl (fun k m => k.queueMsg c x.fmt 0 m.1 m.2) k).useSend 4).advance

/-- The bytes that one message of a SENDB carries at most (R201). -/
def chunkBytes (f : BitVec 3) : Nat := if f = 0 then 480 else 496
/-- SENDB (R201): it takes its place in the channel's order at issue (R181), and its messages their numbers (R165). -/
def execSendb (c : BitVec 6) (sx : BitVec 4) (f : BitVec 3) (k : BitVec 6) (s : State) : Out :=
  let g := s.g sx
  let nw := s.g (sx + 1)
  let n := nw.toNat
  let ma := g.toNat % 65536
  let sa := g.toNat / 65536
  let bs := if isB f then 2 * mw f else 8
  let per := chunkBytes f / bs
  let blocks := n / bs
  let me := s.me
  let badBlocks : Option Trap :=
    if isB f ∧ 0 < n then
      firstFault [if per < blocks then me.contribFault c f per else none,
        if blocks % per = 0 then none else me.contribFault c f (blocks % per), if blocks ≤ per then me.contribFault c f blocks else none]
    else if 0 < n then me.contribFault c f 0 else none
  s.guard
    [me.sendFault c, when (decide (ma % 8 ≠ 0)) (misal ma 3), when (decide (sa % 2 ≠ 0)) (misal sa 1),
     when (decide (n % 8 ≠ 0) || (isB f && decide (n % bs ≠ 0)) || decide (65528 < n)) (mkTrap cMISAL (n % 65536 * 65536 + 15)),
     me.checkRead ma n, if isB f then me.checkRead sa (n / mw f) else none, badBlocks, when (!me.tagFree k) (tagBusy k)] <|
    .next (s.modMe fun x =>
      let q := rd x.sendCtr c
      { x.takeTag k .sendb with
        sendCtr := wr x.sendCtr c (q + BitVec.ofNat 16 ((n + chunkBytes f - 1) / chunkBytes f)),
        inject := x.inject ++ [.sendb ⟨c, BitVec.ofNat 16 ma, BitVec.ofNat 16 sa, n, n, f, k, q, x.cc, none⟩] }).advance

/-! ### The injection buffer and the send engine (R181, R201) -/

def Inject.chan : Inject → BitVec 6
  | .msg m _ _ => m.chan
  | .sendb b => b.ch
def Inject.isSendb : Inject → Bool
  | .sendb _ => true
  | _ => false
/-- The core holds a credit for a channel at the router's local input, or the router one at the core's port: each buffer takes 4
flits of it (R168). -/
def Core.credit (c : Core) (link : Nat) (ch : BitVec 6) : Bool := decide (countOf (link, ch.toNat) c.used < 4)
/-- A flit takes a credit. -/
def Core.spend (c : Core) (link : Nat) (ch : BitVec 6) : Core := { c with used := addCount (link, ch.toNat) 1 c.used }
/-- A flit of a channel: type 1 head, 2 body, 3 tail (R161). -/
def mkFlit (type : Nat) (ch : BitVec 6) (data : BitVec 128) (side : BitVec 32) : Flit := ⟨BitVec.ofNat 8 (64 * type + ch.toNat), data, side⟩
def Flit.type (f : Flit) : Nat := f.ctl.toNat / 64
def Flit.chan (f : Flit) : BitVec 6 := BitVec.ofNat 6 f.ctl.toNat
/-- Flit k of a message: its head, or payload flit k − 1, of which the last is a tail (R161, R162). -/
def Msg.flit (m : Msg) (k : Nat) : Flit :=
  if k = 0 then mkFlit 1 m.chan m.hdr 0
  else let x := m.flits.getD (k - 1) (0, 0); mkFlit (if k = m.len then 3 else 2) m.chan x.1 x.2

/-- The bytes and the side bytes of a SENDB's next message (R201). -/
def Bulk.size (b : Bulk) : Nat := Nat.min b.left (chunkBytes b.fmt)
def Bulk.sides (b : Bulk) : Nat := if isB b.fmt then b.size / mw b.fmt else 0
/-- The messages of a channel in the injection buffer take numbers n lower (R165). -/
def Inject.renumber (ch : BitVec 6) (n : BitVec 16) : Inject → Inject
  | .msg m k r => .msg (if m.chan = ch then { m with hdr := mkHdr m.chan (m.seq - n) m.fmt m.swz m.len m.half m.kind } else m) k r
  | .sendb b => .sendb (if b.ch = ch then { b with seq := b.seq - n } else b)
/-- A SENDB ends on an uncorrectable error (R138, R147): its tag is faulted, and the numbers of the messages that it has not sent go
to those behind it (R165). -/
def Core.failBulk (c : Core) (b : Bulk) (f : Trap) (before rest : List Inject) : Core :=
  let n : BitVec 16 := BitVec.ofNat 16 ((b.left + chunkBytes b.fmt - 1) / chunkBytes b.fmt)
  { c.failTag b.tag f false with
    inject := before ++ rest.map (Inject.renumber b.ch n), sendCtr := wr c.sendCtr b.ch (rd c.sendCtr b.ch - n) }
/-- A SENDB's next message is read over the data port, each word of the source once, and queued (R137, R183, R201). -/
def Core.sendNext (c : Core) (b : Bulk) (before rest : List Inject) : Core :=
  let ws := wordsOf b.side.toNat b.sides
  let new := ws.filter fun w => match b.sideWord with | some k => k.1 != w | none => true
  match firstFault [(c.ueAt b.src.toNat b.size).map fun a => mkTrap cMEMUE (a * 65536),
      ((span b.side.toNat b.sides).find? fun a => new.contains (a / 8) && c.ue.contains (a / 8 * 8)).map fun a => mkTrap cMEMUE (a * 65536)] with
  | some t => c.failBulk b t before rest
  | none =>
    let sd := ((ws.map (c.sideWordOf b.sideWord)).flatten.drop (b.side.toNat % 8))
    let pairs := (List.range (b.sides / 2)).map fun i => BitVec.ofNat 16 (ofBytes ((sd.drop (2 * i)).take 2))
    let next := { b with
      src := b.src + BitVec.ofNat 16 b.size, side := b.side + BitVec.ofNat 16 b.sides, left := b.left - b.size, seq := b.seq + 1,
      sideWord := match ws.getLast? with | some w => some (w, c.sideWordOf b.sideWord w) | none => b.sideWord }
    { new.foldl (fun c w => c.countCe (8 * w) 8) (c.countCe b.src.toNat b.size) with
      inject := before ++ [.msg (mkMsg b.ch b.seq b.fmt 0 (Memory.bytes c.sram b.src.toNat b.size) pairs) 0 (b.issued + 2), .sendb next] ++ rest,
      dataQ := c.dataQ ++ [wordsOf b.src.toNat b.size ++ new] }
/-- The send engine serves the oldest SENDB that has bytes left (R201), once the data port is free and the buffer has room for its
next message. -/
def Core.sendEngine (c : Core) (before : List Inject) : List Inject → Core
  | [] => c
  | .sendb b :: rest =>
    if b.left = 0 then c.sendEngine (before ++ [.sendb b]) rest
    else if c.portFree && c.injectRoom ((b.size + 15) / 16 + 1) then c.sendNext b before rest
    else c
  | x :: rest => c.sendEngine (before ++ [x]) rest
/-- A flit enters the router from the core, under the entry that governs arriving heads then (R167, R170). -/
def Core.enterFlit (c : Core) (f : Flit) : Core :=
  { c.spend 5 f.chan with inputs := c.inputs ++ [⟨4, f, c.route f.chan, false⟩] }
/-- The first message of the injection buffer that may move, oldest of its channel and with a credit at the router's local
input, passes its next flit; `seen` lists the channels that come before (R181). -/
def Core.injectOne (c : Core) (seen : List (BitVec 6)) (before : List Inject) : List Inject → Core
  | [] => c
  | .msg m k r :: rest =>
    if seen.contains m.chan || !c.credit 5 m.chan || decide (c.cc < r) then c.injectOne (m.chan :: seen) (before ++ [.msg m k r]) rest
    else { c.enterFlit (m.flit k) with inject := before ++ (if k = m.len then [] else [.msg m (k + 1) r]) ++ rest }
  | x :: rest => c.injectOne (x.chan :: seen) (before ++ [x]) rest
/-- MESSAGE_INJECT (R181, R201): the send engine, then one flit; stopped while the router is frozen (R372). -/
def execMessageInject (c : Nat) (s : State) : Out :=
  if (s.core c).frozen then .next s
  else .next (s.modWake c fun x => let y := x.sendEngine [] x.inject; y.injectOne [] [] y.inject)
/-- The SENDBs that have ended: those whose last flit has entered the router, and those of no bytes 1 core cycle after their
issue (R201). Of the buffer `before` stands ahead. -/
def endedSendbs (cc : Nat) (before : List Inject) : List Inject → List (BitVec 6)
  | [] => []
  | .sendb b :: rest =>
    let done : Bool := if b.n = 0 then decide (b.issued < cc) else b.left == 0 && before.all fun x => x.isSendb || x.chan != b.ch
    (if done then [b.tag] else []) ++ endedSendbs cc (before ++ [.sendb b]) rest
  | x :: rest => endedSendbs cc (before ++ [x]) rest
/-- The SENDB of a tag. -/
def Inject.ofTag (k : BitVec 6) : Inject → Bool
  | .sendb b => b.tag == k
  | _ => false
/-- SENDB_COMPLETE (R201): the tags of the SENDBs that have ended are set. -/
def execSendbComplete (c : Nat) (s : State) : Out :=
  match endedSendbs (s.core c).cc [] (s.core c).inject with
  | [] => .next s
  | ks => .next (s.modWake c fun x =>
      ks.foldl Core.finishTag { x with inject := x.inject.filter fun y => !ks.any fun k => y.ofTag k })

/-! ### Receiving (R202–R205) -/

/-- RECV, RECV.V and WAITCH need a wake entry (R202). -/
def State.wakeOnly (s : State) (ch : BitVec 6) : Option Trap := when (s.me.trigAct ch != 3) (chErr 6 ch 0)
/-- RECV (R203). -/
def execRecv (c : BitVec 6) (sx : BitVec 4) (s : State) : Out := s.guard [s.wakeOnly c] (.next (s.await (.recv c sx)))
/-- RECV.V (R203). -/
def execRecvV (c : BitVec 6) (v : BitVec 4) (s : State) : Out := s.guard [s.wakeOnly c] (.next (s.await (.recvV c v)))
/-- WAITCH (R204). -/
def execWaitch (c : BitVec 6) (sx : BitVec 4) (s : State) : Out := s.guard [s.wakeOnly c] (.next (s.await (.waitch c sx)))
/-- JOIN (R205). -/
def execJoin (sx : BitVec 4) (s : State) : Out :=
  let mask := s.p sx
  match tagNums.find? fun k => mask.getLsbD k.toNat && (s.me.trigAct k == 0 || s.me.trigAct k == 2) with
  | some k => .next (s.trap (chErr 6 k 0))
  | none => .next (s.await (.join mask))

/-! ### Configuration (R206–R211) -/

/-- The router-configuration port is taken for n core cycles (R206). -/
def State.useCfg (s : State) (n : Nat) : State := s.modMe fun c => { c with units := { c.units with cfgPort := c.cc + n } }
/-- The unit of a channel is collecting or settling (CHERR 3). -/
def Core.unitBusy (c : Core) (ch : BitVec 6) : Bool :=
  match c.unitOf ch with | some u => (c.unit u).st != .idle | none => false
/-- An OUT bit whose neighbour lies outside the partition (R171). -/
def State.badOut (s : State) (l : Nat) (v : BitVec 16) : Bool :=
  [0, 1, 2, 3].any fun d => routeOut v d && (s.neighbour l d).isNone
/-- RCFG.R (R207): the entry governs heads from 2 core cycles on (R170). -/
def execRcfgR (c : BitVec 6) (sx : BitVec 4) (s : State) : Out :=
  let v : BitVec 16 := (s.g sx).truncate 16
  s.guard
    [when (decide (v.toNat / 4096 ≠ 0) || (routeRed v && decide ((outPorts v).length ≠ 1))) (chErr 7 c 0),
     when (s.badOut s.cur v) (chErr 4 c 0), when (s.me.unitBusy c) (chErr 3 c 0)] <|
    .next ((s.modMe fun x => { x with later := x.later ++ [(x.cc + 2, .route c v)] }).useCfg 1).advance
/-- An entry that deposits names a bobbin that cannot be bound to channel ch (R175). -/
def Core.badDeposit (c : Core) (ch : BitVec 6) (v : Word) : Bool :=
  let b := c.bobbin (BitVec.ofNat 5 (v.toNat / 4))
  trigDeposits v && (!b.valid || b.bkind == 2 || (b.bkind == 1 && b.bind != ch) || b.st != .empty)
/-- A message follows a rewritten entry unless its trigger action has begun: a deposit has once its first payload flit is
written (R207). A message that waits for the spawn queue with its payload deposited goes on (DEDUCED, log entry 48). -/
def LocalMsg.anew (l : LocalMsg) (act : Nat) : LocalMsg :=
  match l.st with
  | .stands => if act = 3 then l else { l with st := .fresh }
  | .deposit _ _ => if l.msg.flits.length = l.came then { l with st := .fresh } else l
  | _ => l
/-- Writing a trigger entry binds and unbinds bobbins (R175); a message whose action has not begun is handled anew (R207). -/
def Core.setTrig (c : Core) (ch : BitVec 6) (v : Word) : Core :=
  let old := rd c.trigs ch
  let ob : BitVec 5 := BitVec.ofNat 5 (old.toNat / 4)
  let nb : BitVec 5 := BitVec.ofNat 5 (v.toNat / 4)
  let c := if trigDeposits old && !(trigDeposits v && nb == ob) then
      c.setBobbin ob { c.bobbin ob with bkind := 0, bind := 0 } else c
  let c := if trigDeposits v then c.setBobbin nb { c.bobbin nb with bkind := 1, bind := ch } else c
  { c with trigs := wr c.trigs ch v,
           locals := c.locals.map fun l => if l.msg.chan = ch then l.anew (v.toNat % 4) else l }
/-- RCFG.T (R207). -/
def execRcfgT (c : BitVec 6) (sx : BitVec 4) (s : State) : Out :=
  let v := s.g sx
  s.guard [when (decide (v.toNat / 4096 ≠ 0) || s.me.badDeposit c v) (chErr 7 c 0)] <|
    .next ((s.modWake s.cur fun x => x.setTrig c v).useCfg 1).advance
/-- RCFG.QR (R207). -/
def execRcfgQr (c : BitVec 6) (sx : BitVec 4) (s : State) : Out :=
  .next ((s.setG sx ((s.me.routeNow c).zeroExtend 32) 2).useCfg 1).advance
/-- RCFG.QT (R207). -/
def execRcfgQt (c : BitVec 6) (sx : BitVec 4) (s : State) : Out := .next ((s.setG sx (rd s.me.trigs c) 2).useCfg 1).advance

/-- RRED (R208): binds, rebinds or, with S = 0, releases a unit. -/
def execRred (c : BitVec 6) (sx : BitVec 4) (s : State) : Out :=
  let p := s.addr sx
  let me := s.me
  let v := me.routeNow c
  let d := Memory.bytes me.sram p 24
  let w := ofBytes (d.drop 16)
  let n := w % 16
  let ofmt : BitVec 3 := BitVec.ofNat 3 (w / 16)
  let root := w.testBit 7
  let ctl : BitVec 6 := BitVec.ofNat 6 (w / 256)
  let old := me.unitOf c
  let taken := slots.any fun u => (me.unit u).bound.isSome && (me.unit u).bound != some c && (me.unit u).ctl == ctl
  let free := slots.find? fun u => (me.unit u).bound.isNone
  let target := match old with | some u => some u | none => free
  s.guard
    [when (decide (p % 8 ≠ 0)) (misal p 3), me.readFault p 24,
     when (!(routeValid v && routeRed v) || routeOut v 4 != root || d.getD 15 0 != 0 || decide (w / 2 ^ 14 ≠ 0)
       || decide (2 < ofmt.toNat) || taken) (chErr 7 c 0),
     when (me.unitBusy c) (chErr 3 c 0), when (decide (n ≠ 0) && target.isNone) (chErr 5 c 0)] <|
    let s := ((s.modMe fun x => x.countCe p 24).useData [wordsOf p 24]).useCfg 3
    .next (s.modMe fun x =>
      if n = 0 then (match old with | some u => x.setUnit u Trick.reset | none => x)
      else match target with
        | some u => x.setUnit u
            { bound := some c, ctl := ctl, s := n, ofmt := ofmt, root := root,
              p := (d.take n).map fun b => if b = 255 then none else some b.toNat,
              a := List.replicate n (List.replicate 16 (some 0)), rn := 0, lastRn := 0, got := 0, st := .idle, count := 0, arcs := [] }
        | none => x).advance
/-- RNQ's word (R209). -/
def Trick.query (u : Trick) (k : Nat) : Nat :=
  let p := u.p.getD k none
  (match p with | some e => e | none => 255 + 256) + (if p = some 255 then 512 else 0) + 1024 * bit (u.lastRn.getLsbD k)
    + 2048 * (match u.st with | .idle => 0 | .collecting => 1 | .settling => 2) + 8192 + 65536 * u.count.toNat
/-- RNQ (R209). -/
def execRnq (c : BitVec 6) (sx k : BitVec 4) (s : State) : Out :=
  let w := match s.me.unitOf c with
    | some u => if k.toNat < (s.me.unit u).s then (s.me.unit u).query k.toNat else 0
    | none => 0
  .next ((s.setG sx (BitVec.ofNat 32 w) 2).useCfg 1).advance
/-- The neighbour status of a direction (R210). -/
def State.nbr (s : State) (l dir : Nat) : Nat :=
  let t := s.mgmt.torus l dir
  let inside := (s.neighbour l dir).isSome
  match s.mgmt.pointer l dir with
  | some h => h.dx.natAbs + h.dy.natAbs + 8 * bit (h.dx ≠ 0 ∧ h.dy ≠ 0) + 16 * bit inside + 32 * bit t.2 + 64 + 128 * bit h.detour
  | none => 16 * bit inside + 32 * bit t.2
/-- NBRQ (R210): dir 0 n, 1 e, 2 s, 3 w. -/
def execNbrq (sx : BitVec 4) (e : BitVec 2) (s : State) : Out :=
  .next ((s.setG sx (BitVec.ofNat 32 (s.nbr s.cur e.toNat)) 2).useCfg 1).advance
/-- A message that stands at the local port, or that is held there: no part of it has been handled (R211). -/
def LocalMsg.held (l : LocalMsg) : Bool :=
  match l.st with | .fresh | .stands | .queue _ _ => true | .deposit _ _ => l.msg.flits.length == l.came | .drop => false
/-- A message of channel ch of which no flit has entered the router. -/
def Inject.waits (ch : BitVec 6) : Inject → Bool
  | .msg m k _ => m.chan == ch && k == 0
  | _ => false
/-- CHFLUSH (R211). -/
def execChflush (c : BitVec 6) (sx : BitVec 4) (s : State) : Out :=
  let me := s.me
  let gone := (me.inject.filter (Inject.waits c)).length
  let here := match me.localAt c with | some l => l.held | none => false
  let s1 := s.modWake s.cur fun x =>
    let x := { x with inject := x.inject.filter fun y => !y.waits c }
    if here then x.takeLocal c else x
  .next ((s1.setG sx (BitVec.ofNat 32 (gone + bit here)) 2).useCfg 1).advance

end Sys2Proof.Machine
end

