-- ==== Sys2Proof/Machine/Image.lean ====
section
/-! DEFINITION. The dealer's accesses to edge memory, launch records, launch images and their checks (02 R54–R56, 14
R364–R369, R423). -/

namespace Sys2Proof.Machine

/-! ### The dealer's accesses -/

/-- The brick of the leader. -/
def Mgmt.leadBrick (m : Mgmt) : Nat := 8 * m.leader.toNat
/-- Reads n bytes at a virtual address through the leader's brick; none on a translation fault or an error. -/
def State.dealRead (s : State) (va n : Nat) : State × Option (List Byte) :=
  let lo := va / 8 * 8
  match s.seqRead s.mgmt.leadBrick lo ((va + n + 7) / 8 * 8 - lo) with
  | (s, .ok bs) => (s, some ((bs.drop (va - lo)).take n))
  | (s, .error _) => (s, none)
/-- Reads ranges in order. -/
def State.dealReads (s : State) : List (Nat × Nat) → State × Option (List (List Byte))
  | [] => (s, some [])
  | (va, n) :: t =>
    match s.dealRead va n with
    | (s, none) => (s, none)
    | (s, some bs) => match s.dealReads t with
      | (s, none) => (s, none)
      | (s, some l) => (s, some (bs :: l))
/-- Writes words through a brick with system scope (R304); nothing after a fault. -/
def State.brickWrite (s : State) (b va : Nat) (bs : List Byte) : State :=
  let x := s.translatePieces b true (wordPieces va bs.length bs)
  if x.fault.isSome then x.s else x.done.foldl (fun s p => s.sysWrite p.pa p.data) x.s
/-- The dealer's write of one doubleword; the records of boot lie at no virtual address, and nothing is written for them. -/
def State.dealWrite (s : State) (va v : Nat) : State := if 2 ^ 57 ≤ va then s else s.brickWrite s.mgmt.leadBrick va (toBytes 8 v)

/-! ### Launch records (Table 14.6, Table 14.7) -/

/-- A record's bits that must be 0 (R366). -/
def recordResv (d : Nat → Nat) : Bool :=
  ([0, 1, 2, 5].any fun i => decide (2 ^ 57 ≤ d i)) || decide (field (d 3) 31 1 ≠ 0) || decide (field (d 3) 58 6 ≠ 0)
    || decide (2 ^ 8 ≤ d 9) || decide (2 ^ 6 ≤ d 10) || ([11, 12, 13, 14, 15].any fun i => decide (d i ≠ 0))
/-- The record at an address, from its bytes; `q` its queue. -/
def PartRec.ofBytes (va q : Nat) (x : BitVec 128) (bs : List Byte) : PartRec :=
  let d := fun i => Sys2Proof.Machine.ofBytes ((bs.drop (8 * i)).take 8)
  { part := field (d 3) 6 6, recVa := va, image := d 1 % 2 ^ 57, save := d 2 % 2 ^ 57, queue := q, domain := field (d 3) 12 16,
    kind := BitVec.ofNat 2 (d 3 / 2 ^ 28), irq := (d 3).testBit 30, vec := BitVec.ofNat 6 (d 10), col0 := field (d 3) 32 6,
    row0 := field (d 3) 38 7, ncol := field (d 3) 45 6 + 1, nrow := field (d 3) 51 7 + 1, srs := BitVec.ofNat 32 (d 4),
    sigs := BitVec.ofNat 32 (d 4 / 2 ^ 32), pred := d 5 % 2 ^ 57, olaunch := (d 9).testBit 6, opriv := (d 9).testBit 7,
    opart := d 9 % 64, resv := recordResv d, priv := qPriv x, sprio := BitVec.ofNat 3 (qPrio x), rowdiv := 1, d3 := BitVec.ofNat 64 (d 3), st := .selected,
    accepted := 0, succOf := none, remap := false }
/-- STATUS (Table 14.7). -/
def PartRec.status (p : PartRec) (state cause count fcol frow : Nat) : Nat :=
  state + 16 * cause + 4096 * p.sprio.toNat + 2 ^ 16 * count + 2 ^ 36 * fcol + 2 ^ 46 * frow
/-- The dealer writes a record's STATUS. -/
def State.writeStatus (s : State) (p : PartRec) (state cause count fcol frow : Nat) : State :=
  s.dealWrite (p.recVa + 48) (p.status state cause count fcol frow)
/-- A record ends: STATUS and TEND are written, and its vector is raised if it asks for it (R367, R370). -/
def State.endRecord (s : State) (p : PartRec) (state cause count fcol frow : Nat) : State :=
  let s := (s.writeStatus p state cause count fcol frow).dealWrite (p.recVa + 64) s.time
  if p.irq then
    { s with mgmt := { s.mgmt with irqs := s.mgmt.irqs ++ ((List.range 8).filter s.hostPort).map fun b => (b, p.vec.toNat) } }
  else s
/-- Two rectangles of clusters share one. -/
def PartRec.overlaps (p q : PartRec) : Bool :=
  decide (p.col0 < q.col0 + q.ncol) && decide (q.col0 < p.col0 + p.ncol) && decide (p.row0 < q.row0 + q.nrow) &&
    decide (q.row0 < p.row0 + p.nrow)
/-- A rectangle lies inside another. -/
def PartRec.inside (p q : PartRec) : Bool :=
  decide (q.col0 ≤ p.col0) && decide (p.col0 + p.ncol ≤ q.col0 + q.ncol) && decide (q.row0 ≤ p.row0) &&
    decide (p.row0 + p.nrow ≤ q.row0 + q.nrow)
/-- The same rectangle. -/
def PartRec.sameRect (p q : PartRec) : Bool := p.col0 == q.col0 && p.row0 == q.row0 && p.ncol == q.ncol && p.nrow == q.nrow
/-- The PLB entries a domain loads (R386). -/
def Mgmt.domainPlb (m : Mgmt) (d : Nat) : Vector Dword 16 := Vector.ofFn fun i : Fin 16 => plbStore (lookup 0 m.domains (16 * d + i.val))

/-! ### Launch images (Table 14.8) -/

def inRegion (r : Reg40) (c q : Nat) : Bool :=
  decide (field r 0 10 ≤ c) && decide (c ≤ field r 10 10) && decide (field r 20 10 ≤ q) && decide (q ≤ field r 30 10)
/-- A region lies in the partition's shape (Table 2.9). One whose first column or row exceeds its last names no core, and the model
takes it for a region outside the shape (DESIGN CHOICE, log entry 48). -/
def regionOk (cols rows : Nat) (r : Reg40) : Bool :=
  decide (field r 0 10 ≤ field r 10 10) && decide (field r 10 10 < cols) && decide (field r 20 10 ≤ field r 30 10) &&
    decide (field r 30 10 < rows)

/-- Every region of an image. -/
def Image.regions (m : Image) : List Reg40 :=
  m.sections.map (·.1) ++ m.entries.map (·.1) ++ m.bobbins.map (·.1) ++ m.routes.map (·.1) ++ m.triggers.map (·.1) ++ m.spindles.map (·.1)
/-- A strand entry (Table 14.8a). -/
def Entry.ofNat (n : Nat) : Entry :=
  ⟨BitVec.ofNat 16 n, BitVec.ofNat 5 (n / 2 ^ 16), BitVec.ofNat 4 (n / 2 ^ 21), BitVec.ofNat 3 (n / 2 ^ 25), BitVec.ofNat 2 (n / 2 ^ 28),
    if n.testBit 31 then some (BitVec.ofNat 16 (n / 2 ^ 32)) else none, n.testBit 30⟩
/-- A shape record (Table 10.5). -/
def Shape.ofNat (n : Nat) : Shape :=
  ⟨BitVec.ofNat 3 n, n.testBit 3, BitVec.ofNat 3 (n / 16), BitVec.ofNat 3 (n / 128), n.testBit 10, BitVec.ofNat 3 (n / 2 ^ 11),
    BitVec.ofNat 5 (n / 2 ^ 16), BitVec.ofNat 57 (n / 2 ^ 64), BitVec.ofNat 57 (n / 2 ^ 128),
    Vector.ofFn fun j : Fin 8 => BitVec.ofNat 32 (n / 2 ^ (256 + 32 * j.val)),
    Vector.ofFn fun j : Fin 8 => BitVec.ofNat 64 (n / 2 ^ (512 + 64 * j.val)),
    decide (field n 14 2 ≠ 0) || decide (field n 21 43 ≠ 0) || decide (field n 121 7 ≠ 0) || decide (field n 185 71 ≠ 0)⟩
/-- The sizes of the records of the six tables: sections, strand entries, bobbins, routes, triggers, spindles. -/
def recordSizes : List Nat := [24, 16, 24, 8, 16, 136]
/-- The records of a table, as numbers. -/
def recordsOf (size : Nat) (bs : List Byte) : List Nat :=
  (List.range (bs.length / size)).map fun i => Sys2Proof.Machine.ofBytes ((bs.drop (size * i)).take size)
/-- The contents and the clause index of a section record lie at these offsets (Table 14.8). -/
def sectionReads (image n : Nat) : List (Nat × Nat) :=
  [(image + field n 33 32, field n 16 17), (image + field n 105 32, 2 * field n 137 16)]
def sectionOf (n : Nat) (data index : List Byte) : Reg40 × Section :=
  (field n 65 40, ⟨field n 0 16, field n 16 17, data, recordsOf 2 index⟩)
/-- What reading an image gives: a fault of the translation (cause 10), a bad header (2), or the image. -/
inductive ImageRead where
  | fault
  | bad
  | image (m : Image)
/-- Pairs up the reads of the sections. -/
def pairSections : List Nat → List (List Byte) → List (Reg40 × Section)
  | n :: t, a :: b :: r => sectionOf n a b :: pairSections t r
  | _, _ => []
/-- Doubleword i of an image's header. -/
def headerWord (h : List Byte) (i : Nat) : Nat := Sys2Proof.Machine.ofBytes ((h.drop (8 * i)).take 8)
/-- Where the six tables of an image lie. -/
def tableReads (image : Nat) (h : List Byte) : List (Nat × Nat) :=
  recordSizes.zipIdx.map fun (z, i) => (image + headerWord h (i + 1) % 2 ^ 32, z * field (headerWord h (i + 1)) 32 16)
/-- The records of table i of six. -/
def tableRecords (ts : List (List Byte)) (i : Nat) : List Nat := recordsOf (recordSizes.getD i 1) (ts.getD i [])
/-- Where the contents and clause indexes of the sections lie. -/
def contentReads (image : Nat) (ts : List (List Byte)) : List (Nat × Nat) := ((tableRecords ts 0).map (sectionReads image)).flatten
/-- An image from its header, its tables and its contents; none where the header is bad (R369). -/
def Image.ofParts (h : List Byte) (ts bs : List (List Byte)) : Option Image :=
  let d := headerWord h
  let rs := tableRecords ts
  if d 0 % 2 ^ 32 ≠ 0x4C574B31 ∨ field (d 0) 32 8 ≠ 3 ∨ field (d 0) 61 3 ≠ 0 ∨ 8 < d 7
      ∨ ([1, 2, 3, 4, 5, 6].any fun i => decide (2 ^ 48 ≤ d i)) then none
  else
    some
      { cols := field (d 0) 40 11, rows := field (d 0) 51 10, rowdiv := d 7 % 16,
        sections := pairSections (rs 0) bs,
        entries := (rs 1).zipIdx.map fun (n, i) => (field n 64 40, i, Entry.ofNat n),
        bobbins := (rs 2).map fun n => (field n 128 40, field n 168 5, (n % 2 ^ 64, field n 64 64)),
        routes := (rs 3).map fun n => (field n 22 40, BitVec.ofNat 6 n, BitVec.ofNat 16 (n / 64)),
        triggers := (rs 4).map fun n => (field n 38 40, BitVec.ofNat 6 n, BitVec.ofNat 32 (n / 64)),
        spindles := (rs 5).zipIdx.map fun (n, i) => (field n 1024 40, i, Shape.ofNat n) }
/-- Reads a launch image: all that its header names is read first, and then the header is checked (R423). -/
def State.readImage (s : State) (va : Nat) : State × ImageRead :=
  match s.dealRead va 64 with
  | (s, none) => (s, .fault)
  | (s, some h) => match s.dealReads (tableReads va h) with
    | (s, none) => (s, .fault)
    | (s, some ts) => match s.dealReads (contentReads va ts) with
      | (s, none) => (s, .fault)
      | (s, some bs) => (s, match Image.ofParts h ts bs with | some m => .image m | none => .bad)
/-- An image that stands in a list of bytes. -/
def Image.ofFlash (l : List Byte) : Option Image :=
  let read := fun (x : Nat × Nat) => (l.drop x.1).take x.2
  let h := l.take 64
  let ts := (tableReads 0 h).map read
  Image.ofParts h ts ((contentReads 0 ts).map read)

/-! ### A core's share and the dealer's checks (R55, Table 2.9) -/

/-- The items of a core's region. -/
def mine {α : Type} (c q : Nat) (l : List (Reg40 × α)) : List α := (l.filter fun x => inRegion x.1 c q).map (·.2)
/-- The last instruction of a clause cannot fall through (Table 2.9): BRA, BAL, JMP, JAL, EXIT, EXIT.SPLICE, TRAP, BRK,
HALT, by major and function code. -/
def endsChain (w : Word) : Bool :=
  let m := w.toNat / 2 ^ 26
  let f := field w.toNat 20 6
  m == 1 || (m == 3 && decide (f ≤ 1)) || (m == 4 && (f == 5 || f == 6)) || (m == 0x3C && decide (f ≤ 2))
/-- The SRAM that a core's sections make (R136). -/
def sectionRam (ss : List Section) : List Host.Cell := ss.foldl (fun m x => Memory.write m x.addr x.data) []
/-- Two sections overlap, or one runs past 0xFFFF. -/
def sectionsBad : List Section → Bool
  | [] => false
  | x :: t => decide (65536 < x.addr + x.len) ||
      (t.any fun y => x.len != 0 && y.len != 0 && decide (x.addr < y.addr + y.len) && decide (y.addr < x.addr + x.len))
      || sectionsBad t
/-- The descriptor that the dealer writes from a record (R141): the fields that `.bobbin` does not give are its own; the binding
follows from the triggers. -/
def Bobbin.dealt (w0 w1 : Nat) : Bobbin :=
  let b := Bobbin.ofWords w0 w1
  { b with sbase := b.base + b.size, eom := false, ften := false, bkind := 0, bind := 0 }
/-- A core with its bobbins declared and its triggers set, none where Table 2.9 refuses one; a second record of a bobbin that is
still empty replaces the first, as BDECL would (R157). -/
def Core.withBobbins (c : Core) : List (Nat × (Nat × Nat)) → Option Core
  | [] => some c
  | (i, w) :: t =>
    let n : BitVec 5 := BitVec.ofNat 5 i
    let b := Bobbin.dealt w.1 w.2
    if badDescriptor w.1 w.2 || (bobNums.any fun j => j != n && (c.bobbin j).valid && b.ranges.any fun x => (c.bobbin j).ranges.any (overlap x)) then none
    else (c.declare n b).withBobbins t
def Core.withTriggers (c : Core) : List (BitVec 6 × BitVec 32) → Option Core
  | [] => some c
  | (ch, v) :: t =>
    let v := v &&& 0xFFF
    if c.badDeposit ch v then none else (c.setTrig ch v).withTriggers t
/-- An entry of Table 14.8a that the dealer refuses. -/
def entryBad (hs : List Nat) (e : Entry) : Bool :=
  !hs.contains e.addr.toNat || (match e.trap with | some a => !hs.contains a.toNat | none => false)
    || decide (16 < e.v.toNat) || decide (8 < e.t.toNat) || decide (4 < e.a.toNat)
/-- A clause of the index is malformed, or its chain breaks. -/
def clauseBad (ram : List Host.Cell) (hs : List Nat) (a : Nat) : Bool :=
  let w := fun x => BitVec.ofNat 32 (Sys2Proof.Machine.ofBytes (Memory.bytes ram x 4))
  let h := w a
  decide (a % 4 ≠ 0) || !isHeader h || malformed h (BitVec.ofNat 16 a) ||
    (!endsChain (w (a + 4 * hdrCount h)) && !hs.contains (a + 4 * hdrCount h + 4))
/-- The start entry's number. -/
def startEntry (es : List (Nat × Entry)) : Nat := ((es.find? fun e => e.2.start).map (·.1)).getD 0
/-- A core's share of an image. -/
def Image.share (m : Image) (c q : Nat) : CoreImage :=
  { sections := (mine c q m.sections).map fun x => (x.addr, x.data), entries := mine c q m.entries, bobbins := mine c q m.bobbins,
    routes := mine c q m.routes, triggers := mine c q m.triggers, spindles := mine c q m.spindles }
/-- A core dealt its share (R23, R81, R136, R166, R172, R175): from a core that holds what the image leaves alone; none where a
bobbin or a trigger is refused. -/
def CoreImage.deal (m : CoreImage) (base : Core) : Option Core :=
  match base.withBobbins m.bobbins with
  | none => none
  | some b => match b.withTriggers m.triggers with
    | none => none
    | some b =>
      let b := m.sections.foldl (fun c x => c.store x.1 x.2) b
      some { b with
        entries := m.entries.foldl (fun v e => wr v (BitVec.ofNat 4 e.1) (some e.2)) b.entries,
        routes := m.routes.foldl (fun v e => wr v e.1 (e.2 &&& 0xFFF)) b.routes,
        trigs := wr b.trigs (0 : BitVec 6) (BitVec.ofNat 32 (2 + 256 * startEntry m.entries)),
        shapes := m.spindles.foldl (fun v e => if e.1 < 64 then wr v (BitVec.ofNat 6 e.1) (some e.2) else v) b.shapes }
/-- A check of Table 2.9 blocks the core at a place. Besides, the model blocks every core in the region of a strand entry at
position 16 or later of the image's table, which no SPAWN and no trigger could name (DESIGN CHOICE, log entry 48). -/
def Image.blocked (m : Image) (c q : Nat) : Bool :=
  let ss := mine c q m.sections
  let es := mine c q m.entries
  let hs := (ss.map (·.index)).flatten
  sectionsBad ss || hs.any (clauseBad (sectionRam ss) hs) || es.any (fun e => entryBad hs e.2 || decide (16 ≤ e.1))
    || (es.filter fun e => e.2.start).length != 1 || ((m.share c q).deal Core.reset).isNone

end Sys2Proof.Machine
end

