-- ==== Sys2Proof/Machine/Tile.lean ====
section
/-! DEFINITION. Tile and matrix instructions: majors 0x28 to 0x2C, GMMA's steps and DRAIN.M's writes (08 R212–R240). -/

namespace Sys2Proof.Machine

/-! ### Shared operations -/

/-- TSHP (R214, Table 8.10): a tile whose FMT is not the tag that names it. -/
def State.tagFault (s : State) (i f : BitVec 3) : Option Trap :=
  let x := (s.t i).fmt
  when (x != f) (mkTrap cTSHP (i.toNat + 8 * x.toNat + 64 * f.toNat))
/-- The re-blocking network is taken for n core cycles (R215). -/
def State.useReblock (s : State) (n : Nat) : State := s.modMe fun c => { c with units := { c.units with reblock := c.cc + n } }
/-- The drain converter is taken for n core cycles (R215). -/
def State.useDrain (s : State) (n : Nat) : State := s.modMe fun c => { c with units := { c.units with drain := c.cc + n } }
/-- Cycles of the multiplier array: doubled in a class-3 clause that no declaration covers (R215, 13 R340). -/
def Strand.arrayCost (t : Strand) (n : Nat) : Nat := if t.cover = .uncovered then 2 * n else n
/-- The multiplier array is taken for n core cycles (R215). -/
def State.useArray (s : State) (n : Nat) : State := s.modMe fun c => { c with units := { c.units with array := c.cc + n } }

/-- An accumulator's elements as integers. -/
def Acc.vals (x : Acc) : List Int := x.a.toList.map BitVec.toInt
/-- X and the elements cleared (R222); the step count stays. -/
def Acc.clear (x : Acc) : Acc := { x with a := Vector.replicate 256 0, x := 0x800 }
/-- ACCZ (R222). -/
def Acc.zero (x : Acc) : Acc := { x.clear with steps := 0 }
/-- ACC_STEP on an accumulator (R76). -/
def Acc.step (x : Acc) (p : List Partial) : Acc :=
  let r := accStep x.vals x.x.toInt p
  { x with a := Vector.ofFn fun i : Fin 256 => BitVec.ofInt 40 (r.1.getD i.val 0), x := BitVec.ofInt 12 r.2 }

/-! ### Set-up (R219–R223) -/

/-- TSHAPE (R220). -/
def execTshape (t : BitVec 3) (r c : BitVec 4) (f : BitVec 3) (s : State) : Out :=
  let x := s.t t
  .next (s.setT t { (if x.fmt = f then x else x.zero f) with rows := r, cols := c } 2).advance
/-- A mode of 5–7 or a reserved bit in a TPR value (R218). -/
def badTpr (w : Word) : Bool :=
  decide (4 < field w.toNat 0 3) || decide (4 < field w.toNat 3 3) || decide (4 < field w.toNat 6 3)
    || decide (field w.toNat 9 7 ≠ 0) || decide (field w.toNat 25 7 ≠ 0)
/-- TPARM (R221). -/
def execTparm (a : BitVec 4) (s : State) : Out :=
  let w := s.g a
  s.guard [when (badTpr w) ⟨cPARMX, w, 0⟩] <|
    .next (s.modSt fun t => { t with tpr := w }.mark .tpr (some (s.cc + 1))).advance
/-- TZERO (R222). -/
def execTzero (t f : BitVec 3) (s : State) : Out := .next (s.setT t ((s.t t).zero f) 2).advance
/-- ACCZ (R222). -/
def execAccz (a : BitVec 2) (s : State) : Out := .next (s.setA a (s.acc a).zero 2).advance
/-- TSTAT's word of an accumulator (R223). -/
def Acc.stat (x : Acc) : Nat :=
  x.x.toNat + 4096 * bit (x.x == 2047) + 8192 * bit (x.vals.contains accNan) + 16384 * bit (x.vals.any (· != 0)) + 65536 * x.steps.toNat
/-- TSTAT (R223): an index outside the grant raises NOREG. -/
def execTstat (d : BitVec 4) (k : BitVec 2) (imm : BitVec 3) (s : State) : Out :=
  let limit := if k = 0 then s.st.tgrant else if k = 1 then s.st.agrant else 8
  let v := if k = 0 then (let x := s.t imm; x.fmt.toNat + 16 * x.rows.toNat + 256 * x.cols.toNat)
    else if k = 1 then (s.acc (imm.truncate 2)).stat else s.st.tpr.toNat
  s.guard [when (decide (limit ≤ imm.toNat)) (mkTrap cNOREG 0)] (.next (s.setG d (BitVec.ofNat 32 v) 2).advance)

/-! ### Tile moves (R224–R227) -/

/-- TMOVV (R225): a row pair between a tile and a vector register, raw. -/
def execTmovv (t : BitVec 3) (v : BitVec 4) (p : BitVec 3) (d : BitVec 1) (f : BitVec 3) (s : State) : Out :=
  let x := s.t t
  let y := s.v v
  let i := 2 * p.toNat
  s.guard [s.tagFault t f] <|
    if d = 0 then
      let new := fun b : Nat => ((y.half b).map fun l => if isB f then BitVec.ofInt 16 (mant f l) else l,
        if isB f then y.sideOf b else x.sideAt (i + b))
      .next (s.setT t (x.withRows f (setAt (setAt x.rowList i (new 0)) (i + 1) (new 1))) 2).advance
    else
      let l := x.row i ++ x.row (i + 1)
      .next (s.setV v ⟨Vector.ofFn fun j : Fin 32 => l.getD j.val 0,
        if isB f then sideWord (x.sideAt i) (x.sideAt (i + 1)) else y.side⟩ 2).advance
/-- TMOVT (R226). -/
def execTmovt (t a f : BitVec 3) (s : State) : Out := s.guard [s.tagFault a f] (.next (s.setT t (s.t a) 2).advance)
/-- TXP (R226). -/
def execTxp (t a f : BitVec 3) (s : State) : Out :=
  let x := s.t a
  let old := s.t t
  let rs := (transposeRows f x.rowList).zipIdx.map fun (r, i) => if isB f then r else (r.1, old.sideAt i)
  s.guard [s.tagFault a f] <|
    .next ((s.useReblock 2).setT t { (old.withRows f rs) with rows := x.cols, cols := x.rows } 6).advance
/-- A tile whose rows are converted from tag g to tag f (R67, R227). -/
def Tile.convert (x old : Tile) (g f : BitVec 3) (m : Mode) : Tile :=
  { (old.withRows f (x.rowList.zipIdx.map fun (r, i) => encRow f (rowVals g r.1 r.2) m [] (old.sideAt i))) with
    rows := x.rows, cols := x.cols }
/-- TBLK (R227). -/
def execTblk (t a f m : BitVec 3) (s : State) : Out :=
  s.guard [s.tagFault a f] (.next ((s.useReblock 1).setT t ((s.t a).convert (s.t t) f f (Mode.ofCode m)) 4).advance)
/-- TCVT (R227): f is the destination tag, sx the source's. -/
def execTcvt (t a f sx m : BitVec 3) (s : State) : Out :=
  s.guard [s.tagFault a sx] (.next ((s.useReblock 2).setT t ((s.t a).convert (s.t t) sx f (Mode.ofCode m)) 5).advance)

/-! ### MMA (R228–R230) -/

/-- OPROW (R229): row or column n of a masked tile as a multiplier operand. -/
def oprow (f : BitVec 3) (rs : List (List (BitVec 16) × BitVec 16)) (n : Nat) (col : Bool) : MulVec :=
  if isB f then
    (if col then tcolMul f (rowsCol f rs n)
     else let r := rs.getD n ([], 0); blockMul f (rowBlock f r.1 r.2))
  else
    let x := if col then rs.map fun r => decBf16 (r.1.getD n 0) else (rs.getD n ([], 0)).1.map decBf16
    blockMul 0 (pack 0 x .rne [])
/-- The 256 partials of a k-tile step: rows at or above ra add an exact zero (R229). -/
def partials (a b : List MulVec) (ra : Nat) : List Partial :=
  (a.zipIdx.map fun (x, i) => b.map fun y => if i < ra then dot x y else .fin 0 0).flatten
/-- Half-cycles of the array per row of A for an operand format (R230). -/
def rowCost2 (f : BitVec 3) : Nat := if f = 2 then 1 else if f = 1 then 2 else 8
/-- Occupancy of an MMA of ra rows (R230). -/
def mmaCycles (f g : BitVec 3) (ra : Nat) : Nat := (ra * Nat.max (rowCost2 f) (rowCost2 g) + 1) / 2
/-- The rows of A that a step takes. -/
def Tile.ra (x : Tile) (ta : Bool) : Nat := (if ta then x.cols.toNat else x.rows.toNat) + 1
/-- One MMA step into an accumulator (R229). -/
def Acc.mma (x : Acc) (ta tb : Tile) (f g : BitVec 3) (fa fb : Bool) : Acc :=
  let ra := ta.masked
  let rb := tb.masked
  x.step (partials ((List.range 16).map fun i => oprow f ra i fa) ((List.range 16).map fun j => oprow g rb j fb) (ta.ra fa))
/-- Writes acc[c] as an MMA does: pending, and chained by later MMAs (R216). -/
def State.setMma (s : State) (c : BitVec 2) (x : Acc) (lat : Nat) : State :=
  (s.modMe fun k => { k with accs := wr k.accs (s.st.aIx c) x }).modSt fun t =>
    { t with pend := t.pend ++ [⟨.acc c, some (s.cc + lat), true⟩] }
/-- MMA and MMA.Z on an accumulator's starting value. -/
def State.mmaOn (s : State) (x : Acc) (a b : BitVec 3) (c : BitVec 2) (f g : BitVec 3) (y z : BitVec 1) : Out :=
  let occ := s.st.arrayCost (mmaCycles f g ((s.t a).ra (z == 1)))
  s.guard [s.tagFault a f, s.tagFault b g] <|
    .next ((s.useArray occ).setMma c (x.mma (s.t a) (s.t b) f g (z == 1) (y == 1)) (occ + 4)).advance
/-- MMA (R229): y is TB, x is TA. -/
def execMma (a b : BitVec 3) (c : BitVec 2) (f g : BitVec 3) (y x : BitVec 1) (s : State) : Out :=
  s.mmaOn (s.acc c) a b c f g y x
/-- MMA.Z (R229). -/
def execMmaZ (a b : BitVec 3) (c : BitVec 2) (f g : BitVec 3) (y x : BitVec 1) (s : State) : Out :=
  s.mmaOn (s.acc c).zero a b c f g y x

/-! ### GMMA (R231–R236) -/

/-- Mantissa-plane bytes of a tile (R233). -/
def tileBytes (f : BitVec 3) : Nat := if f = 2 then 128 else if f = 1 then 256 else 512
/-- A feed bobbin holds K tiles in its live window (R233). -/
def Core.feedFault (c : Core) (n : BitVec 5) (f : BitVec 3) (k : Nat) : Option Trap :=
  let b := c.bobbin n
  when (!(b.valid && (b.st == .full || b.st == .draining) && decide (b.head.toNat + k * tileBytes f ≤ b.fill.toNat))) (c.bobTrap n 1)
/-- The check of a channel that the core feeds, or does not: the router's local bit, or a wake entry (R233). -/
def Core.gangFault (c : Core) (feed : Bool) (ch : BitVec 6) : Option Trap :=
  if feed then when (!(routeValid (c.routeNow ch) && routeIn (c.routeNow ch) 4)) (chErr 1 ch 0)
  else when (c.trigAct ch != 3) (chErr 6 ch 0)
/-- GMMA's checks on its channels, in the order of R233: the received ones, then the fed ones. -/
def Core.gangFaults (c : Core) (fa fb : Bool) (ca cb : BitVec 6) : List (Option Trap) :=
  let l := [(fa, ca), (fb, cb)]
  (l.filter fun x => !x.1).map (fun x => c.gangFault false x.2) ++ (l.filter fun x => x.1).map fun x => c.gangFault true x.2
/-- GMMA (R231, R233): the strand then runs the steps, ready but not eligible; a GMMA resumed by ERET goes on at its next
step (R236). x is FA, y is FB. -/
def execGmma (a : BitVec 4) (c : BitVec 2) (f g : BitVec 3) (z y x : BitVec 1) (s : State) : Out :=
  let p := s.addr a
  let me := s.me
  let d := me.load p 8
  let ca : BitVec 6 := BitVec.ofNat 6 d
  let cb : BitVec 6 := BitVec.ofNat 6 (d / 256)
  let k := field d 16 16
  let ba : BitVec 5 := BitVec.ofNat 5 (d / 2 ^ 32)
  let bb : BitVec 5 := BitVec.ofNat 5 (d / 2 ^ 37)
  if s.st.gmma.isSome then .next (s.holdFor .gmma)
  else
    s.guard
      ([when (decide (p % 8 ≠ 0)) (misal p 3), me.readFault p 8,
       when (decide (field d 6 2 ≠ 0) || decide (field d 14 2 ≠ 0) || decide (d / 2 ^ 42 ≠ 0) || decide (k = 0) || ca == cb) (chErr 7 ca 0)]
       ++ me.gangFaults (x == 1) (y == 1) ca cb ++
       [if x = 1 then me.feedFault ba f k else none, if y = 1 then me.feedFault bb g k else none]) <|
      let s := (s.modMe fun q => q.countCe p 8).useData [[p / 8]]
      let s := if z = 1 then s.modMe fun q => { q with accs := wr q.accs (s.st.aIx c) (s.acc c).zero } else s
      let s := s.modSt fun t => { t with gmma := some ⟨c, x == 1, y == 1, f, g, ca, cb, k, ba, bb, 0, t.pc, [], [], false, false, none⟩ }
      .next (s.holdFor .gmma)

/-- Rows of a tile from the data and side bytes of its messages (R200). -/
def rowsOfBytes (f : BitVec 3) (bs side : List Byte) : List (List (BitVec 16) × BitVec 16) :=
  let n := tileBytes f / 16
  (List.range 16).map fun i =>
    (rowFields f 16 ((bs.drop (n * i)).take n), BitVec.ofNat 16 (ofBytes ((side.drop (2 * i)).take 2)))
/-- The image of the tile at step k of a feed bobbin (R233). -/
def Bobbin.tileHdr (b : Bobbin) (f : BitVec 3) (k : Nat) : Hdr :=
  ⟨(b.base.toNat + b.head.toNat + k * tileBytes f) % 65536, (b.sbase.toNat + (if isB f then b.head.toNat / mw f else 0) + 32 * k) % 65536,
    f, b.swz, false, false, 0, false⟩
/-- The flits of a tile's messages. -/
def tileFlits (f : BitVec 3) : Nat := if f = 0 ∨ f = 3 then 34 else if f = 1 then 17 else 9
/-- A fed tile is read and queued on its channel as SENDT queues one (R200, R233): the core, or the error that the read meets. -/
def Core.feedTile (c : Core) (n : BitVec 5) (f : BitVec 3) (ch : BitVec 6) (k : Nat) : Except Trap Core :=
  let h := (c.bobbin n).tileHdr f k
  match firstFault (h.ranges.map fun r => (c.ueAt r.1 r.2).map fun x => mkTrap cMEMUE (x * 65536)) with
  | some t => .error t
  | none =>
    let d := h.ranges.foldl (fun d r => d.countCe r.1 r.2) c
    .ok ((tileMsgs f (c.readImage h [])).foldl (fun d m => d.queueMsg ch f 0 m.1 m.2) { d with dataQ := d.dataQ ++ h.groups })
/-- Payload flits of one message of a tile, and of the whole tile: one message, or two for B16 and BF16 (R200, R233). -/
def tileLen (f : BitVec 3) : Nat := if f = 2 then 8 else 16
def tileNeed (f : BitVec 3) : Nat := if f = 0 ∨ f = 3 then 32 else tileLen f
/-- What has arrived of the message that stands on a tile's channel is taken into the array's operand, and the message once it
is whole; one that does not match faults and is left standing (R233, R236). -/
def Core.takeTile (c : Core) (ch : BitVec 6) (f : BitVec 3) (got : List (BitVec 128 × BitVec 32)) :
    Except Trap (Core × List (BitVec 128 × BitVec 32)) :=
  match c.standing ch with
  | none => .ok (c, got)
  | some l =>
    if tileNeed f ≤ got.length then .ok (c, got)
    else if l.msg.fmt ≠ f ∨ l.msg.len ≠ tileLen f then .error (chErr 6 ch 0)
    else
      let rest := changeLocal ch (fun l => some { l with msg := { l.msg with flits := [] } }) c.locals
      let d := { (c.owe 5 ch l.msg.flits.length) with locals := rest }
      .ok (if l.whole then d.takeLocal ch else d, got ++ l.msg.flits)
/-- The rows of a tile from its payload flits. -/
def rowsOfFlits (f : BitVec 3) (fl : List (BitVec 128 × BitVec 32)) : List (List (BitVec 16) × BitVec 16) :=
  let m : Msg := ⟨mkHdr 0 0 f 0 (tileLen f) false 0, []⟩
  let n := tileLen f
  let parts := if tileNeed f = n then [fl] else [fl.take n, fl.drop n]
  rowsOfBytes f ((parts.map fun p => ({ m with flits := p } : Msg).bytes).flatten) ((parts.map fun p => ({ m with flits := p } : Msg).side).flatten)
/-- A full tile of rows. -/
def tileOf (f : BitVec 3) (rs : List (List (BitVec 16) × BitVec 16)) : Tile := Tile.reset.withRows f rs

/-- A fed operand's next tile is read over the data port and enters the injection buffer, once it has room (R137, R234). -/
def Core.feedIn (c : Core) (q : Gmma) (b : Bool) : Except Trap (Core × Gmma) :=
  let f := if b then q.fmtB else q.fmtA
  if (if b then q.inB else q.inA) || !c.injectRoom (tileFlits f) || !c.portFree then .ok (c, q)
  else match c.feedTile (if b then q.bb else q.ba) f (if b then q.cb else q.ca) q.step with
    | .error t => .error t
    | .ok c => .ok (c, if b then { q with inB := true } else { q with inA := true })
/-- An operand of the next step comes in: from its feed bobbin, or from the messages that stand on its channel (R233, R234). -/
def Core.gather (c : Core) (q : Gmma) (b : Bool) : Except Trap (Core × Gmma) :=
  if (if b then q.fb else q.fa) then c.feedIn q b
  else match c.takeTile (if b then q.cb else q.ca) (if b then q.fmtB else q.fmtA) (if b then q.gotB else q.gotA) with
    | .error t => .error t
    | .ok (c, l) => .ok (c, if b then { q with gotB := l } else { q with gotA := l })
/-- The whole of an operand of the next step is there (R234). -/
def Gmma.has (q : Gmma) (b : Bool) : Bool :=
  if b then (if q.fb then q.inB else q.gotB.length == tileNeed q.fmtB) else (if q.fa then q.inA else q.gotA.length == tileNeed q.fmtA)
/-- The rows of an operand of the next step. -/
def Core.operand (c : Core) (q : Gmma) (b : Bool) : List (List (BitVec 16) × BitVec 16) :=
  let f := if b then q.fmtB else q.fmtA
  if (if b then q.fb else q.fa) then c.readImage ((c.bobbin (if b then q.bb else q.ba)).tileHdr f q.step) []
  else rowsOfFlits f (if b then q.gotB else q.gotA)
/-- A k-step of a GMMA begins (R233, R234): the accumulator takes it, and behind the last one the GMMA completes 4 core cycles
after it leaves the array. -/
def Core.runStep (x : Core) (k : BitVec 3) (q : Gmma) : Core :=
  let t := x.strand k
  let occ := t.arrayCost (mmaCycles q.fmtA q.fmtB 16)
  let ac := rd x.accs (t.aIx q.acc)
  let ac := { ac.mma (tileOf q.fmtA (x.operand q false)) (tileOf q.fmtB (x.operand q true)) q.fmtA q.fmtB false false with steps := ac.steps + 1 }
  let last : Bool := q.step + 1 == q.k
  let q := { q with step := q.step + 1, gotA := [], gotB := [], inA := false, inB := false, done := if last then some (x.cc + occ + 4) else none }
  let x := { x with accs := wr x.accs (t.aIx q.acc) ac, units := { x.units with array := x.cc + occ } }
  x.modStrand k fun t => { (if last then t.mark (.acc q.acc) (some (x.cc + occ + 4)) else t) with gmma := some q }

/-- GMMA_STEP (R233, R234): what the next step takes comes in; the step begins once both tiles are there, and the array is free and awake.
A tile that does not match, or an error in a feed read, stops the strand with its progress kept (R236). A GMMA that has
completed lets its strand go on. -/
def execGmmaStep (c k : Nat) (s : State) : Out :=
  let kk : BitVec 3 := BitVec.ofNat 3 k
  let x := s.core c
  let t := x.strand kk
  match t.gmma with
  | none => .next s
  | some q =>
    if t.hold ≠ .gmma ∨ t.run ≠ .ready then .next s
    else match q.done with
      | some n => .next (if n ≤ x.cc then s.modCore c fun x => x.modStrand kk fun t => { (t.unhold x.cc) with gmma := none } else s)
      | none =>
        if t.frozen ∨ x.frozen then .next s
        else
          let keep := fun (x : Core) (q : Gmma) => x.modStrand kk fun t => { t with gmma := some q }
          match x.gather q false with
          | .error f => .next (s.modWake c fun x => x.modStrand kk fun t => t.stopThere f)
          | .ok (x, q) => match x.gather q true with
            | .error f => .next (s.modWake c fun _ => (keep x q).modStrand kk fun t => t.stopThere f)
            | .ok (x, q) =>
              let x := keep x q
              .next (s.modWake c fun _ => if q.has false && q.has true && x.tenOn && decide (x.units.array ≤ x.cc) then x.runStep kk q else x)

/-! ### DRAIN (R237, R238) -/

/-- The exact drained values of an accumulator, row by row (R238). -/
def Acc.drained (x : Acc) (tpr : Word) : List (List Val) :=
  let e : Int := sext (field tpr.toNat 16 8) 8
  let vs := x.vals.map fun v =>
    let y : Val := match accVal v x.x.toInt with | .fin q nz => .fin (q.scale e) nz | w => w
    if tpr.getLsbD 24 && y.isNeg then Val.ofInt 0 else y
  (List.range 16).map fun i => (vs.drop (16 * i)).take 16
/-- The columns of a 16 by 16 array of values. -/
def columns (rs : List (List Val)) : List (List Val) := (List.range 16).map fun j => rs.map fun r => r.getD j .nan
/-- n advances of a generator (R69). -/
def advances : Nat → BitVec 32 → BitVec 32
  | 0, g => g
  | n + 1, g => advances n (xs32 g)
/-- The draws of row i of a drain: step i/2, lanes 0–15 for an even row, 16–31 for an odd one (R71). -/
def drainDraws (g : BitVec 32) (m : Mode) (i : Nat) : List Nat :=
  if m = .sr then ((srdraws (advances (i / 2 + 1) g)).drop (16 * (i % 2))).take 16 else []
/-- The generator after n conversion steps. -/
def State.stepDrain (s : State) (m : Mode) (n : Nat) : State :=
  if m = .sr then s.modMe fun c => { c with srDrain := advances n c.srDrain } else s
/-- clr: the whole accumulator is cleared after the conversion, pending for the drain's latency (R238). -/
def State.drainClear (s : State) (c : BitVec 2) (l : BitVec 1) (lat : Nat) : State :=
  if l = 1 then s.setA c (s.acc c).clear lat else s

/-- DRAIN to a tile (R237, R238). -/
def execDrainT (t : BitVec 3) (c : BitVec 2) (f : BitVec 3) (l : BitVec 1) (s : State) : Out :=
  let m := Mode.ofCode (BitVec.ofNat 3 (field s.st.tpr.toNat 0 3))
  let g := s.me.srDrain
  let old := s.t t
  let rs := ((s.acc c).drained s.st.tpr).zipIdx.map fun (x, i) => encRow f x m (drainDraws g m i) (old.sideAt i)
  let x := { (old.withRows f rs) with rows := 15, cols := 15 }
  .next ((((s.stepDrain m 8).drainClear c l 12).useDrain 8).setT t x 12).advance
/-- DRAIN to a vector register (R237, R238): a row pair, or with FP32 one row. -/
def execDrainV (v : BitVec 4) (h : BitVec 1) (p : BitVec 3) (c : BitVec 2) (f : BitVec 3) (l : BitVec 1) (s : State) : Out :=
  let m := Mode.ofCode (BitVec.ofNat 3 (field s.st.tpr.toNat 3 3))
  let rows := (s.acc c).drained s.st.tpr
  let dr := fun i => drainDraws s.me.srDrain m i
  let old := s.v v
  let x : VReg :=
    if f = 4 then
      let r := rows.getD (2 * p.toNat + h.toNat) []
      old.withLanes 4 (r.zipIdx.map fun (y, j) => encFp32 y m ((dr h.toNat).getD j 0))
    else
      let r0 := encRow f (rows.getD (2 * p.toNat) []) m (dr 0) 0
      let r1 := encRow f (rows.getD (2 * p.toNat + 1) []) m (dr 1) 0
      ⟨Vector.ofFn fun i : Fin 32 => (r0.1 ++ r1.1).getD i.val 0, if isB f then sideWord r0.2 r1.2 else old.side⟩
  .next ((((s.stepDrain m 1).drainClear c l 5).useDrain 1).setV v x 5).advance
/-- DRAIN to core memory (R237, R238): checked at issue, its writes made by the data port from issue + 12. -/
def execDrainM (d : BitVec 4) (c : BitVec 2) (f : BitVec 3) (l : BitVec 1) (s : State) : Out :=
  let ha := s.addr d
  let me := s.me
  let h := me.header ha
  let m := Mode.ofCode (BitVec.ofNat 3 (field s.st.tpr.toNat 6 3))
  let vals := (s.acc c).drained s.st.tpr
  let vals := if h.xp then columns vals else vals
  let rs : List (List Byte × BitVec 16) := vals.zipIdx.map fun (x, i) =>
    let dr := drainDraws me.srDrain m i
    if f = 4 then ((x.zipIdx.map fun (y, j) => toBytes 4 (encFp32 y m (dr.getD j 0)).toNat).flatten, 0)
    else let r := encRow f x m dr 0; (rowBytes f r.1, r.2)
  s.guard
    [me.headerFault ha 4, when (h.fmt != f) (ophdr ha 5), when (f == 4 && (h.swz == 1 || h.xp)) (ophdr ha 6),
     me.writeFaults h.ranges] <|
    let s1 := (((s.stepDrain m 8).drainClear c l 12).useDrain 8).modMe fun c =>
      { c.countCe ha 8 with drainM := c.drainM ++ [⟨c.cc + 12, s.slot, true, h.cells rs, h.groups⟩] }
    .next (s1.useData [[ha / 8]]).advance
/-- DRAIN_M_WRITE (R237): the data port makes a due DRAIN.M's writes. -/
def execDrainMWrite (c k : Nat) (s : State) : Out :=
  let x := s.core c
  match x.drainM.find? fun w => w.slot == BitVec.ofNat 3 k && decide (w.due ≤ x.cc) with
  | none => .next s
  | some w =>
    .next (s.modCore c fun x =>
      { x.storeCells w.writes with drainM := x.drainM.erase w, dataQ := x.dataQ ++ w.groups })

end Sys2Proof.Machine
end

