-- ==== Sys2Proof/Machine/Signature.lean ====
section
/-! DEFINITION. The signature stage: majors 0x30 to 0x32 (09 R241–R260). -/

namespace Sys2Proof.Machine

/-! ### Shared operations -/

/-- SIGST (R260): the subcode, the operand tile or accumulator, and the address of subcode 6. -/
def sigst (sub n addr : Nat) : Trap := mkTrap cSIGST (sub + 16 * n + 65536 * addr)
/-- SIGSIGN (R242). -/
def sigsign (seed : Word) (h col : Nat) : Int :=
  let x := seed ^^^ BitVec.ofNat 32 ((h + 1) * 0x9E3779B9) ^^^ BitVec.ofNat 32 (col * 0x85EBCA6B)
  if (xs32 (xs32 (srLoad x))).getLsbD 31 then -1 else 1
/-- The halving loop of ROW_ADD (R243). -/
def rowNorm : Nat → Nat → List Int → Int → List Int × Int
  | 0, _, v, y => (v, y)
  | k + 1, b, v, y =>
    if v.any fun x => decide (b < x.natAbs) then rowNorm k b (v.map fun x => round ⟨x, 2⟩ .rne 0) (y + 1) else (v, y)
/-- ROW_ADD (R243). -/
def rowAdd (v : List Int) (y : Int) (c : List Int) (sc : Int) (b : Nat) : List Int × Int :=
  let yn := if c.any (· != 0) then max y sc else y
  rowNorm 64 b ((v.zip c).map fun (x, z) => round ((Q.ofInt x).scale (y - yn)) .rne 0 + round ((Q.ofInt z).scale (sc - yn)) .rne 0) yn

/-- Element i of the register's rows. -/
def at16 {α : Type} (d : α) (v : Vector α 16) (i : Nat) : α := v.toList.getD i d
def Proj.sRow (p : Proj) (i : Nat) : List Int := (at16 (Vector.replicate 12 0) p.s i).toList.map BitVec.toInt
/-- sig[i] (R244). -/
def Proj.sig (p : Proj) (i : Nat) : Nat :=
  ((p.sRow i).zipIdx.map fun (x, h) => if h < p.kw ∧ 0 < x then 2 ^ h else 0).foldl (· + ·) 0
def Proj.isBad (p : Proj) (i : Nat) : Bool := p.bad.getLsbD i
/-- The squared norm of row i (Table 9.1). -/
def Proj.norm (p : Proj) (i : Nat) : Q := (Q.ofInt ((at16 0 p.nrm i).toNat : Int)).scale (at16 0 p.z i).toInt

/-- Bucket of row i (Table 9.3). -/
def Map.bucket (m : Map) (i : Nat) : Nat := field m.idx.toNat (4 * i) 4
/-- Representative row of bucket r. -/
def Map.repOf (m : Map) (r : Nat) : Nat := field m.rep.toNat (4 * r) 4
/-- The members of bucket r. -/
def Map.members (m : Map) (r : Nat) : List Nat := (List.range m.nr.toNat).filter fun i => m.bucket i == r
/-- The 24-byte image (Table 9.3). -/
def Map.image (m : Map) : List Byte :=
  toBytes 24 (m.idx.toNat + m.rep.toNat * 2 ^ 64 + m.rc.toNat * 2 ^ 128 + m.nr.toNat * 2 ^ 136 + m.rule.toNat * 2 ^ 144)
/-- The fields of an image. -/
def Map.ofNat (n : Nat) : Map :=
  ⟨BitVec.ofNat 64 n, BitVec.ofNat 64 (n / 2 ^ 64), BitVec.ofNat 5 (n / 2 ^ 128), BitVec.ofNat 5 (n / 2 ^ 136), BitVec.ofNat 2 (n / 2 ^ 144)⟩
/-- An image is consistent (R248). -/
def mapOk (n : Nat) : Bool :=
  let m := Map.ofNat n
  let rc := m.rc.toNat
  let nr := m.nr.toNat
  decide (1 ≤ rc) && decide (rc ≤ nr) && decide (nr ≤ 16) && decide (m.rule.toNat ≤ 2)
    && ((List.range 16).all fun i => if i < nr then decide (m.bucket i < rc) else m.bucket i == 0)
    && ((List.range 16).all fun r => decide (r < rc) || m.repOf r == 0)
    && ((List.range rc).all fun r => decide ((m.members r).length ≠ 0)
          && (r == 0 || decide ((m.members (r - 1)).headD 0 < (m.members r).headD 0))
          && decide (m.repOf r < nr) && m.bucket (m.repOf r) == r && (m.rule == 1 || m.repOf r == (m.members r).headD 0))
    && decide (field n 133 3 = 0) && decide (field n 141 3 = 0) && decide (field n 146 46 = 0)

/-- Runs of at most n items (R245). -/
def runs (n : Nat) : Nat → List Nat → List (List Nat)
  | 0, _ => []
  | k + 1, l => if l = [] then [] else l.take n :: runs n k (l.drop n)
/-- A bucket into its place by lowest member. -/
def placeBucket (b : List Nat) : List (List Nat) → List (List Nat)
  | [] => [b]
  | x :: t => if x.headD 0 < b.headD 0 then x :: placeBucket b t else b :: x :: t
/-- The buckets of a panel under a cap, by lowest member (R245). -/
def Proj.buckets (p : Proj) (cap : Nat) : List (List Nat) :=
  let rows := List.range p.n
  let bad := (rows.filter p.isBad).map fun i => [i]
  let good := rows.filter fun i => !p.isBad i
  let groups := ((good.map p.sig).eraseDups).map fun g => good.filter fun i => p.sig i == g
  (bad ++ (groups.map fun g => runs cap 16 g).flatten).foldl (fun l b => placeBucket b l) []
/-- REP of a bucket (Table 9.2). -/
def Proj.rep (p : Proj) (rule : BitVec 2) (b : List Nat) : Nat :=
  if rule = 1 then b.foldl (fun best i => if (p.norm best).lt (p.norm i) then i else best) (b.headD 0) else b.headD 0
/-- MAP as SIGB forms it (R245, R251). -/
def Proj.group (p : Proj) (cap : Nat) (rule : BitVec 2) : Map :=
  let bs := p.buckets cap
  ⟨BitVec.ofNat 64 ((bs.zipIdx.map fun (b, r) => (b.map fun i => r * 16 ^ i).foldl (· + ·) 0).foldl (· + ·) 0),
   BitVec.ofNat 64 ((bs.zipIdx.map fun (b, r) => p.rep rule b * 16 ^ r).foldl (· + ·) 0),
   BitVec.ofNat 5 bs.length, BitVec.ofNat 5 p.n, rule⟩

/-- GSUM (R246): one row formed from the members of a bucket; `mean` divides by their number. -/
def gsum (x : Tile) (f : BitVec 3) (mem : List Nat) (mean : Bool) (old : BitVec 16) : List (BitVec 16) × BitVec 16 :=
  let rs := mem.map fun i => rowVals f (x.row i) (x.sideAt i)
  let vs := (List.range 16).map fun j =>
    let v := if x.cols.toNat < j then Val.ofInt 0 else rs.foldl (fun a r => a.add (r.getD j .nan) .rne) (Val.ofInt 0)
    if mean then v.div (Val.ofInt mem.length) else v
  encRow f vs .rne [] old
/-- The compacted tile: rows for the buckets, then cleared rows (R251, R254). -/
def compact (td ta : Tile) (f : BitVec 3) (m : Map) (row : Nat → List (BitVec 16) × BitVec 16) : Tile :=
  { td.withRows f ((List.range 16).map fun r => if r < m.rc.toNat then row r else (List.replicate 16 0, 0xFF00)) with
    rows := BitVec.ofNat 4 (m.rc.toNat - 1), cols := ta.cols }
/-- SIGB's row of bucket r (R251). -/
def sigbRow (td ta : Tile) (f : BitVec 3) (m : Map) (r : Nat) : List (BitVec 16) × BitVec 16 :=
  if m.rule = 2 then gsum ta f (m.members r) true (td.sideAt r) else (ta.row (m.repOf r), ta.sideAt (m.repOf r))

/-- ROWS as a count. -/
def Tile.nrows (x : Tile) : Nat := x.rows.toNat + 1
/-- A signature instruction takes the array for n core cycles, doubled under the throttle (R215, R257). -/
def State.sigArray (s : State) (n : Nat) : State := s.useArray (s.st.arrayCost n)
/-- Its result latency, `extra` past the occupancy. -/
def State.sigLat (s : State) (n extra : Nat) : Nat := s.st.arrayCost n + extra
/-- Writes the projection register with a result latency. -/
def State.setProj (s : State) (p : Proj) (lat : Nat) : State :=
  s.modSt fun t => { t with proj := p }.mark .proj (some (s.cc + lat))
/-- Writes MAP with a result latency. -/
def State.setMap (s : State) (m : Map) (lat : Nat) : State :=
  s.modSt fun t => { t with map := m }.mark .map (some (s.cc + lat))

/-! ### SIGH (R250) -/

/-- A panel just started. -/
def Proj.start (k n : Nat) : Proj := { Proj.reset with kw := k, n := n, y := Vector.replicate 16 0x800, z := Vector.replicate 16 0x800 }
/-- A row that holds a saturated block, a NaN or an infinity below COLS. -/
def Tile.rowBad (x : Tile) (f : BitVec 3) (i : Nat) : Bool :=
  (isB f && decide ((x.sideAt i).toNat % 256 = 255)) ||
    ((rowVals f (x.row i) (x.sideAt i)).take (x.cols.toNat + 1)).any fun v => v.isNan || v.isInf
/-- One row of one k-tile. -/
def Proj.hashRow (p : Proj) (x : Tile) (f : BitVec 3) (k : Nat) (seed : Word) (i : Nat) : Proj :=
  if p.isBad i then p
  else if x.rowBad f i then { p with bad := p.bad ||| (1 <<< i) }
  else
    let o := oprow f x.masked i false
    let u := o.u.map Val.int
    let c := (List.range 12).map fun h =>
      if h < k then (u.zipIdx.map fun (a, t) => sigsign seed h (16 * p.kc + t) * a).foldl (· + ·) 0 else 0
    let sr := rowAdd (p.sRow i) (at16 0 p.y i).toInt c o.s (2 ^ 39 - 1)
    let nr := rowAdd [((at16 0 p.nrm i).toNat : Int)] (at16 0 p.z i).toInt [(u.map fun a => a * a).foldl (· + ·) 0] (2 * o.s) (2 ^ 48 - 1)
    let ix : BitVec 4 := BitVec.ofNat 4 i
    { p with s := wr p.s ix (Vector.ofFn fun h : Fin 12 => BitVec.ofInt 40 (sr.1.getD h.val 0)), y := wr p.y ix (BitVec.ofInt 12 sr.2),
             nrm := wr p.nrm ix (BitVec.ofInt 48 (nr.1.headD 0)), z := wr p.z ix (BitVec.ofInt 12 nr.2) }
/-- SIGH (R250): the field k holds k − 1, c the accumulate flag. -/
def execSigh (a f : BitVec 3) (k : BitVec 4) (c : BitVec 1) (s : State) : Out :=
  let x := s.t a
  let p := s.st.proj
  let kw := k.toNat + 1
  let occ := (kw * rowCost2 f + 1) / 2
  s.guard
    [s.tagFault a f,
     when (c == 1 && (p.kw == 0 || p.kw != kw || p.n != x.nrows)) (sigst 1 a.toNat 0),
     when (c == 1 && p.kc == 4095) (sigst 2 a.toNat 0)] <|
    let p := if c = 1 then p else Proj.start kw x.nrows
    let p := (List.range x.nrows).foldl (fun p i => p.hashRow x f kw s.me.sigSeed i) p
    .next ((s.sigArray occ).setProj { p with kc := p.kc + 1 } (s.sigLat occ 3)).advance

/-! ### SIGB, SIGX, SIGG (R251–R254) -/

/-- SIGB (R251); a cap of 0 means 16. -/
def execSigb (t a : BitVec 3) (n : BitVec 4) (f : BitVec 3) (r : BitVec 2) (s : State) : Out :=
  let x := s.t a
  let p := s.st.proj
  s.guard [s.tagFault a f, when (p.kw == 0) (sigst 3 a.toNat 0), when (x.nrows != p.n) (sigst 5 a.toNat 0)] <|
    let m := p.group (if n = 0 then 16 else n.toNat) r
    .next (((s.sigArray 6).setMap m (s.sigLat 6 3)).setT t (compact (s.t t) x f m (sigbRow (s.t t) x f m)) (s.sigLat 6 3)).advance
/-- SIGB.C (R251). -/
def execSigbC (t a f : BitVec 3) (s : State) : Out :=
  let x := s.t a
  let m := s.st.map
  s.guard [s.tagFault a f, when (m.rc == 0) (sigst 4 a.toNat 0), when (x.nrows != m.nr.toNat) (sigst 5 a.toNat 0)] <|
    .next ((s.sigArray 2).setT t (compact (s.t t) x f m (sigbRow (s.t t) x f m)) (s.sigLat 2 3)).advance
/-- The partials of SIGX and SIGX.SCALE (R253). -/
def scatter (m : Map) (src : Acc) (mean : Bool) : List Partial :=
  let v := src.vals
  let xe := src.x.toInt
  ((List.range 16).map fun i => (List.range 16).map fun j =>
    if m.nr.toNat ≤ i then Partial.fin 0 0
    else
      let r := m.bucket i
      let e := v.getD (16 * r + j) 0
      match accVal e xe with
      | .nan => .nan
      | .inf n => .inf n
      | .fin _ _ => if mean then .fin (round ⟨e * 256, (m.members r).length⟩ .rne 0) (xe - 8) else .fin e xe).flatten
/-- SIGX and SIGX.SCALE on a starting value of accD. -/
def State.sigxOn (s : State) (a d : BitVec 2) (z : BitVec 1) (scale : Bool) : Out :=
  let m := s.st.map
  let x := if z = 1 then (s.acc d).clear else s.acc d
  s.guard [when (m.rc == 0) (sigst 4 a.toNat 0)] <|
    .next ((s.sigArray 4).setA d (x.step (scatter m (s.acc a) (scale && m.rule == 2))) (s.sigLat 4 4)).advance
/-- SIGX (R253). -/
def execSigx (sx d : BitVec 2) (z : BitVec 1) (s : State) : Out := s.sigxOn sx d z false
/-- SIGX.SCALE (R253). -/
def execSigxScale (sx d : BitVec 2) (z : BitVec 1) (s : State) : Out := s.sigxOn sx d z true
/-- SIGG (R254). -/
def execSigg (t a f : BitVec 3) (s : State) : Out :=
  let x := s.t a
  let m := s.st.map
  s.guard [s.tagFault a f, when (m.rc == 0) (sigst 4 a.toNat 0), when (x.nrows != m.nr.toNat) (sigst 5 a.toNat 0)] <|
    .next ((s.sigArray 4).setT t (compact (s.t t) x f m fun r => gsum x f (m.members r) false ((s.t t).sideAt r)) (s.sigLat 4 4)).advance

/-! ### SIGMS, SIGML, SIGQ (R255, R256) -/

/-- SIGMS (R255). -/
def execSigms (a : BitVec 4) (s : State) : Out :=
  let p := s.addr a
  s.guard [when (decide (p % 8 ≠ 0)) (misal p 3), s.me.writeFault p 24] <|
    .next ((s.modMe fun c => c.store p s.st.map.image).useData [wordsOf p 24]).advance
/-- SIGML (R255). -/
def execSigml (a : BitVec 4) (s : State) : Out :=
  let p := s.addr a
  let n := s.me.load p 24
  s.guard [when (decide (p % 8 ≠ 0)) (misal p 3), s.me.readFault p 24, when (!mapOk n) (sigst 6 0 p)] <|
    .next (((s.modMe fun c => c.countCe p 24).useData [wordsOf p 24]).setMap (Map.ofNat n) 4).advance
/-- SIGQ's word (Table 9.5); none for a selector it does not list. -/
def sigStat (p : Proj) (m : Map) (sel : Nat) : Option Nat :=
  let sizes := (List.range m.rc.toNat).map fun r => (m.members r).length
  if sel = 0 then
    some (if m.rc = 0 then 0 else m.rc.toNat + m.nr.toNat * 2 ^ 8 + m.rule.toNat * 2 ^ 16 + sizes.foldl Nat.max 0 * 2 ^ 20
      + (sizes.filter (· == 1)).length * 2 ^ 25)
  else if sel = 1 then some (p.kw % 16 + p.n % 32 * 2 ^ 4 + p.kc % 4096 * 2 ^ 9)
  else if sel = 2 then some p.bad.toNat
  else if 16 ≤ sel ∧ sel < 32 then some (p.sig (sel - 16) + bit (p.isBad (sel - 16)) * 2 ^ 12 + m.bucket (sel - 16) * 2 ^ 13)
  else if 32 ≤ sel ∧ sel < 48 then
    let r := sel - 32
    some (if m.rc.toNat ≤ r then 0
      else ((m.members r).map (2 ^ ·)).foldl (· + ·) 0 + m.repOf r * 2 ^ 16 + (m.members r).length * 2 ^ 20)
  else none
/-- SIGQ (R256). -/
def execSigq (d : BitVec 4) (sx : BitVec 6) (s : State) : Out :=
  match sigStat s.st.proj s.st.map sx.toNat with
  | some v => .next (s.setG d (BitVec.ofNat 32 v) 2).advance
  | none => .next (s.trap s.illop)

end Sys2Proof.Machine
end

