-- ==== Sys2Proof/Machine/Saved.lean ====
section
/-! DEFINITION. The saved image of a partition as bytes: Tables 14.11 and 14.12, how a core and a hub are written in it and read
back (02 R43, 04 R88, 10 R280, 12 R325, 13 R338, 14 R372–R375). Where the tables give a region and not the layout inside it, the
layout is the model's (DESIGN CHOICE, log entry 35). -/

namespace Sys2Proof.Machine

/-! ### Stored forms -/

/-- How a value is written as bytes, and read back from the bytes that it begins. -/
structure Codec (α : Type) where
  put : α → List Byte
  get : List Byte → Option (α × List Byte)

/-- A number in k bytes. -/
def Codec.nat (k : Nat) : Codec Nat := ⟨toBytes k, fun bs => if bs.length < k then none else some (ofBytes (bs.take k), bs.drop k)⟩
/-- One form through another. -/
def Codec.iso {α β : Type} (f : α → β) (g : β → α) (c : Codec β) : Codec α := ⟨fun a => c.put (f a), fun bs => (c.get bs).map fun (b, r) => (g b, r)⟩
/-- One form through another that not every value has. -/
def Codec.part {α β : Type} (f : α → β) (g : β → Option α) (c : Codec β) : Codec α :=
  ⟨fun a => c.put (f a), fun bs => (c.get bs).bind fun (b, r) => (g b).map fun a => (a, r)⟩
/-- w bits in whole bytes. -/
def Codec.bv (w : Nat) : Codec (BitVec w) := .iso BitVec.toNat (BitVec.ofNat w) (.nat ((w + 7) / 8))
def Codec.bool : Codec Bool := .iso bit (· != 0) (.nat 1)
/-- One form after another. -/
def Codec.pair {α β : Type} (a : Codec α) (b : Codec β) : Codec (α × β) :=
  ⟨fun x => a.put x.1 ++ b.put x.2, fun bs => (a.get bs).bind fun (x, r) => (b.get r).map fun (y, r) => ((x, y), r)⟩
/-- Reads n values. -/
def Codec.getN {α : Type} (c : Codec α) : Nat → List Byte → Option (List α × List Byte)
  | 0, bs => some ([], bs)
  | n + 1, bs => (c.get bs).bind fun (x, r) => (c.getN n r).map fun (l, r) => (x :: l, r)
/-- A list behind its length. -/
def Codec.list {α : Type} (c : Codec α) : Codec (List α) :=
  ⟨fun l => toBytes 2 l.length ++ (l.map c.put).flatten, fun bs => ((Codec.nat 2).get bs).bind fun (n, r) => c.getN n r⟩
/-- A register file. -/
def Codec.vec {α : Type} (n : Nat) (c : Codec α) : Codec (Vector α n) :=
  ⟨fun v => (v.toList.map c.put).flatten,
   fun bs => (c.getN n bs).bind fun (l, r) => if h : l.toArray.size = n then some (⟨l.toArray, h⟩, r) else none⟩
/-- What may be absent. -/
def Codec.opt {α : Type} (c : Codec α) : Codec (Option α) := .part Option.toList (fun l => if l.length ≤ 1 then some l.head? else none) c.list
/-- A name of a fixed list, by its place there. -/
def Codec.name {α : Type} [DecidableEq α] (l : List α) : Codec α := .part (fun a => (l.findIdx? (· == a)).getD 0) (fun i => l[i]?) (.nat 1)
/-- A signed number in 8 bytes. -/
def Codec.int : Codec Int := .iso (BitVec.ofInt 64) BitVec.toInt (.bv 64)

/-! ### Strands (Table 14.12) -/

def Place.codec : Codec Place :=
  .iso (fun p => (p.epc, p.eclb, p.idx, p.indiv)) (fun (a, b, c, d) => ⟨a, b, c, d⟩) (.pair (.bv 16) <| .pair (.bv 16) <| .pair (.nat 1) .bool)
/-- A register of the scoreboard as a number. -/
def Reg.code : Reg → Nat
  | .g i => i.toNat | .v i => 16 + i.toNat | .t i => 32 + i.toNat | .m i => 40 + i.toNat | .acc i => 44 + i.toNat
  | .proj => 48 | .map => 49 | .tpr => 50 | .astat => 51
def Reg.ofCode (n : Nat) : Option Reg :=
  if n < 16 then some (.g (BitVec.ofNat 4 n)) else if n < 32 then some (.v (BitVec.ofNat 4 n)) else if n < 40 then some (.t (BitVec.ofNat 3 n))
  else if n < 44 then some (.m (BitVec.ofNat 2 n)) else if n < 48 then some (.acc (BitVec.ofNat 2 n))
  else [Reg.proj, Reg.map, Reg.tpr, Reg.astat][n - 48]?
def Pend.codec : Codec Pend :=
  .iso (fun p => (p.reg, p.due, p.mma)) (fun (a, b, c) => ⟨a, b, c⟩) (.pair (.part Reg.code Reg.ofCode (.nat 1)) <| .pair (.opt (.nat 8)) .bool)
/-- A wait as its kind and its operands (Table 4.3). -/
def Wait.nums : Wait → Nat × Nat × Nat × Nat
  | .idle => (0, 0, 0, 0) | .sleep n => (1, 0, 0, n) | .timew n => (2, 0, 0, n.toNat) | .waitm d m => (3, d.toNat, 0, m.toNat)
  | .spawnRoom d e a => (4, d.toNat, e.toNat, a.toNat) | .spawnGrant d => (5, d.toNat, 0, 0) | .recv c d => (6, d.toNat, c.toNat, 0)
  | .recvV c v => (7, v.toNat, c.toNat, 0) | .waitch c d => (8, d.toNat, c.toNat, 0) | .join m => (9, 0, 0, m.toNat)
  | .twany d m c => (10, d.toNat, bit c, m.toNat) | .twall m c => (11, 0, bit c, m.toNat) | .collw d k => (12, d.toNat, k.toNat, 0)
  | .cjoinCount j d r => (13, d.toNat, j.toNat, bit r) | .cjoinFire j g => (14, 0, j.toNat, g.toNat) | .token v => (15, bit v, 0, 0)
def Wait.ofNums : Nat × Nat × Nat × Nat → Option Wait
  | (k, d, e, x) =>
    let g := BitVec.ofNat 4 d
    let m := BitVec.ofNat 64 x
    [.idle, .sleep x, .timew m, .waitm g m, .spawnRoom g (BitVec.ofNat 4 e) (BitVec.ofNat 32 x), .spawnGrant g, .recv (BitVec.ofNat 6 e) g,
     .recvV (BitVec.ofNat 6 e) g, .waitch (BitVec.ofNat 6 e) g, .join m, .twany g m (e != 0), .twall m (e != 0), .collw g (BitVec.ofNat 6 e),
     .cjoinCount (BitVec.ofNat 5 e) g (x != 0), .cjoinFire (BitVec.ofNat 5 e) (BitVec.ofNat 16 x), .token (d != 0)][k]?
/-- A hold as its kind and operand. -/
def Hold.nums : Hold → Nat × Nat
  | .none => (0, 0) | .atomic => (1, 0) | .hubAck => (2, 0) | .bsetFull n => (3, n.toNat) | .gmma => (4, 0) | .exiting s => (5, bit s)
def Hold.ofNums : Nat × Nat → Option Hold
  | (k, x) => [.none, .atomic, .hubAck, .bsetFull (BitVec.ofNat 5 x), .gmma, .exiting (x != 0)][k]?
/-- The reason for a fill as its kind, an index and a place. -/
def FillWhy.nums : FillWhy → Nat × Nat × Place
  | .enter => (0, 0, Place.reset) | .jump p => (1, 0, p) | .fall => (2, 0, Place.reset) | .resume i => (3, i, Place.reset)
  | .thaw i => (4, i, Place.reset)
def FillWhy.ofNums : Nat × Nat × Place → Option FillWhy
  | (k, i, p) => [.enter, .jump p, .fall, .resume i, .thaw i][k]?
/-- A fill asked for and not begun. -/
def Fill.codec : Codec Fill :=
  .iso (fun f => (f.addr, f.why)) (fun (a, w) => mkFill a w 0)
    (.pair (.bv 16) (.part FillWhy.nums FillWhy.ofNums (.pair (.nat 1) <| .pair (.nat 1) Place.codec)))
def Cover.codec : Codec Cover := .name [.fresh, .claimed, .plain, .covered, .uncovered]
def Proj.codec : Codec Proj :=
  .iso (fun p => (p.kw, p.n, p.kc, p.s, p.y, p.nrm, p.z, p.bad)) (fun (a, b, c, d, e, f, g, h) => ⟨a, b, c, d, e, f, g, h⟩)
    (.pair (.nat 2) <| .pair (.nat 2) <| .pair (.nat 2) <| .pair (.vec 16 (.vec 12 (.bv 40))) <| .pair (.vec 16 (.bv 12)) <|
      .pair (.vec 16 (.bv 48)) <| .pair (.vec 16 (.bv 12)) (.bv 16))
/-- A declaration (R338). -/
def Decl.codec : Codec Decl :=
  .iso (fun d => (d.st, d.intensity, d.length)) (fun (a, b, c) => ⟨a, b, c, 0, none⟩)
    (.pair (.name [.none, .requested, .admitted, .active]) <| .pair (.nat 2) (.nat 8))
/-- The progress of a GMMA (R236), but for the flits that it has taken. -/
def Gmma.codec : Codec Gmma :=
  .iso (fun q => (q.acc, q.fa, q.fb, q.fmtA, q.fmtB, q.ca, q.cb, q.k, q.ba, q.bb, q.step, q.pc, q.inA, q.inB))
    (fun (a, b, c, d, e, f, g, h, i, j, k, l, m, n) => ⟨a, b, c, d, e, f, g, h, i, j, k, l, [], [], m, n, none⟩)
    (.pair (.bv 2) <| .pair .bool <| .pair .bool <| .pair (.bv 3) <| .pair (.bv 3) <| .pair (.bv 6) <| .pair (.bv 6) <| .pair (.nat 2) <|
      .pair (.bv 5) <| .pair (.bv 5) <| .pair (.nat 2) <| .pair (.bv 16) <| .pair .bool .bool)
/-- 0x000 of a strand context: the state, the wait condition with its operands, STATUS, the stamp, and what holds the strand. -/
structure StrandHead where
  run : Run
  frozen : Bool
  wait : Wait
  waitFrom : Nat
  hold : Hold
  status : Word
  stamp : Nat
  notBefore : Nat
  trapEntry : Option Addr
  handler : Bool
  offer : Bool
  cover : Cover
  here : Place
  epc : Addr
def StrandHead.codec : Codec StrandHead :=
  .iso (fun h => (h.run, h.frozen, h.wait, h.waitFrom, h.hold, h.status, h.stamp, h.notBefore, h.trapEntry, h.handler, h.offer, h.cover, h.here, h.epc))
    (fun (a, b, c, d, e, f, g, h, i, j, k, l, m, n) => ⟨a, b, c, d, e, f, g, h, i, j, k, l, m, n⟩)
    (.pair (.name [.free, .ready, .waiting, .stopped]) <| .pair .bool <|
      .pair (.part Wait.nums Wait.ofNums (.pair (.nat 1) <| .pair (.nat 1) <| .pair (.nat 1) (.nat 8))) <| .pair (.nat 8) <|
      .pair (.part Hold.nums Hold.ofNums (.pair (.nat 1) (.nat 1))) <| .pair (.bv 32) <| .pair (.nat 6) <| .pair (.nat 4) <|
      .pair (.opt (.bv 16)) <| .pair .bool <| .pair .bool <| .pair Cover.codec <| .pair Place.codec (.bv 16))
/-- 0x090 of a strand context, in the order of Table 14.12. -/
def frameCodec : Codec (Addr × Addr × BitVec 6 × Word × Word × Dword × BitVec 3 × Word × Word × Word × Word) :=
  let w := fun {n : Nat} (_ : Unit) => (Codec.iso BitVec.toNat (BitVec.ofNat n) (.nat 4) : Codec (BitVec n))
  .pair (w ()) <| .pair (w ()) <| .pair (w ()) <| .pair (w ()) <| .pair (w ()) <| .pair (.bv 64) <| .pair (w ()) <| .pair (w ()) <| .pair (w ()) <|
    .pair (w ()) (w ())
/-- The parts of a strand's context with their offsets (Table 14.12). -/
def Strand.context (t : Strand) : List (Nat × List Byte) :=
  let f := t.frame
  [(0, StrandHead.codec.put ⟨t.run, t.frozen, t.wait, t.waitFrom, t.hold, t.status, t.stamp, t.notBefore, t.trapEntry, t.handler, t.offer, t.cover,
      t.here, f.epc⟩),
   (0x40, (Codec.vec 16 (.bv 32)).put t.g), (0x80, (Codec.vec 4 (.bv 32)).put t.m),
   (0x90, frameCodec.put (t.pc, f.eclb, f.eidx, f.causeWord, f.einfo, f.eaddr, t.fsel, t.astat, t.inbind, t.undecl, t.tpr)),
   (0xC0, (Codec.pair Decl.codec <| .pair (.opt Gmma.codec) <| .pair .bool <| .pair (.bv 16) <| .pair (.bv 32) (.opt Fill.codec)).put
      (t.decl, t.gmma, t.buf.valid, t.buf.addr, t.buf.hdr, t.fill)),
   (0x100, Proj.codec.put t.proj), (0x600, t.map.image)]
/-- The strand that a context's 2,048 bytes hold. -/
def Strand.ofContext (bs : List Byte) : Option Strand := do
  let (h, _) ← StrandHead.codec.get bs
  let (g, _) ← (Codec.vec 16 (.bv 32)).get (bs.drop 0x40)
  let (m, _) ← (Codec.vec 4 (.bv 32)).get (bs.drop 0x80)
  let ((pc, eclb, eidx, cw, einfo, eaddr, fsel, astat, inbind, undecl, tpr), _) ← frameCodec.get (bs.drop 0x90)
  let ((decl, gmma, valid, addr, hdr, fill), _) ←
    (Codec.pair Decl.codec <| .pair (.opt Gmma.codec) <| .pair .bool <| .pair (.bv 16) <| .pair (.bv 32) (.opt Fill.codec)).get (bs.drop 0xC0)
  let (proj, _) ← Proj.codec.get (bs.drop 0x100)
  pure { Strand.reset with
    run := h.run, frozen := h.frozen, wait := h.wait, waitFrom := h.waitFrom, hold := h.hold, status := h.status, stamp := h.stamp,
    notBefore := h.notBefore, trapEntry := h.trapEntry, handler := h.handler, offer := h.offer, cover := h.cover, here := h.here, g := g, m := m,
    pc := pc, fsel := fsel, astat := astat, inbind := inbind, undecl := undecl, tpr := tpr, decl := decl, gmma := gmma,
    buf := ⟨valid, addr, hdr, []⟩, fill := fill, proj := proj, map := Map.ofNat (Sys2Proof.Machine.ofBytes ((bs.drop 0x600).take 24)),
    frame := ⟨cw.truncate 8, cw.getLsbD 8, cw.getLsbD 9, h.epc, eclb, eidx, einfo, eaddr⟩ }

/-! ### The other stores of a core (Table 14.11) -/

def VReg.codec : Codec VReg := .iso (fun r => (r.lanes, r.side)) (fun (a, b) => ⟨a, b⟩) (.pair (.vec 32 (.bv 16)) (.bv 32))
def Tile.codec : Codec Tile :=
  .iso (fun t => (t.fmt, t.rows, t.cols, t.side, t.el)) (fun (a, b, c, d, e) => ⟨a, b, c, d, e⟩)
    (.pair (.bv 3) <| .pair (.bv 4) <| .pair (.bv 4) <| .pair (.vec 16 (.bv 16)) (.vec 16 (.vec 16 (.bv 16))))
def Acc.codec : Codec Acc :=
  .iso (fun a => (a.a, a.x, a.steps)) (fun (a, b, c) => ⟨a, b, c⟩) (.pair (.vec 256 (.bv 40)) <| .pair (.bv 12) (.bv 16))
def Bobbin.codec : Codec Bobbin :=
  .iso (fun b => (b.base, b.size, b.fmt, b.swz, b.eom, b.bkind, b.bind, b.ften, b.ftag, b.sbase, b.fill, b.head, b.st, b.mixed, b.valid))
    (fun (a, b, c, d, e, f, g, h, i, j, k, l, m, n, o) => ⟨a, b, c, d, e, f, g, h, i, j, k, l, m, n, o⟩)
    (.pair (.bv 16) <| .pair (.bv 16) <| .pair (.bv 3) <| .pair (.bv 3) <| .pair .bool <| .pair (.bv 2) <| .pair (.bv 6) <| .pair .bool <|
      .pair (.bv 6) <| .pair (.bv 16) <| .pair (.bv 16) <| .pair (.bv 16) <| .pair (.name [.empty, .filling, .full, .draining]) <| .pair .bool .bool)
def Tag.codec : Codec Tag :=
  .iso (fun k => (k.st, k.holder, k.live, k.cause, k.einfo, k.eaddr)) (fun (a, b, c, d, e, f) => ⟨a, b, c, d, e, f⟩)
    (.pair (.name [.idle, .busy, .set, .faulted]) <| .pair (.name [.none, .copy, .sendb, .round, .eld, .est, .ewatch, .coll]) <| .pair .bool <|
      .pair (.bv 8) <| .pair (.bv 32) (.bv 64))
def flitsCodec : Codec (List (BitVec 128 × BitVec 32)) := .list (.pair (.bv 128) (.bv 32))
def Msg.codec : Codec Msg := .iso (fun m => (m.hdr, m.flits)) (fun (a, b) => ⟨a, b⟩) (.pair (.bv 128) flitsCodec)
def Flit.codec : Codec Flit := .iso (fun f => (f.ctl, f.data, f.side)) (fun (a, b, c) => ⟨a, b, c⟩) (.pair (.bv 8) <| .pair (.bv 128) (.bv 32))
def Way.codec : Codec Way :=
  .iso (fun w => (w.ch, w.port, w.outs, w.left)) (fun (a, b, c, d) => ⟨a, b, c, d⟩) (.pair (.bv 6) <| .pair (.nat 1) <| .pair (.list (.nat 1)) (.nat 1))
def Emit.codec : Codec Emit :=
  .iso (fun e => (e.key, e.out, e.msg, e.sent)) (fun (a, b, c, d) => ⟨a, b, c, d⟩) (.pair (.bv 6) <| .pair (.nat 1) <| .pair Msg.codec (.nat 1))
/-- A local message's state as its kind, a bobbin or the age of its spawn request, and an entry. -/
def LocSt.nums : LocSt → Nat × Nat × Option (BitVec 4)
  | .fresh => (0, 0, none) | .stands => (1, 0, none) | .deposit b e => (2, b.toNat, e) | .queue e n => (3, n, some e) | .drop => (4, 0, none)
def LocSt.ofNums : Nat × Nat × Option (BitVec 4) → Option LocSt
  | (k, b, e) => [.fresh, .stands, .deposit (BitVec.ofNat 5 b) e, .queue (e.getD 0) b, .drop][k]?
def LocalMsg.codec : Codec LocalMsg :=
  .iso (fun l => (l.msg, l.came, l.word0, l.head, l.arrived, l.st)) (fun (a, b, c, d, e, f) => ⟨a, b, c, d, e, f⟩)
    (.pair Msg.codec <| .pair (.nat 1) <| .pair (.bv 32) <| .pair .bool <| .pair (.nat 8)
      (.part LocSt.nums LocSt.ofNums (.pair (.nat 1) <| .pair (.nat 6) (.opt (.bv 4)))))
/-- What waits in the injection buffer: a message, or a SENDB. -/
def Inject.parts : Inject → Option (Msg × Nat) × Option Bulk
  | .msg m n _ => (some (m, n), none)
  | .sendb b => (none, some b)
def Inject.ofParts : Option (Msg × Nat) × Option Bulk → Option Inject
  | (some (m, n), none) => some (.msg m n 0)
  | (none, some b) => some (.sendb b)
  | _ => none
def Bulk.codec : Codec Bulk :=
  .iso (fun b => (b.ch, b.src, b.side, b.left, b.n, b.fmt, b.tag, b.seq, b.sideWord)) (fun (a, b, c, d, e, f, g, h, i) => ⟨a, b, c, d, e, f, g, h, 0, i⟩)
    (.pair (.bv 6) <| .pair (.bv 16) <| .pair (.bv 16) <| .pair (.nat 3) <| .pair (.nat 3) <| .pair (.bv 3) <| .pair (.bv 6) <| .pair (.bv 16)
      (.opt (.pair (.nat 2) (.list (.bv 8)))))
def Inject.codec : Codec Inject := .part Inject.parts Inject.ofParts (.pair (.opt (.pair Msg.codec (.nat 1))) (.opt Bulk.codec))
def Trick.codec : Codec Trick :=
  .iso (fun t => (t.bound, t.ctl, t.s, t.ofmt, t.root, t.p, t.a, t.rn, t.lastRn, t.got, t.st, t.count, t.arcs))
    (fun (a, b, c, d, e, f, g, h, i, j, k, l, m) => ⟨a, b, c, d, e, f, g, h, i, j, k, l, m⟩)
    (.pair (.opt (.bv 6)) <| .pair (.bv 6) <| .pair (.nat 2) <| .pair (.bv 3) <| .pair .bool <| .pair (.list (.opt (.nat 2))) <|
      .pair (.list (.list (.opt .int))) <| .pair (.bv 15) <| .pair (.bv 15) <| .pair (.bv 5) <| .pair (.name [.idle, .collecting, .settling]) <|
      .pair (.bv 16) (.list (.pair (.nat 1) Msg.codec)))
def Entry.codec : Codec Entry :=
  .iso (fun e => (e.addr, e.v, e.t, e.a, e.pri, e.trap, e.start)) (fun (a, b, c, d, e, f, g) => ⟨a, b, c, d, e, f, g⟩)
    (.pair (.bv 16) <| .pair (.bv 5) <| .pair (.bv 4) <| .pair (.bv 3) <| .pair (.bv 2) <| .pair (.opt (.bv 16)) .bool)
/-- A spawn request, whose place is its place in the queue. -/
def SpawnReq.codec : Codec SpawnReq :=
  .iso (fun q => (q.entry, q.g1, q.g2, q.waiter)) (fun (a, b, c, d) => ⟨a, b, c, d⟩)
    (.pair (.bv 4) <| .pair (.bv 32) <| .pair (.bv 32) (.opt (.pair (.bv 3) (.bv 4))))
/-- A copy that stands between two steps (R372). -/
def Copy.codec : Codec Copy :=
  .iso (fun p => (p.src, p.side, p.dst, p.n, p.tag, p.bob, p.pos, p.off, p.last.isSome))
    (fun (a, b, c, d, e, f, g, h, i) => ⟨a, b, c, d, e, f, 0, g, h, [], if i then some 0 else none⟩)
    (.pair (.bv 16) <| .pair (.bv 16) <| .pair (.bv 16) <| .pair (.nat 3) <| .pair (.bv 6) <| .pair (.opt (.bv 5)) <| .pair (.nat 3) <|
      .pair (.nat 2) .bool)
def Shape.codec : Codec Shape :=
  .iso (fun r => (r.fmt, r.dir, r.dims, r.depth, r.xp, r.swz, r.brick, r.base, r.sbase, r.ext, r.stride, r.resv))
    (fun (a, b, c, d, e, f, g, h, i, j, k, l) => ⟨a, b, c, d, e, f, g, h, i, j, k, l⟩)
    (.pair (.bv 3) <| .pair .bool <| .pair (.bv 3) <| .pair (.bv 3) <| .pair .bool <| .pair (.bv 3) <| .pair (.bv 5) <| .pair (.bv 57) <|
      .pair (.bv 57) <| .pair (.vec 8 (.bv 32)) <| .pair (.vec 8 (.bv 64)) .bool)
/-- A round: of a parked one the units before some unit have landed, and none behind it. -/
def Round.codec : Codec Round :=
  .iso (fun r => (r.id, r.n, r.tag, r.arc, r.shape, r.src, r.side, r.slot, r.st, r.begun, r.next, r.landed.length, r.sideWord, r.fault.map fun f => (f.at_, f.cause, f.reason, f.addr)))
    (fun (a, b, c, d, e, f, g, h, i, j, k, l, o, m) => ⟨a, b, c, d, e, f, g, h, i, j, k, List.range l, m.map (fun (x, y, z, w) => ⟨x, y, z, w⟩), [], o⟩)
    (.pair (.nat 2) <| .pair (.nat 4) <| .pair (.bv 6) <| .pair (.opt (.bv 6)) <| .pair Shape.codec <| .pair (.bv 16) <| .pair (.bv 16) <|
      .pair (.bv 3) <| .pair (.name [.queued, .armed, .running, .faulting, .faulted, .cancelling]) <| .pair .bool <| .pair (.nat 2) <|
      .pair (.nat 2) <| .pair (.opt (.pair (.nat 2) (.list (.bv 8)))) (.opt (.pair (.nat 2) <| .pair (.bv 8) <| .pair (.bv 2) (.bv 64))))
/-- A stream slot; its spindle is named anew when the image resumes (R280). -/
def Stream.codec : Codec Stream :=
  .iso (fun t => (t.st, t.entry, t.bob, t.shape, t.rounds)) (fun (a, b, c, d, e) => ⟨a, b, c, 0, d, e, (0, 0)⟩)
    (.pair (.name [.free, .binding, .bound]) <| .pair (.bv 6) <| .pair (.opt (.bv 5)) <| .pair Shape.codec (.list Round.codec))
def FaultRec.codec : Codec FaultRec :=
  .iso (fun r => (r.d0, r.d1, r.d2, r.d3, r.part)) (fun (a, b, c, d, e) => ⟨a, b, c, d, e⟩)
    (.pair (.bv 64) <| .pair (.bv 64) <| .pair (.bv 64) <| .pair (.bv 64) (.opt (.nat 1)))
/-- An edge operation that a frozen core keeps: its kind, four operands and a comparand (R280, R292). -/
def EdgeOp.nums : EdgeOp → Nat × Nat × Nat × Nat × Nat × Nat
  | .eld b o z k l t => (0, b.toNat, o, z + 128 * bit k + 256 * bit l, t.toNat, 0)
  | .est t => (1, 0, 0, 0, t.toNat, 0)
  | .ewatch c t => (2, 0, 0, 0, t.toNat, c.toNat)
  | _ => (3, 0, 0, 0, 0, 0)
def EdgeOp.ofNums : Nat × Nat × Nat × Nat × Nat × Nat → Option EdgeOp
  | (k, b, o, z, t, c) =>
    let t := BitVec.ofNat 6 t
    [.eld (BitVec.ofNat 5 b) o (z % 128) (z.testBit 7) (z.testBit 8) t, .est t, .ewatch (BitVec.ofNat 64 c) t][k]?
def Piece.codec : Codec Piece := .iso (fun p => (p.va, p.n, p.data)) (fun (a, b, c) => ⟨a, b, 0, c⟩) (.pair (.nat 8) <| .pair (.nat 1) (.list (.bv 8)))
/-- An edge operation of a frozen core: held by its fault, landed behind one that is, or a watch to be sent again. -/
def EdgeReq.codec : Codec EdgeReq :=
  .iso (fun q => (q.id, q.slot, q.write, q.op, q.pieces, q.stage == .held, q.landed))
    (fun (a, b, c, d, e, f, g) => ⟨a, 0, b, 0, c, d, e, if f then .held else if g then .back else .toBrick, 0, none, 0, g⟩)
    (.pair (.nat 2) <| .pair (.bv 3) <| .pair .bool <|
      .pair (.part EdgeOp.nums EdgeOp.ofNums (.pair (.nat 1) <| .pair (.nat 1) <| .pair (.nat 2) <| .pair (.nat 2) <| .pair (.nat 1) (.nat 8))) <|
      .pair (.list Piece.codec) <| .pair .bool .bool)
/-- What a strand's requests leave in it (R299, R313). -/
def strandWork : Codec (List Pend × List Nat × List (List Nat) × List RelHeld) :=
  .pair (.list Pend.codec) <| .pair (.list (.nat 2)) <| .pair (.list (.list (.nat 2)))
    (.list (.iso (fun r => (r.j, r.d, r.acq, r.ids)) (fun (a, b, c, d) => ⟨a, b, c, d⟩) (.pair (.bv 5) <| .pair (.bv 4) <| .pair .bool (.list (.nat 2)))))

/-! ### A core's segment -/

/-- A core as its segment holds it: with its edge operations, and the number that stands for it in its collectives (R325). -/
structure Parked where
  core : Core
  reqs : List EdgeReq
  handle : Nat

/-- The router's state and the spindle table, for which Table 14.11 names no place, with the flits that running GMMAs have
taken. -/
def routerCodec : Codec (Vector (BitVec 16) 64 × List (Nat × Flit) × List Way × List Emit × List LocalMsg × List ((Nat × Nat) × Nat) ×
    List ((Nat × Nat) × Nat) × List (BitVec 6 × Nat) × List (BitVec 6 × Nat) × Vector Trick 8 × Vector (Option Shape) 64 ×
    Vector (List (BitVec 128 × BitVec 32) × List (BitVec 128 × BitVec 32)) 8) :=
  let counts : Codec (List ((Nat × Nat) × Nat)) := .list (.pair (.pair (.nat 1) (.nat 1)) (.nat 2))
  let wins : Codec (List (BitVec 6 × Nat)) := .list (.pair (.bv 6) (.nat 1))
  .pair (.vec 64 (.bv 16)) <| .pair (.list (.pair (.nat 1) Flit.codec)) <| .pair (.list Way.codec) <| .pair (.list Emit.codec) <|
    .pair (.list LocalMsg.codec) <| .pair counts <| .pair counts <| .pair wins <| .pair wins <| .pair (.vec 8 Trick.codec) <|
    .pair (.vec 64 (.opt Shape.codec)) (.vec 8 (.pair flitsCodec flitsCodec))
/-- The region at 0x21000 (Table 14.11), with the records that stopped strands have formed and the counts of R318. -/
def miscCodec : Codec (Vector Bobbin 32 × Vector Tag 64 × Vector (BitVec 32) 64 × Vector (BitVec 16) 64 × List SpawnReq × Vector (Option Entry) 16 ×
    Word × Word × Word × Word × BitVec 4 × BitVec 2 × Bool × List FaultRec × Vector (Option FaultRec) 8 × List (Nat × Nat) × Nat) :=
  .pair (.vec 32 Bobbin.codec) <| .pair (.vec 64 Tag.codec) <| .pair (.vec 64 (.bv 32)) <| .pair (.vec 64 (.bv 16)) <|
    .pair (.list SpawnReq.codec) <| .pair (.vec 16 (.opt Entry.codec)) <| .pair (.bv 32) <| .pair (.bv 32) <| .pair (.bv 32) <| .pair (.bv 32) <|
    .pair (.bv 4) <| .pair (.bv 2) <| .pair .bool <| .pair (.list FaultRec.codec) <| .pair (.vec 8 (.opt FaultRec.codec)) <|
    .pair (.list (.pair (.nat 2) (.nat 8))) (.nat 8)
/-- The region at 0x22000: stream slots with their rounds, watches and other edge operations, the injection buffer, copies, and
what strands have outstanding. -/
def workCodec : Codec (Vector Stream 16 × List EdgeReq × List Inject × List Copy × Vector (List Pend × List Nat × List (List Nat) × List RelHeld) 8) :=
  .pair (.vec 16 Stream.codec) <| .pair (.list EdgeReq.codec) <| .pair (.list Inject.codec) <| .pair (.list Copy.codec) (.vec 8 strandWork)

/-- Where the router's state and what is outstanding stand: their own regions, and behind those what the regions of the vector
file, the tile file and the accumulators leave. -/
def routerAreas : List (Nat × Nat) := [(0x10000, 0x8000), (0x1C900, 0x700)]
def workAreas : List (Nat × Nat) := [(0x22000, 0x1000), (0x1E200, 0xE00), (0x20500, 0xB00)]
/-- Bytes laid over areas. -/
def spread : List (Nat × Nat) → List Byte → List (Nat × List Byte)
  | [], _ => []
  | (o, n) :: t, bs => (o, bs.take n) :: spread t (bs.drop n)
/-- The bytes of areas of a segment, one after another. -/
def gather (areas : List (Nat × Nat)) (bs : List Byte) : List Byte := (areas.map fun (o, n) => (bs.drop o).take n).flatten
/-- A segment of a length from its parts, by rising offset; the rest is zero. -/
def assemble (len : Nat) : Nat → List (Nat × List Byte) → List Byte
  | pos, [] => List.replicate (len - pos) 0
  | pos, (o, bs) :: t => List.replicate (o - pos) 0 ++ bs ++ assemble len (o + bs.length) t
/-- The bytes of a core segment (Table 14.11). -/
def coreBytes : Nat := 0x28000
/-- A part placed by its offset. -/
def byOffset (x : Nat × List Byte) : List (Nat × List Byte) → List (Nat × List Byte)
  | [] => [x]
  | y :: t => if x.1 < y.1 then x :: y :: t else y :: byOffset x t
/-- A core segment behind its SRAM. -/
def Parked.parts (x : Parked) : List (Nat × List Byte) :=
  let c := x.core
  let router := routerCodec.put (c.routes, c.freezeBuf, c.ways, c.emits, c.locals, c.used, c.owed, c.lastWin, c.picks, c.tricks, c.shapes,
    c.strands.map fun t => match t.gmma with | some q => (q.gotA, q.gotB) | none => ([], []))
  let misc := miscCodec.put (c.bobbins, c.tags, c.trigs, c.sendCtr, c.spawnQ, c.entries, c.srDrain, c.srVcvt, c.srSeed, c.sigSeed, c.cap, c.pol, c.splice,
    c.reports, c.strands.map (·.fault), c.collCount, x.handle)
  let work := workCodec.put (c.streams, x.reqs, c.inject, c.copies, c.strands.map fun t => (t.pend, t.edgeIds, t.fences, t.rel))
  let strands := (slots.map fun k => (c.strand k).context.map fun (o, bs) => (0x18000 + 0x800 * k.toNat + o, bs)).flatten
  (spread routerAreas router ++ strands ++ [(0x1C000, (Codec.vec 32 VReg.codec).put c.vregs), (0x1D000, (Codec.vec 8 Tile.codec).put c.tiles),
    (0x1F000, (Codec.vec 4 Acc.codec).put c.accs), (0x21000, misc)] ++ spread workAreas work).foldl (fun l x => byOffset x l) []
/-- A core segment. -/
def Parked.segment (x : Parked) : List Byte :=
  (List.range 65536).map (fun i => Memory.get x.core.sram i) ++ assemble coreBytes 65536 x.parts
/-- What a segment's bytes hold, whether or not they are the bytes of it. Table 14.11 saves no last issuing slot: none is named after
a resume (DESIGN CHOICE, log entry 48). -/
def Parked.read (bs : List Byte) : Option Parked := do
  let ((routes, freezeBuf, ways, emits, locals, used, owed, lastWin, picks, tricks, shapes, got), _) ← routerCodec.get (gather routerAreas bs)
  let ((bobbins, tags, trigs, sendCtr, spawnQ, entries, srDrain, srVcvt, srSeed, sigSeed, cap, pol, splice, reports, faults, collCount, handle), _) ←
    miscCodec.get ((bs.drop 0x21000).take 0x1000)
  let ((streams, reqs, inject, copies, work), _) ← workCodec.get (gather workAreas bs)
  let ts ← slots.mapM fun k => Strand.ofContext ((bs.drop (0x18000 + 0x800 * k.toNat)).take 0x800)
  let (vregs, _) ← (Codec.vec 32 VReg.codec).get (bs.drop 0x1C000)
  let (tiles, _) ← (Codec.vec 8 Tile.codec).get (bs.drop 0x1D000)
  let (accs, _) ← (Codec.vec 4 Acc.codec).get (bs.drop 0x1F000)
  let strands : Vector Strand 8 := Vector.ofFn fun i : Fin 8 =>
    let t := ts.getD i.val Strand.reset
    { t with pend := work[i].1, edgeIds := work[i].2.1, fences := work[i].2.2.1, rel := work[i].2.2.2, fault := faults[i],
             gmma := t.gmma.map fun q => { q with gotA := got[i].1, gotB := got[i].2 } }
  pure ⟨{ Core.reset with
    strands := strands, vregs := vregs, tiles := tiles, accs := accs, sram := Memory.write [] 0 (bs.take 65536), bobbins := bobbins, tags := tags,
    routes := routes, trigs := trigs, sendCtr := sendCtr, tricks := tricks, inject := inject, ways := ways, emits := emits, locals := locals, used := used,
    owed := owed, lastWin := lastWin, picks := picks, freezeBuf := freezeBuf, entries := entries, spawnQ := spawnQ, shapes := shapes, streams := streams,
    copies := copies, srDrain := srDrain, srVcvt := srVcvt, srSeed := srSeed, sigSeed := sigSeed, cap := cap, pol := pol, splice := splice,
    reports := reports, collCount := collCount }, reqs, handle⟩

/-- A cause that hardware can hold: a code of Table 14.1, or 0 where there has been no fault (R355, R356). -/
def causeOk (c : BitVec 8) : Bool := c == 0 || causeCodes.contains c
/-- A record's code is one of Table 14.1 (R360). -/
def FaultRec.legal (r : FaultRec) : Bool := causeCodes.contains (r.d0.truncate 8)
/-- ASTAT's reserved bits are 0, and FADDR is 0 while no sticky bit is set (Table 5.6). -/
def astatOk (w : Word) : Bool := w &&& 0xE080 == 0 && (w &&& 0x7F != 0 || decide (w.toNat < 2 ^ 16))
/-- A strand's grants lie in the core's files, and its register fields that hardware keeps at 0 are 0 (R375). -/
def Strand.legal (t : Strand) (k : BitVec 3) : Bool :=
  !t.resident ||
    (astatOk t.astat && causeOk t.frame.cause && t.status.toNat / 2 ^ 30 == 0 && !t.status.getLsbD 3 && t.status.toNat % 8 == k.toNat &&
      decide (t.vbase + t.vgrant ≤ 32) && t.vgrant % 4 == 0 && decide (t.vgrant ≤ 16) && decide (t.tbase + t.tgrant ≤ 8) &&
      decide (t.abase + t.agrant ≤ 4) && !badTpr t.tpr && (t.map == Map.reset || mapOk (Sys2Proof.Machine.ofBytes t.map.image)))
/-- The core registers that a resident strand holds: vector registers, tiles, accumulators. -/
def Strand.holds (t : Strand) : List Nat :=
  if t.resident then (List.range t.vgrant).map (t.vbase + ·) ++ (List.range t.tgrant).map (32 + t.tbase + ·) ++ (List.range t.agrant).map (40 + t.abase + ·)
  else []
/-- A core is in a state that hardware can be in, as far as the tables of the spec bound it (R375); a generator is never zero (03
R69). -/
def Core.legal (c : Core) : Bool :=
  let held := (c.strands.toList.map Strand.holds).flatten
  (slots.all fun k => (c.strand k).legal k) && held.length == held.eraseDups.length && c.routes.toList.all (fun v => decide (v.toNat < 2 ^ 12)) &&
    c.srDrain != 0 && c.srVcvt != 0 && c.tags.toList.all (fun k => causeOk k.cause) && c.reports.all FaultRec.legal &&
    c.strands.toList.all (fun t => t.fault.all FaultRec.legal) &&
    c.entries.toList.all (fun e => e.all fun e => decide (e.v.toNat ≤ 16) && decide (e.t.toNat ≤ 8) && decide (e.a.toNat ≤ 4)) &&
    c.trigs.toList.all (fun v => decide (v.toNat < 2 ^ 12)) && decide (1 ≤ c.cap.toNat) && decide (c.cap.toNat ≤ 8) && c.pol != 3 &&
    decide (c.spawnQ.length ≤ 16) && decide (c.reports.length ≤ 4) && decide (c.copies.length ≤ 4) &&
    c.bobbins.toList.all (fun b => decide (b.fill.toNat ≤ b.size.toNat) && decide (b.head.toNat ≤ b.fill.toNat) && b.size.toNat % 8 == 0)
/-- The core that a segment holds; none where its bytes are no legal state (R375). -/
def Parked.ofSegment (bs : List Byte) : Option Parked :=
  match Parked.read bs with
  | some x => if bs.drop 65536 = assemble coreBytes 65536 x.parts ∧ x.core.legal then some x else none
  | none => none

/-! ### A hub's segment -/

/-- A join element as the doubleword of Table 11.4. -/
def Join.codec : Codec Join :=
  .iso (fun j => j.n.toNat + j.count.toNat * 2 ^ 11 + j.gen.toNat * 2 ^ 21 + bit j.wait * 2 ^ 37)
    (fun n => ⟨BitVec.ofNat 11 n, BitVec.ofNat 10 (n / 2 ^ 11), BitVec.ofNat 16 (n / 2 ^ 21), n.testBit 37⟩) (.nat 8)
def Monitor.codec : Codec Monitor :=
  .iso (fun m => (m.cfg, m.count, m.min, m.max, m.bins)) (fun (a, b, c, d, e) => ⟨a, b, c, d, e⟩)
    (.pair (.bv 32) <| .pair (.bv 32) <| .pair (.bv 32) <| .pair (.bv 32) (.vec 16 (.bv 32)))
/-- The region at 0x10000 of a hub segment, with the base request of the partition's row domains, for which Table 14.11 names no
place; `exits` the cores, by cluster position, whose exit reports the hub holds. -/
def hubCodec : Codec (Vector Join 32 × Vector Monitor 4 × List FaultRec × List Nat × Word × Word × Word × BitVec 4) :=
  .pair (.vec 32 Join.codec) <| .pair (.vec 4 Monitor.codec) <| .pair (.list FaultRec.codec) <| .pair (.list (.nat 1)) <| .pair (.bv 32) <|
    .pair (.bv 32) <| .pair (.bv 32) (.bv 4)
/-- A hub segment. -/
def Hub.segment (u : Hub) (exits : List Nat) (rowdiv : BitVec 4) : List Byte :=
  (List.range 65536).map (fun i => Memory.get u.sram i) ++
    assemble 65536 0 [(0, hubCodec.put (u.joins, u.monitors, u.buf, exits, u.drth, u.stretch, u.halvewin, rowdiv))]
/-- A hub's registers and stores are in a state that hardware can be in (Tables 11.4, 13.5 and 13.8). -/
def Hub.legal (u : Hub) : Bool :=
  (u.joins.toList.all fun j => decide (1 ≤ j.n.toNat) && decide (j.n.toNat ≤ 1024)) && decide (u.buf.length ≤ 16) && u.buf.all FaultRec.legal &&
    decide (u.drth.toNat < 2 ^ 8) && decide (u.stretch.toNat < 2 ^ 4) && decide (u.halvewin.toNat < 2 ^ 10) &&
    u.monitors.toList.all fun m => !badMonitor m.cfg
/-- The hub that a segment gives in place of one, with the exit reports and the base request; none where it is no legal state. Its
records stand behind those that still wait there (R362). -/
def Hub.ofSegment (host : Hub) (bs : List Byte) : Option (Hub × List Nat × BitVec 4) :=
  match hubCodec.get (bs.drop 65536) with
  | none => none
  | some ((joins, monitors, buf, exits, drth, stretch, halvewin, rowdiv), _) =>
    let u : Hub := { host with sram := Memory.write [] 0 (bs.take 65536), ue := [], joins := joins, monitors := monitors, buf := buf, drth := drth,
                               stretch := stretch, halvewin := halvewin, frozen := false, saved := false, savef := false }
    if bs.drop 65536 = (u.segment exits rowdiv).drop 65536 ∧ u.legal then some ({ u with buf := host.buf ++ buf }, exits, rowdiv) else none

end Sys2Proof.Machine
end

