-- ==== Sys2Proof/Machine/Freeze.lean ====
section
/-! DEFINITION. Cores between skeins, the freeze wave with its saved images, and what a resume restores (02 R43, 04 R88, 10 R280, 12
R325, 14 R372–R375). -/

namespace Sys2Proof.Machine

/-! ### Cores between skeins -/

/-- A core that runs no skein: its cycle counts, its numbering of records and announcements and its error count go on, what its
router holds of the configuration class, and the reports that its hub has not taken yet (R361). -/
def Core.idle (c : Core) : Core :=
  { Core.reset with cc := c.cc, stretched := c.stretched, half := c.half, stretchLeft := c.stretchLeft, halfLeft := c.halfLeft, recSeq := c.recSeq,
                    scSeq := c.scSeq, sramce := c.sramce, cfgOuts := c.cfgOuts, cfgIn := c.cfgIn,
                    reports := c.reports, offers := c.offers, reofferAt := c.reofferAt }
/-- The record for which a transfer in the configuration class was sent. -/
def CfgMsg.record : CfgMsg → Nat
  | .code r _ => r
  | .splice r _ _ => r
  | .segment r _ _ => r
def State.modPart (s : State) (va : Nat) (f : PartRec → PartRec) : State :=
  { s with mgmt := { s.mgmt with parts := s.mgmt.parts.map fun p => if p.recVa = va then f p else p } }
def State.dropPart (s : State) (va : Nat) : State :=
  { s with mgmt := { s.mgmt with parts := s.mgmt.parts.filter fun p => p.recVa != va, sent := s.mgmt.sent.filter fun m => m.2.record != va } }
/-- Row domains are granted anew (01 R15). -/
def State.regrants (s : State) (p : PartRec) : State := p.domains.foldl State.regrant s
/-- What a core holds outside itself is given up: its spindles, its declarations and its token request. -/
def State.releaseCore (s : State) (l : Nat) : State :=
  let s : State := { s with bricks := s.bricks.map fun (i, (k : Brick)) => (i, { k with spindles := k.spindles.filter fun u => u.2.1 != l }) }
  let s := slots.foldl (fun s k => s.withdraw l k) s
  s.modDomain (domainOf l) fun d => { d with tokenQ := d.tokenQ.filter fun r => r.2.1 != l }
/-- A collective's participants and tags of core l pass to another number. -/
def Coll.rehome (c : Coll) (l l' : Nat) : Coll :=
  let f := fun (n : Nat) => if n = l then l' else n
  { c with parts := c.parts.map fun (q : CollPart) => { q with core := f q.core }, extra := c.extra.map fun (n, k) => (f n, k),
           bricks := c.bricks.map fun (b : CollBrick) => { b with halted := b.halted.map fun (n, k) => (f n, k) } }
/-- The requests and collectives of core l pass to another number. -/
def State.rehome (s : State) (l l' : Nat) : State :=
  { s with reqs := s.reqs.map fun (r : EdgeReq) => if r.core = l then { r with core := l' } else r, colls := s.colls.map (·.rehome l l') }
/-- The flits of a record's transfers are withdrawn from the dealer and the routers of its rectangle. -/
def State.dropFlits (s : State) (p : PartRec) : State :=
  let s : State := { s with mgmt := { s.mgmt with cfgNet := s.mgmt.cfgNet.filter fun m => m.2.1.record != p.recVa } }
  p.cores.foldl (fun s l => if (s.core l).cfgIn == [] then s
    else s.modCore l fun c =>
      { (c.cfgIn.filter fun f => f.rec_ == p.recVa).foldl (fun c f => c.oweClass f.port 1) c with
        cfgIn := c.cfgIn.filter fun f => f.rec_ != p.recVa }) s
/-- What stands of the configuration class for a record is withdrawn, at the ports of its cores too. -/
def State.dropClass (s : State) (p : PartRec) : State :=
  p.cores.foldl (fun s l => if (s.core l).cfg == [] then s
    else s.modCore l fun c => { c with cfg := c.cfg.filter fun m => m.record != p.recVa }) (s.dropFlits p)
/-- The skein of a record ends on its cores: routes cleared, stream slots free, the partition free (R284, R370). -/
def State.endSkein (s : State) (p : PartRec) : State :=
  let s := p.cores.foldl (fun s l =>
    if (s.core l).skein = p.recVa then
      ({ s.releaseCore l with colls := s.colls.map (·.rehome l nobody) } : State).modCore l fun c =>
        { c with routes := Vector.replicate 64 0, streams := Vector.replicate 16 Stream.reset, part := none, skein := 0, priv := false,
                 splice := false }
    else s) s
  (s.dropPart p.recVa).regrants p

/-! ### The freeze wave (R372) -/

/-- The record at the head of a line of splices: the one that no resident record of the line precedes. -/
def Mgmt.front (m : Mgmt) (p : PartRec) : PartRec :=
  m.parts.foldl (fun p _ => match m.parts.find? fun q => p.succOf == some q.recVa with | some q => q | none => p) p
/-- A partition's freeze begins (Table 14.10, step 1): successors in the middle of a splice fail, and the cores that hold one are
saved with what they hold (R373). -/
def State.startFreeze (s : State) (p : PartRec) : State :=
  let p := s.mgmt.front p
  let succ := s.mgmt.parts.filter fun q => q.recVa != p.recVa && (s.mgmt.front q).recVa == p.recVa
  let s := succ.foldl (fun s q => ((s.endRecord q 5 8 q.accepted 0 0).dropClass q).dropPart q.recVa) s
  let s := p.cores.foldl (fun s l => if succ.any fun q => q.recVa == (s.core l).skein then
      s.modCore l fun c => { c with part := some p.part, skein := p.recVa } else s) s
  s.modPart p.recVa fun q => { q with st := .freezing }
/-- The record whose freeze reaches hub h. -/
def Mgmt.freezingAt (m : Mgmt) (h : Nat) : Option PartRec := m.parts.find? fun p => (p.st == .freezing || p.st == .saving) && p.hubs.contains h
/-- FREEZE_WAVE (R372, step 2): the hub sends freeze to its cores and routers over the control network. -/
def execFreezeWave (h : Nat) (s : State) : Out :=
  match s.mgmt.freezingAt h with
  | some _ =>
    if (s.hub h).frozen then .next s
    else
      let s := s.modHub h fun u => { u with frozen := true, saved := false, savef := false }
      .next { s with hubReps := s.hubReps ++ (hubCores h).map fun l => (l, 0, HubRep.freeze) }
  | none => .next s
/-- ROUTER_DRAINED (R372, step 3): no flit of the partition stands at an input, and the neighbours in the partition have stopped. -/
def execRouterDrained (c : Nat) (s : State) : Out :=
  let x := s.core c
  let stopped := [0, 1, 2, 3].all fun d => match s.neighbour c d with | some n => (s.core n).frozen | none => true
  if x.frozen ∧ !x.drained ∧ x.inputs = [] ∧ stopped then .next (s.modCore c fun x => { x with drained := true }) else .next s
/-- Nothing of a strand's issued work is unfinished (R372, step 4); a release held by a CJOIN may wait for stopped rounds, and a
GMMA stands between two steps (R236). -/
def Strand.settled (t : Strand) : Bool :=
  !t.indivisible && t.hold != .atomic && t.hold != .hubAck && !t.handlerDue && t.flags == [] && t.phases == [] &&
    (match t.gmma with | some q => q.done.isNone | none => true) &&
    t.pend.all fun p => p.due == none && t.rel.any fun r => p.reg == .g r.d
/-- An edge operation of a core may be saved as it stands: a watch, an operation that its fault holds, or an ELD landed behind one
(R280). A unit or an ELD whose data a full or draining bobbin keeps from landing rests too: its access is made again when the image
resumes (R142, R143; DESIGN CHOICE, log entry 48). -/
def EdgeReq.rests (r : EdgeReq) (c : Core) : Bool :=
  let shut := fun (b : BitVec 5) => r.stage == .back && r.fault.isNone && c.shut b
  match r.op with
  | .ewatch _ _ => r.stage != .back
  | .eld b _ _ _ _ _ => r.stage == .held || r.landed || shut b
  | .unit n _ _ => match (c.stream (BitVec.ofNat 4 n)).bob with | some b => !r.write && shut b | none => false
  | _ => r.stage == .held
/-- The units that a full or draining bobbin keeps from landing are to be requested anew, with what has landed behind them; a round
that was to fault behind them meets its fault again, and one being cancelled ends. -/
def State.recall (s : State) (l : Nat) : State :=
  let s' := ({ s with reqs := s.reqs.filter fun r => r.core != l || (match r.op with | .unit _ _ _ => false | _ => true) } : State).modCore l fun c =>
    { c with streams := c.streams.map fun t => { t with rounds := t.rounds.map fun (r : Round) =>
      if r.shape.dir || !(s.reqs.any fun q => q.core == l && (match q.op with | .unit _ i _ => i == r.id | _ => false)) then r
      else { r with next := r.done, st := if r.st = RoundSt.faulting then .running else r.st,
                    fault := if r.st = RoundSt.faulting then none else r.fault } } }
  (List.range 16).foldl (fun s n => s.settleRound l n) s'
/-- Nothing of a core's issued work is unfinished: edge operations are back or rest, and copies stand between two steps. -/
def State.coreSettled (s : State) (l : Nat) : Bool :=
  let c := s.core l
  (slots.all fun k => (c.strand k).settled) && c.later == [] && c.drainM == [] && c.portFree && c.depQ == [] &&
    (c.copies.all fun p => (p.held == [] || (p.bob.isSome && p.pos == 1)) && p.last.isNone && p.n != 0) && (s.hubReqs.all fun r => r.core != l) && (s.hubReps.all fun r => r.1 != l) &&
    (s.reqs.all fun r => r.core != l || r.rests c) && c.streams.toList.all fun t => t.st != .binding
/-- A strand's absolute cycles become distances from core cycle cc and domain cycle dc: ages and cycles left (R88, R338). The first
use of a gated unit is made again, and a fill in progress is discarded (R43). -/
def Strand.park (t : Strand) (cc dc : Nat) : Strand :=
  { t with
      frozen := t.resident, stamp := cc - t.stamp, notBefore := t.notBefore - cc,
      run := (match t.wait with | .token _ => .ready | _ => t.run),
      wait := (match t.wait with | .sleep n => .sleep (n - cc) | .token _ => .idle | w => w),
      fill := t.fill.map fun f => mkFill f.addr f.why 0, buf := { t.buf with words := [] }, offered := 0,
      decl := (match t.decl.st, t.decl.start with
        | .none, _ => { t.decl with issued := 0, start := none }
        | .active, some n => { t.decl with st := .requested, length := ceilDiv (n + 256 * t.decl.length - dc) 256, issued := 0, start := none }
        | _, _ => { t.decl with st := .requested, issued := 0, start := none }) }
/-- A core as its image holds it: waiting SPAWNs go to the tail of the queue (R88). The image has no room for what a faulted write
round has read of the units after its fault: it reads them again (DESIGN CHOICE, log entry 48). -/
def Core.park (c : Core) (dc : Nat) : Core :=
  let q := (c.spawnQ.filter fun q => q.waiter.isNone) ++ c.spawnQ.filter fun q => q.waiter.isSome
  { c with strands := c.strands.map fun t => t.park c.cc dc, spawnQ := q,
           locals := c.locals.map fun m => { m with st := match m.st with | .queue e n => .queue e (c.cc - n) | x => x },
           inject := c.inject.map fun | .sendb b => .sendb { b with issued := 0 } | .msg m k _ => .msg m k 0,
           used := c.used.filter fun e => decide (e.1.2 < 64), owed := c.owed.filter fun e => decide (e.1.2 < 64),
           copies := c.copies.map fun p => { p with issued := 0, held := [], pos := if p.held = [] then p.pos else 0 },
           streams := c.streams.map fun t => { t with rounds := t.rounds.map fun (r : Round) => ({ r with kept := [], landed := List.range r.done } : Round) },
           offers := 0, reofferAt := none, token := none, quiescent := true }
/-- CORE_QUIESCENT (R372, step 4): the strands become frozen, their declarations leave the arbiter (R338), and the core asks for no
tokens. -/
def execCoreQuiescent (c : Nat) (s : State) : Out :=
  let x := s.core c
  if x.frozen ∧ !x.quiescent ∧ s.coreSettled c then
    .next ((slots.foldl (fun s k =>
      let d := ((s.core c).strand k).decl
      (s.withdraw c k).modCore c fun x => x.modStrand k fun t => { t with decl := d }) s).modCore c (Core.park · (s.dcyc (domainOf c)))
        |>.recall c |>.modDomain (domainOf c) fun d => { d with tokenQ := d.tokenQ.filter fun r => r.2.1 != c })
  else .next s

/-! ### Saving (R374) -/

/-- Offsets within a saved image. -/
def segmentAt (save n : Nat) : Nat := save + 0x10000 + n * (20608 * 1024)
def coreSegment (seg i : Nat) : Nat := seg + 0x20000 + i * 0x28000
/-- The header of a saved image (R374). -/
def PartRec.header (p : PartRec) (time serial : Nat) : List Byte :=
  toBytes 8 p.image ++ toBytes 8 p.save ++ toBytes 8 p.d3.toNat ++ toBytes 8 (p.srs.toNat + 2 ^ 32 * p.sigs.toNat) ++ toBytes 8 time
    ++ toBytes 8 3 ++ toBytes 8 serial ++ List.replicate 65480 0
/-- The first address of a range of pages of 64 KiB that domain d may not write through brick b. -/
def State.saveFault (s : State) (b d : Nat) : List Nat → State × Option Nat
  | [] => (s, none)
  | va :: t =>
    match ({ Core.reset with plb := s.mgmt.domainPlb d } : Core).plbCheck 1 [byteRange (BitVec.ofNat 64 va) 65536] with
    | some f => (s, some f.eaddr.toNat)
    | none => match s.translate b va true with
      | (s, .error _) => (s, some va)
      | (s, .ok x) => if (s.home (x.pa + va % 2 ^ x.bits)).isNone then (s, some va) else s.saveFault b d t
/-- The pages of a range. -/
def pages (va n : Nat) : List Nat := (List.range (n / 65536)).map fun i => va + 65536 * i
/-- The place of a number in a list. -/
def placeIn (l : List Nat) (n : Nat) : Nat := (l.findIdx? (· == n)).getD l.length
/-- The names of a core's edge operations within its image: their place, requests first and then rounds. -/
def State.opIds (s : State) (l : Nat) : List Nat :=
  ((s.reqs.filter fun r => r.core == l).map (·.id)) ++ ((s.core l).streams.toList.map fun t => t.rounds.map (·.id)).flatten
/-- The operations of a strand, a stream slot or a core under other names. -/
def Strand.rename (t : Strand) (f : Nat → Nat) (known : Nat → Bool) : Strand :=
  let g := fun (l : List Nat) => (l.filter known).map f
  { t with edgeIds := g t.edgeIds, fences := t.fences.map g, rel := t.rel.map fun r => { r with ids := g r.ids } }
def Core.rename (c : Core) (f : Nat → Nat) (known : Nat → Bool) : Core :=
  { c with strands := c.strands.map fun t => t.rename f known,
           streams := c.streams.map fun t => { t with rounds := t.rounds.map fun (r : Round) => { r with id := f r.id } } }
/-- A parked core as its segment holds it. -/
def State.parked (s : State) (l handle : Nat) : Parked :=
  let ids := s.opIds l
  let c := s.core l
  ⟨{ c with reports := recordsSaved 4 (c.part.getD 64) c.reports }.rename (placeIn ids) ids.contains,
   (s.reqs.filter fun r => r.core == l).map fun r => { r with id := placeIn ids r.id }, handle⟩
/-- One core's context goes to its segment and leaves the core; its collectives run on for the number that the segment holds
(R325). -/
def State.saveCore (s : State) (b seg l : Nat) : State :=
  let handle := nobody + s.nextId
  let s := ({ s with nextId := s.nextId + 1 } : State).brickWrite b seg (s.parked l handle).segment
  let k := ((s.core l).part).getD 64
  let s : State := { s with
    reqs := s.reqs.filter fun r => r.core != l, colls := s.colls.map (·.rehome l handle),
    bricks := s.bricks.map fun (i, (k : Brick)) => (i, { k with watches := k.watches.filter fun w => w.core != l }) }
  (s.releaseCore l).modCore l fun c => { c.idle with reports := recordsKept 4 k c.reports }
/-- CONTEXT_SAVE (R372, step 5): once the cluster's cores are quiescent and drained and no request stands; a fault stalls
the engine and posts SAVEF to the management queue, in the hub's own series (R360). -/
def execContextSave (h : Nat) (s : State) : Out :=
  match s.mgmt.freezingAt h with
  | none => .next s
  | some p =>
    let u := s.hub h
    let ls := hubCores h
    if !u.frozen ∨ u.saved ∨ u.savef ∨ !(ls.all fun l => (s.core l).quiescent && (s.core l).drained)
        ∨ (s.hubReqs.any fun r => hubOf r.core == h) ∨ s.hubReps.any fun r => hubOf r.1 == h then .next s
    else
      let n := (h / 64 - p.row0) * p.ncol + (h % 64 - p.col0)
      let seg := segmentAt p.save n
      let nw := ls.headD 0
      let b := s.ebrick nw
      match s.saveFault b p.domain ((if n = 0 then pages p.save 65536 else []) ++ pages seg (20608 * 1024)) with
      | (s, some va) =>
        let w : Source := ⟨1, (p.rel nw).1, (p.rel nw).2, some p.part⟩
        let r := { (mkRec w (frameOf ⟨cSAVEF, 0, BitVec.ofNat 64 va⟩) true 0 s.time).withSeq (s.hub h).seq with part := none }
        .next (({ s with mgmt := { s.mgmt with held := s.mgmt.held ++ [r] } } : State).modHub h fun u => { u with savef := true, seq := u.seq + 1 })
      | (s, none) =>
        let s := if n = 0 then s.brickWrite b p.save (p.header s.time s.mgmt.serial.toNat) else s
        let exits := (ls.filter fun l => (s.core l).exitRep == .held).map clusterPos
        let s := s.brickWrite b seg ({ u with buf := recordsSaved 16 p.part u.buf }.segment exits p.rowdiv)
        let s := ls.zipIdx.foldl (fun s (l, i) => s.saveCore b (coreSegment seg i) l) s
        .next ((s.modHub h fun u => { u with saved := true, buf := recordsKept 16 p.part u.buf }).modPart p.recVa fun q => { q with st := .saving })

/-! ### Restoring (R375) -/

/-- A parked strand on a core at cycle cc, of its age there as far as the core's count reaches back (the spec rebases no stamp;
DESIGN CHOICE, log entry 48); its declaration is asked for anew, with onset 0 (R338), its clause is filled again (R43),
and a CJOIN whose generation has fired, which its hub then no longer has before it, is ready (R313). -/
def Strand.unpark (t : Strand) (cc dc : Nat) (joins : Vector Join 32) : Strand :=
  let t := { t with
    frozen := false, stamp := cc - t.stamp, notBefore := cc + t.notBefore,
    wait := (match t.wait with | .sleep n => .sleep (cc + n) | w => w),
    fill := (match t.fill with
      | some f => some (mkFill f.addr f.why cc)
      | none => if t.run ≠ Run.stopped ∧ t.buf.valid then some (mkFill t.buf.addr (.thaw t.idx) cc) else none),
    decl := { t.decl with issued := dc },
    phases := if t.decl.st = DeclSt.requested then [⟨0, cc + 40, dc, none⟩] else [] }
  match t.wait with
  | .cjoinFire j gen => if (rd joins j).gen + 1 = gen then t else t.awake cc
  | _ => t
/-- A shape served by another brick. -/
def Shape.atBrick (r : Shape) (brick : Nat) : Shape := { r with brick := BitVec.ofNat 5 brick }
/-- A core resumes where another stands: what its segment gives, with the counts and ports of the core that takes it in, behind the
reports that still wait there. Its edge
operations are named from `base` on, and stream slots are bound to the spindles found for them (R280). -/
def Core.resumeOn (c : Core) (p : PartRec) (plb : Vector Dword 16) (brick base dc : Nat) (spindles : List (Nat × (Nat × Nat))) (l : Nat) (joins : Vector Join 32)
    (host : Core) : Core :=
  let c := c.rename (base + ·) fun _ => true
  { c with
    strands := c.strands.map fun t => t.unpark host.cc dc joins,
    locals := c.locals.map fun m => { m with st := match m.st with | .queue e n => .queue e (host.cc - n) | x => x },
    inputs := c.freezeBuf.map fun (q, f) => ⟨q, f, c.route f.chan, true⟩, freezeBuf := [], used := c.used ++ host.used, owed := c.owed ++ host.owed,
    plb := plb, part := some p.part, skein := p.recVa, priv := p.priv,
    shapes := c.shapes.map fun (e : Option Shape) => e.map fun (r : Shape) => r.atBrick brick,
    streams := Vector.ofFn fun i : Fin 16 =>
      let t := c.streams[i]
      { t with shape := t.shape.atBrick brick, rounds := t.rounds.map fun (r : Round) => ({ r with shape := r.shape.atBrick brick } : Round),
               spindle := ((spindles.find? fun u => u.2 == (l, i.val)).map (·.1)).getD 0 },
    cc := host.cc, stretched := host.stretched, half := host.half, stretchLeft := host.stretchLeft, halfLeft := host.halfLeft,
    recSeq := host.recSeq, reports := host.reports ++ c.reports, offers := host.offers, reofferAt := host.reofferAt, scSeq := host.scSeq, sramce := host.sramce, exitRep := host.exitRep, cfgOuts := host.cfgOuts, cfgIn := host.cfgIn }
/-- The tags that an image records as held by a collective, on core l: the collective that runs for the image under `handle` goes on
for the core, with what has become of the tag meanwhile; where none does any more, as in a module that did not write the image
(R325, R375) or for an image resumed a second time (DESIGN CHOICE, log entry 48), they are faulted with COLLX subcode 7. -/
def State.relink (s : State) (l handle : Nat) : State :=
  let s : State := { s with colls := s.colls.map (·.rehome handle l) }
  tagNums.foldl (fun s k =>
    let t := (s.core l).tag k
    if t.holder ≠ .coll ∨ !t.live then s
    else match s.colls.findSome? fun c => c.parts.find? fun q => q.core == l && q.tag == k && (q.away.isSome || !q.done) with
      | some q =>
        let s := match q.away with | some t' => s.modCore l fun c => c.setTag k t' | none => s
        { s with colls := s.colls.map fun c => { c with parts := c.parts.map fun (x : CollPart) => if x.core = l ∧ x.tag = k then { x with away := none } else x } }
      | none => s.modCore l fun c => c.failTag k (collx 7) false) s
/-- The declarations of a resumed core are asked for anew. -/
def State.redeclare (s : State) (l : Nat) : State :=
  slots.foldl (fun s k =>
    let t := (s.core l).strand k
    if t.decl.st = .requested then
      s.modDomain (domainOf l) fun x => { x with requests := x.requests ++ [⟨l, k, t.decl.intensity + 1, t.decl.issued, wantedSlot t.decl.issued 0⟩] }
    else s) s
/-- One core is resumed from its segment: its watches are sent again to its new brick (R280, R291), and a GMMA asks for the tensor
unit's tokens (R341). -/
def State.resumeCore (s : State) (p : PartRec) (l : Nat) (x : Parked) : State :=
  let b := s.ebrick l
  let base := s.nextId
  let host := s.core l
  let c := x.core.resumeOn p (s.mgmt.domainPlb p.domain) b base (s.dcyc (domainOf l)) (s.brick b).spindles l (s.hub (hubOf l)).joins host
  let s := { s.setCore l c with
    nextId := base + 65536,
    reqs := s.reqs ++ x.reqs.map fun (r : EdgeReq) => { r with id := base + r.id, core := l, brick := b, issued := s.time } }
  let s := (s.relink l x.handle).redeclare l
  let s := if slots.any fun k => ((s.core l).strand k).hold == .gmma then s.askTokens l false else s
  s.wakeCore l
/-- The bound slots of a core take free spindles of its brick; none where too few are free (R280). -/
def State.bindSpindles (s : State) (l : Nat) (c : Core) : Option State :=
  let b := s.ebrick l
  (List.range 16).foldl (fun o n =>
    match o with
    | none => none
    | some s =>
      if (c.stream (BitVec.ofNat 4 n)).st ≠ .bound then some s
      else ((List.range 256).find? fun i => !(s.brick b).spindles.any fun u => u.1 == i).map fun i =>
        s.modBrick b fun k => { k with spindles := k.spindles ++ [(i, (l, n))] }) (some s)

end Sys2Proof.Machine
end

