-- ==== Sys2Proof/Machine/Dealer.lean ====
section
/-! DEFINITION. The dealer: selection, loading over the skein tree, splices, resumes and ends (01 R23, 04 R106, 07 R173, 14
R364–R371, R375, R381, R423). -/

namespace Sys2Proof.Machine

/-! ### Selection (R368) -/

/-- The ready record of queue q: the one behind its sentinel. -/
def State.readyRecord (s : State) (q : Nat) : State × Option PartRec :=
  match s.mgmt.sentinels.find? fun e => e.1 == q with
  | none => (s, none)
  | some (_, va) => match s.dealRead va 8 with
    | (s, none) => (s, none)
    | (s, some n) =>
      let r := ofBytes n % 2 ^ 57
      if r = 0 then (s, none)
      else match s.dealRead r 128 with
        | (s, none) => (s, none)
        | (s, some bs) => (s, some (PartRec.ofBytes r q (s.mgmt.queue (BitVec.ofNat 6 q)) bs))
/-- The partitions, frozen ones that are withheld included, that overlap a record's rectangle. -/
def Mgmt.inTheWay (m : Mgmt) (p : PartRec) : List PartRec := m.parts.filter fun q => q.recVa != p.recVa && q.st != .selected && q.overlaps p
/-- A ready record can start: a launch or resume over a free rectangle or one it may free by freezing, a splice while its
predecessor runs on the same rectangle. -/
def Mgmt.canStart (m : Mgmt) (p : PartRec) : Bool :=
  if p.kind = 2 then m.parts.any fun q => q.recVa == p.pred && q.st == .running && q.sameRect p
  else
    let w := m.inTheWay p
    w == [] || (qPreempt (m.queue (BitVec.ofNat 6 p.queue)) && w.all fun q => decide (q.sprio.toNat < p.sprio.toNat) && q.save != 0 && q.st != .frozen)
/-- The queues the dealer serves, in their order: descending PRIO, then ascending number. -/
def Mgmt.served (m : Mgmt) : List Nat :=
  ([7, 6, 5, 4, 3, 2, 1, 0].map fun pr =>
    (List.range 64).filter fun q => qEn (m.queue (BitVec.ofNat 6 q)) && qPrio (m.queue (BitVec.ofNat 6 q)) == pr).flatten
/-- The first queue whose ready record can start. -/
def State.firstReady (s : State) : List Nat → State × Option PartRec
  | [] => (s, none)
  | q :: t =>
    match s.readyRecord q with
    | (s, none) => s.firstReady t
    | (s, some p) => if s.mgmt.canStart p then (s, some p) else s.firstReady t
/-- A partition frozen for a remap that has been done: it resumes from its own save area under its own record (R405, step 5), once,
after every failure still to be handled that strikes it (R406). -/
def Mgmt.readyRemap (m : Mgmt) : Option PartRec :=
  (m.parts.find? fun p => p.st == .frozen && m.remapDone p).map fun p =>
    { p with image := p.save, kind := 1, olaunch := false, st := PartSt.selected }
/-- DEALER_SELECTION (R368): the selected record becomes the sentinel of its queue and waits to be loaded. Partitions that a remap
has moved come first. -/
def execDealerSelection (s : State) : Out :=
  if s.mgmt.loading.isSome ∨ !s.mgmt.bootProg.getLsbD 4 ∨ s.mgmt.takeover then .next s
  else match s.mgmt.readyRemap with
    | some p => .next { s with mgmt := { s.mgmt with loading := some p } }
    | none => match s.firstReady s.mgmt.served with
      | (s, none) => .next s
      | (s, some p) =>
        let s := (s.writeStatus p 1 0 0 0 0).dealWrite (p.recVa + 56) s.time
        let s := if p.kind = 2 then s
          else ((s.mgmt.inTheWay p).filter fun q => q.st == .running && q.succOf == none).foldl State.startFreeze s
        let m := s.mgmt
        let sentinels := (m.sentinels.filter fun e => e.1 != p.queue) ++ [(p.queue, p.recVa)]
        .next { s with mgmt := { m with loading := some p, sentinels := sentinels } }

/-! ### Checks (R423) -/

/-- The record's checks of step 1 of R423: cause 1, 6 or 9, or 0. -/
def Mgmt.recordCause (m : Mgmt) (p : PartRec) : Nat :=
  let pred := m.parts.find? fun q => q.recVa == p.pred
  if p.resv || p.kind == 3 || decide (m.gridC < 16 * (p.col0 + p.ncol)) || decide (m.gridR < 8 * (p.row0 + p.nrow))
      || m.parts.any fun q => q.part == p.part && q.recVa != p.recVa && q.st != .selected && (q.st != .frozen || q.remap) && !(p.kind == 2 && q.recVa == p.pred) then 1
  else if p.olaunch && !p.opriv && !(m.parts.any fun q => q.part == p.opart && q.resident && p.inside q && q.domain == p.domain) then 6
  else if p.kind = 2 then (match pred with | some q => if q.st = .running ∧ q.sameRect p then 0 else 9 | none => 9)
  else 0
/-- A route of a list would leave the partition at core l (R21, R171). -/
def State.routeOff (s : State) (p : PartRec) (l : Nat) (vs : List (BitVec 16)) : Bool :=
  vs.any fun v => [0, 1, 2, 3].any fun d => routeOut v d && !p.has (s.mgmt.torus l d).1
/-- The first core of a list that a check stops, with its place and cause 3 or 5 (R423, step 5). -/
def State.coreCause (s : State) (p : PartRec) (m : Image) : List Nat → Option (Nat × (Nat × Nat))
  | [] => none
  | l :: t =>
    let (c, q) := p.rel l
    if m.blocked c q then some (3, (c, q))
    else if s.routeOff p l ((mine c q m.routes).map (·.2)) then some (5, (c, q))
    else s.coreCause p m t
/-- The image's checks, steps 3 to 5 of R423: the cause and the place, or none. -/
def State.imageCause (s : State) (p : PartRec) (m : Image) : Option (Nat × (Nat × Nat)) :=
  if m.regions.any fun r => !regionOk m.cols m.rows r then some (2, (0, 0))
  else if m.cols ≠ 16 * p.ncol ∨ m.rows ≠ 8 * p.nrow then some (4, (0, 0))
  else s.coreCause p m p.cores
/-- A failed load: no core changes (R23). A partition that a remap has moved stays frozen when its resume fails,
and its rectangle stays withheld (R405). -/
def State.failLoad (s : State) (p : PartRec) (cause col row : Nat) : State :=
  let s : State := { s with mgmt := { s.mgmt with loading := none } }
  if p.remap then (s.modPart p.recVa fun q => { q with remap := false }).alert alertLasting else s.endRecord p 5 cause 0 col row

/-! ### The skein tree (R173) -/

/-- A core's place in row-major order of its partition. -/
def PartRec.index (p : PartRec) (l : Nat) : Nat := (p.rel l).2 * (16 * p.ncol) + (p.rel l).1
/-- The outputs of core l's configuration-class entry: east and south along row 0, south below it, and its own port (4). -/
def PartRec.treeOuts (p : PartRec) (l : Nat) : List Nat :=
  let (c, q) := p.rel l
  (if q = 0 ∧ c + 1 < 16 * p.ncol then [1] else []) ++ (if q + 1 < 8 * p.nrow then [2] else []) ++ [4]
/-- The root of the tree: the partition's north-west core. -/
def PartRec.root (p : PartRec) : Nat := p.coreAt 0 0
/-- A core's configuration port holds a record's transfer already, as when the dealer sends it again (R400). -/
def Core.hasCfg (c : Core) (r : Nat) : Bool := c.cfg.any fun m => m.record == r
/-- A message of the class at a core's configuration port: code and data go to SRAM at once, the rest stays. -/
def State.deliverClass (s : State) (l : Nat) (m : CfgMsg) : State :=
  match m, s.mgmt.parts.find? fun p => p.recVa == m.record with
  | .code _ ss, some p => s.modCore l fun c => (mine (p.rel l).1 (p.rel l).2 ss).foldl (fun c x => c.store x.addr x.data) c
  | .splice r _ _, some _ => if (s.core l).hasCfg r ∨ (s.core l).skein = r then s else s.modCore l fun c => { c with cfg := c.cfg ++ [m] }
  | .segment r n _, some p => if n = p.index l ∧ !(s.core l).hasCfg r then s.modCore l fun c => { c with cfg := c.cfg ++ [m] } else s
  | _, none => s
/-- The bytes that a transfer carries. -/
def CfgMsg.bytes : CfgMsg → List Byte
  | .code _ ss => (ss.map fun x => x.2.data).flatten
  | .splice _ m _ => (m.sections.map fun x => x.2.data).flatten
  | .segment _ _ bs => bs
/-- The flits of a transfer: messages of kind configuration, each a head and at most 31 payload flits (R162, R163). -/
def CfgMsg.flits (m : CfgMsg) : Nat :=
  let n := (m.bytes.length + 15) / 16
  n + Nat.max 1 ((n + 30) / 31)
/-- Flit k of a transfer. The spec lays out no payload of the class: the model sends the data in order, 16 bytes a flit, and lets the
last flit bring the whole (DESIGN CHOICE, log entry 48). -/
def CfgMsg.flit (m : CfgMsg) (k : Nat) : CfgFlit :=
  let n := (m.bytes.length + 15) / 16
  let len := Nat.min 31 (n - 31 * (k / 32))
  let i := 31 * (k / 32) + k % 32 - 1
  ⟨5, if k % 32 = 0 then mkFlit 1 0 (mkHdr 0 0 0 0 len false 3) 0
      else mkFlit (if k % 32 = len then 3 else 2) 0 (BitVec.ofNat 128 (ofBytes ((m.bytes.drop (16 * i)).take 16))) 0,
   m.record, if k + 1 = m.flits then some m else none⟩
/-- The oldest flit of the class at a router leaves on every output of its entry in lockstep, once each has a credit of the class. -/
def State.passClass (s : State) (c : Nat) : State :=
  let x := s.core c
  match x.cfgIn with
  | [] => s
  | f :: t =>
    let outs := x.cfgOuts.filter (· < 4)
    if outs.all fun o => s.credit c o cfgClass then
      let s := s.modCore c fun x =>
        { (if f.port < 4 then x.oweClass f.port 1 else x) with
          cfgIn := t, used := outs.foldl (fun u o => addCount (o, cfgClass) 1 u) x.used }
      let s := outs.foldl (fun s o => s.modCore (s.mgmt.torus c o).1 fun y => { y with cfgIn := y.cfgIn ++ [{ f with port := opposite o }] }) s
      match f.brings with | some m => s.deliverClass c m | none => s
    else s
/-- The dealer's next flit enters at the root of its tree, whose input takes 4 flits. -/
def State.admitClass (s : State) (c : Nat) : State :=
  if 4 ≤ (s.core c).cfgIn.length then s
  else match takeFirst (fun m : Nat × CfgMsg × Nat => m.1 == c) s.mgmt.cfgNet with
    | none => s
    | some ((_, m, k), rest) =>
      let net := if k + 1 < m.flits then (c, m, k + 1) :: rest else rest
      ({ s with mgmt := { s.mgmt with cfgNet := net } } : State).modCore c fun x => { x with cfgIn := x.cfgIn ++ [m.flit k] }
/-- CONFIG_CLASS_MESSAGE (R173): one flit of the class moves on from router c, and the dealer's next one enters there. -/
def execConfigClassMessage (c : Nat) (s : State) : Out := .next ((s.passClass c).admitClass c)
/-- Every transfer for a record has reached its cores. -/
def State.classDone (s : State) (p : PartRec) : Bool :=
  (s.mgmt.cfgNet.all fun m => m.2.1.record != p.recVa) && p.cores.all fun l => (s.core l).cfgIn.all fun f => f.rec_ != p.recVa

/-! ### Loading (R23, R375) -/

/-- The start message: kind trigger, word 0 = 0, on channel c0 (R172). Its FMT INT32, LEN 1, HALF 1 and SEQ 0 are the model's (DESIGN
CHOICE, log entry 48). -/
def startMsg : Msg := ⟨mkHdr 0 0 6 0 1 true 1, [(0, 0)]⟩
/-- The SR seed of the core at a place (R70). -/
def seedAt (srs : Word) (cols c q : Nat) : Word := srs ^^^ (BitVec.ofNat 32 (q * cols + c) * 0x9E3779B9)
/-- What every dealt core takes from its record (R70, R86, R242, R354, R386, R396). -/
def Core.takeRecord (c : Core) (p : PartRec) (plb : Vector Dword 16) (brick col row : Nat) : Core :=
  let c := c.seed (seedAt p.srs (16 * p.ncol) col row)
  { c with sigSeed := p.sigs, plb := plb, part := some p.part, skein := p.recVa, priv := p.priv,
           shapes := c.shapes.map fun (e : Option Shape) => e.map fun (r : Shape) => r.atBrick brick }
/-- The start message stands at a core's local port. -/
def State.sendStart (s : State) (l : Nat) : State :=
  s.modCore l fun c => ({ c with locals := c.locals ++ [⟨startMsg, 1, 0, true, s.time, .fresh⟩] } : Core).spend 4 0 |>.spend 4 0
/-- The record is among the partitions, and the dealer's messages for it go down its tree. -/
def State.dealing (s : State) (p : PartRec) (ms : List CfgMsg) : State :=
  let p := { p with st := PartSt.loading }
  let m := s.mgmt
  ({ s with mgmt := { m with parts := (m.parts.filter fun q => q.recVa != p.recVa) ++ [p], loading := some p,
                             cfgNet := m.cfgNet ++ ms.map fun x => (p.root, x, 0), sent := m.sent ++ ms.map fun x => (p.root, x) } } : State).regrants p
/-- A launch is dealt (Table 1.3, steps 4 and 5); cluster SRAM reads zero again (R310). -/
def State.dealLaunch (s : State) (p : PartRec) (m : Image) : State :=
  let p := { p with rowdiv := BitVec.ofNat 4 m.rowdiv }
  let plb := s.mgmt.domainPlb p.domain
  let s := p.hubs.foldl (fun s h => s.modHub h fun u => { u with sram := [], ue := [], joins := Vector.replicate 32 Join.reset }) s
  let s := p.cores.foldl (fun s l =>
    let (c, q) := p.rel l
    let b := s.ebrick l
    s.modCore l fun x =>
      let y := ((({ m.share c q with sections := [] } : CoreImage).deal x.idle).getD x.idle).takeRecord p plb b c q
      { y with cfgOuts := p.treeOuts l }) s
  s.dealing p [.code p.recVa m.sections]
/-- A splice is sent down the skein tree; its record waits in state 7 behind the last skein of the line (R371). -/
def State.dealSplice (s : State) (p : PartRec) (m : Image) : State :=
  let behind := (s.mgmt.parts.filter fun q => (s.mgmt.front q).recVa == p.pred).getLast?
  let p := { p with rowdiv := BitVec.ofNat 4 m.rowdiv, st := PartSt.spliceWait, succOf := behind.map (·.recVa) }
  let x := CfgMsg.splice p.recVa m (s.mgmt.domainPlb p.domain)
  let s : State := { s with mgmt := { s.mgmt with
    parts := s.mgmt.parts ++ [p], loading := none, cfgNet := s.mgmt.cfgNet ++ [(p.root, x, 0)], sent := s.mgmt.sent ++ [(p.root, x)] } }
  s.writeStatus p 7 0 0 0 0

/-- What the dealer reads of a saved image for one core: its hub's segment with what that holds, and its own. -/
structure SavedCore where
  core : Nat
  hub : Option (Hub × List Nat × BitVec 4)
  own : Option Parked
/-- The record with the shape that the header of its saved image gives (R374). -/
def PartRec.shaped (p : PartRec) (d : Nat → Nat) : PartRec := { p with ncol := field (d 2) 45 6 + 1, nrow := field (d 2) 51 7 + 1 }
/-- The ranges of an image of p's shape behind its header: the segments of every hub and core. -/
def PartRec.imageRanges (p : PartRec) : List (Nat × Nat) :=
  (p.hubs.zipIdx.map fun (_, n) => (segmentAt p.image n, 131072)) ++
    p.cores.map fun l =>
      let (c, q) := p.rel l
      (coreSegment (segmentAt p.image (q / 8 * p.ncol + c / 16)) (clusterPos l), 0x28000)
/-- The cores of a saved image in row-major order, from what the ranges hold. -/
def State.savedCores (s : State) (p : PartRec) (bs : List (List Byte)) : List SavedCore :=
  let hubs := (p.hubs.zip bs).map fun (h, x) => (h, (s.hub h |>.ofSegment x))
  (p.cores.zip (bs.drop p.hubs.length)).map fun (l, x) => ⟨l, ((hubs.find? fun e => e.1 == hubOf l).map (·.2)).join, Parked.ofSegment x⟩
/-- The per-core checks of a resume: a region that is no legal state, a cluster's segment counting for each of its cores, gives
cause 3, and a route that leaves the partition cause 5 (R375, R423). -/
def State.savedCause (s : State) (p : PartRec) : List SavedCore → Option (Nat × (Nat × Nat))
  | [] => none
  | x :: t => match x.hub, x.own with
    | some _, some y => if s.routeOff p x.core y.core.routes.toList then some (5, p.rel x.core) else s.savedCause p t
    | _, _ => some (3, p.rel x.core)
/-- The spindles of every core of an image, none where a brick has too few (R280). -/
def State.bindAll (s : State) : List SavedCore → Option State
  | [] => some s
  | x :: t => match s.bindSpindles x.core ((x.own.map (·.core)).getD Core.reset) with | some s => s.bindAll t | none => none
/-- A resume is dealt (R375): hubs and cores are programmed, and the segments go down the tree. An image of another module names
no collective of this one. -/
def State.dealResume (s : State) (p : PartRec) (foreign : Bool) (xs : List SavedCore) : State :=
  let p := { p with rowdiv := (xs.findSome? fun x => x.hub.map fun h => h.2.2).getD 1 }
  let s := xs.foldl (fun s x => match x.hub with | some h => s.setHub (hubOf x.core) h.1 | none => s) s
  let s := xs.foldl (fun s x =>
    let out := match x.hub with | some h => h.2.1.contains (clusterPos x.core) | none => false
    s.modCore x.core fun c =>
      { c.idle with part := some p.part, skein := p.recVa, priv := p.priv, cfgOuts := p.treeOuts x.core, exitRep := if out then .held else .none }) s
  s.dealing p (xs.zipIdx.filterMap fun (x, n) => x.own.map fun y => .segment p.recVa n (if foreign then { y with handle := nobody } else y).segment)
/-- The segment that a core's configuration port holds. -/
def Core.segment (c : Core) : Option Parked := c.cfg.findSome? fun m => match m with | .segment _ _ bs => Parked.ofSegment bs | _ => none
/-- The last step of a load, once the class has delivered: a launched core gets its start message, a resumed one returns its
strands to their states (Table 1.3, step 6; R375). -/
def State.finishLoad (s : State) (p : PartRec) : State :=
  let s := p.cores.foldl (fun s l =>
    if p.kind = 1 then (match (s.core l).segment with | some x => s.resumeCore p l x | none => s) else s.sendStart l) s
  let s := s.modPart p.recVa fun q => { q with st := .running, remap := false }
  let sent := s.mgmt.sent.filter fun m => m.2.record != p.recVa
  ({ s with mgmt := { s.mgmt with loading := none, sent := sent } } : State).writeStatus p 3 0 0 0 0
/-- A saved image is read whole, by the shape that its own header gives (R374, R423, step 2). -/
def State.readSaved (s : State) (p : PartRec) : State × Option (List Byte × List (List Byte)) :=
  match s.dealRead p.image 65536 with
  | (s, none) => (s, none)
  | (s, some h) => match s.dealReads (p.shaped (headerWord h)).imageRanges with
    | (s, none) => (s, none)
    | (s, some bs) => (s, some (h, bs))
/-- A resume record's checks beyond R423's first step, and its dealing. -/
def State.loadResume (s : State) (p : PartRec) : State :=
  match s.readSaved p with
  | (s, some (h, bs)) =>
    let d := headerWord h
    if d 5 % 256 ≠ 3 then s.failLoad p 2 0 0
    else if p.olaunch ∧ !p.opriv ∧ field (d 2) 12 16 ≠ p.domain then s.failLoad p 11 0 0
    else if (p.shaped d).ncol ≠ p.ncol ∨ (p.shaped d).nrow ≠ p.nrow then s.failLoad p 4 0 0
    else
      let xs := s.savedCores p bs
      match s.savedCause p xs, s.bindAll xs with
      | some (c, (x, y)), _ => s.failLoad p c x y
      | none, none => s.failLoad p 7 0 0
      | none, some s => s.dealResume p (d 6 != s.mgmt.serial.toNat) xs
  | (s, _) => s.failLoad p 10 0 0
/-- A launch or splice record's checks beyond R423's first step, and its dealing. -/
def State.loadImage (s : State) (p : PartRec) : State :=
  match s.readImage p.image with
  | (s, .fault) => s.failLoad p 10 0 0
  | (s, .bad) => s.failLoad p 2 0 0
  | (s, .image m) => match s.imageCause p m with
    | some (c, (x, y)) => s.failLoad p c x y
    | none => if p.kind = 2 then s.dealSplice p m else s.dealLaunch p m
/-- LAUNCH_LOAD (R23, R423): the selected record is checked and dealt once nothing stands in its way, and started once the skein
tree has delivered what was sent. -/
def execLaunchLoad (s : State) : Out :=
  match s.mgmt.loading with
  | none => .next s
  | some p =>
    if s.mgmt.takeover then .next s
    else if p.st = .loading then (if s.classDone p then .next (s.finishLoad p) else .next s)
    else if p.kind ≠ 2 ∧ s.mgmt.inTheWay p ≠ [] then .next s
    else
      let s := s.writeStatus p 2 0 0 0 0
      let c := s.mgmt.recordCause p
      .next (if c ≠ 0 then s.failLoad p c 0 0 else if p.kind = 1 then s.loadResume p else s.loadImage p)

/-! ### Splices and ends (R106, R370, R371) -/

/-- Predecessors whose every core has accepted its successor or exited are done (R371). -/
def State.endPredecessors (s : State) : State :=
  s.mgmt.parts.foldl (fun s q =>
    match s.mgmt.parts.find? fun p => p.succOf == some q.recVa with
    | none => s
    | some p =>
      if q.st = .running ∧ q.cores.all fun l => (s.core l).skein != q.recVa || ((s.core l).exitRep == .held && !(s.core l).splice) then
        ((s.endRecord q 4 0 q.accepted 0 0).endSkein q).modPart p.recVa fun p => { p with succOf := none }
      else s) s
/-- What of an idle core goes on behind its predecessor's work: its router and ports, its copies, its reports, and, where the
successor names the same DOMAIN, its SRAM with the errors in it (R136). -/
def Core.succeed (c : Core) (same : Bool) (rest : List CfgMsg) : Core :=
  { c.idle with
    inject := c.inject, inputs := c.inputs, ways := c.ways, emits := c.emits, locals := c.locals, used := c.used, owed := c.owed,
    lastWin := c.lastWin, picks := c.picks, copies := c.copies, dataQ := c.dataQ, latom := c.latom, depQ := c.depQ, banks := c.banks, filled := c.filled,
    vecOn := c.vecOn, tenOn := c.tenOn, vecUntil := c.vecUntil,
    vecIdle := c.vecIdle, tenIdle := c.tenIdle, cfg := rest,
    sram := if same then c.sram else [], ue := if same then c.ue else [], ce := if same then c.ce else [] }
/-- SPLICE_ACCEPT (R106, R136, R371): the core takes the successor behind its predecessor's work and starts it; its row domain
hears of the successor's request (R15). -/
def execSpliceAccept (c : Nat) (s : State) : Out :=
  let x := s.core c
  match x.cfg with
  | .splice r img plb :: rest =>
    if !x.splice ∨ x.residents ≠ [] then .next s
    else match s.mgmt.parts.find? fun p => p.recVa == r with
      | none => .next (s.modCore c fun x => { x with cfg := rest })
      | some p =>
        let b := s.ebrick c
        let same := s.mgmt.parts.any fun q => q.recVa == x.skein && q.domain == p.domain
        let base := x.succeed same rest
        let y := (((img.share (p.rel c).1 (p.rel c).2).deal base).getD base).takeRecord p plb b (p.rel c).1 (p.rel c).2
        let s := ((s.releaseCore c).setCore c y).sendStart c
        let s := s.modPart r fun q => { q with st := .running, accepted := q.accepted + 1 }
        let s := s.writeStatus p 3 0 (p.accepted + 1) 0 0
        .next (s.endPredecessors.regrant (domainOf c))
  | _ => .next s
/-- EXIT_REPORT (R370). -/
def execExitReport (c : Nat) (s : State) : Out :=
  let x := s.core c
  let tags := tagNums.any fun k => (x.tag k).live
  if x.part.isNone ∨ x.frozen ∨ x.exitRep = .held ∨ x.residents ≠ [] ∨ x.copies ≠ [] ∨ x.inject ≠ [] ∨ tags ∨ s.edgeCount c ≠ 0 then .next s
  else .next (s.modCore c fun x => { x with exitRep := .held }).endPredecessors
/-- No flit stands in a core's router, where a message that stands at the core itself has left none (R178), and no spawn waits to
withdraw its report. -/
def Core.silent (c : Core) : Bool :=
  c.inputs.isEmpty && c.ways.isEmpty && c.emits.isEmpty && (c.locals.all fun m => m.st == .stands && m.whole) && c.spawnQ.isEmpty
/-- DRAIN_PROBE (R370): with every exit report held and no flit in the partition's routers, the skein ends. -/
def execDrainProbe (part : Nat) (s : State) : Out :=
  match s.mgmt.parts.find? fun p => p.part == part && p.st == .running && !(s.mgmt.parts.any fun q => q.succOf == some p.recVa) with
  | none => .next s
  | some p =>
    if p.cores.all fun l => (s.core l).skein == p.recVa && (s.core l).exitRep == .held && (s.core l).silent then
      .next ((s.endRecord p 4 0 p.accepted 0 0).endSkein p)
    else .next s
/-- FREEZE_ANSWER (R381): the dealer takes up a FREEZE, and its answer reaches the strand. -/
def execFreezeAnswer (c k : Nat) (s : State) : Out :=
  let k : BitVec 3 := BitVec.ofNat 3 k
  match takeFirst (fun f : Nat × BitVec 3 × BitVec 4 × Word => f.1 == c && f.2.1 == k) s.mgmt.freezeAns with
  | none => .next s
  | some ((_, _, d, n), rest) =>
    let s := { s with mgmt := { s.mgmt with freezeAns := rest } }
    let answer := fun (s : State) (v : Word) => Host.Outcome.next (s.modCore c fun x => x.modStrand k fun t => t.answer d v (x.nextCycle + 1))
    if s.mgmt.parts.any fun p => p.part == n.toNat && (p.st == .freezing || p.st == .saving) then answer s 2
    else match s.mgmt.parts.find? fun p => p.part == n.toNat && p.st == .running with
      | none => answer s 1
      | some p => if (s.mgmt.front p).save = 0 then answer s 3 else answer (s.startFreeze p) 0

end Sys2Proof.Machine
end

