-- ==== Sys2Proof/Machine/BringUp.lean ====
section
/-! DEFINITION. The skeins that boot deals: the bring-up program, as 15 "Bring-up on a 32 × 32 block" lists it, and the firmware image
(01 R26, 15 R401). -/

namespace Sys2Proof.Machine

/-- A region of columns and rows (R369). -/
def region (c0 c1 q0 q1 : Nat) : Reg40 := c0 + 2 ^ 10 * c1 + 2 ^ 20 * q0 + 2 ^ 30 * q1
/-- The bytes of a clause: its header and its instructions. -/
def clauseBytes (h : Word) (l : List Instr) : List Byte :=
  (toBytes 4 h.toNat) ++ (l.map fun i => toBytes 4 ((encode i).getD 0).toNat).flatten
/-- The code of bring-up from 0x0400 (Table 15.10). -/
def bringUpCode : List Byte :=
  clauseBytes 0xF8100000 [.addi 3 0 0x4000, .addi 5 0 4096] ++
    clauseBytes 0xF8310000 [.st 4 3 2 0, .addi 3 3 4, .addi 4 4 1, .loop 5 4] ++
    clauseBytes 0xF8300000 [.addi 6 0 0x4000, .addi 7 0 16384, .sendb 1 6 6 1, .bra 4] ++
    clauseBytes 0xF8100000 [.addi 12 0 2, .join 12] ++
    clauseBytes 0xF8100000 [.addi 3 0 0x4000, .addi 5 0 4096] ++
    clauseBytes 0xF8310000 [.ld 9 3 2 0, .addi 3 3 4, .add 8 8 9, .loop 5 4] ++
    clauseBytes 0xF8100000 [.cjoin 10 1 1 0, .exit]
/-- A channel entry from its inputs and fan-out (Table 7.3). -/
def routeEntry (ins outs : Nat) : BitVec 16 := BitVec.ofNat 16 (ins + 2 ^ 5 * outs + 2 ^ 11)
/-- The bring-up image for a partition of cols by rows cores. -/
def bringUpImage (cols rows : Nat) : Image :=
  let root := region 0 0 0 0
  let top := region 1 (cols - 1) 0 0
  let rest := region 0 (cols - 1) 1 (rows - 1)
  let strand := fun (a : Addr) => (⟨a, 0, 0, 0, 1, none, true⟩ : Entry)
  let b0 := (0x4000 + 2 ^ 16 * 16384 + 2 ^ 32 * 6, 0)
  { cols := cols, rows := rows, rowdiv := 1,
    sections := [(region 0 (cols - 1) 0 (rows - 1), ⟨0x400, bringUpCode.length, bringUpCode, [0x400, 0x40C, 0x420, 0x434, 0x440, 0x44C, 0x460]⟩)],
    entries := [(root, 0, strand 0x400), (top, 1, strand 0x434), (rest, 2, strand 0x434)],
    bobbins := [(top, 0, b0), (rest, 0, b0)],
    routes := [(root, 1, routeEntry 16 6), (region 1 (cols - 2) 0 0, 1, routeEntry 8 22), (region (cols - 1) (cols - 1) 0 0, 1, routeEntry 8 20),
               (region 0 (cols - 1) 1 (rows - 2), 1, routeEntry 1 20), (region 0 (cols - 1) (rows - 1) (rows - 1), 1, routeEntry 1 16)],
    triggers := [(top, 1, 1), (rest, 1, 1)],
    spindles := [] }
/-- The record of a skein of boot, number n, over the whole grid: it lies at no virtual address, and what the spec gives it no value
for is 0 (DESIGN CHOICE, log entry 42). -/
def Mgmt.bootRecord (m : Mgmt) (n : Nat) : PartRec :=
  { part := 0, recVa := 2 ^ 57 + n, image := 0, save := 0, queue := 0, domain := 0, kind := 0, irq := false, vec := 0, col0 := 0, row0 := 0,
    ncol := m.gridC / 16, nrow := m.gridR / 8, srs := 0, sigs := 0, pred := 0, olaunch := false, opriv := false, opart := 0, resv := false,
    priv := false, sprio := 0, rowdiv := 1, d3 := 0, st := .selected, accepted := 0, succOf := none, remap := false }
/-- Step 7 of boot: the bring-up skein is dealt; once it has ended, and join 0 of every hub has fired its first generation, the
firmware image is dealt down the same tree. The second value is true when the step is complete: with the firmware dealt, or where
no image or no grid stands. -/
def State.bootDeal (s : State) : State × Bool :=
  let m := s.mgmt
  let p := m.bootRecord m.bringUp
  if m.gridC = 0 ∨ m.gridR = 0 then (s, true)
  else if m.loading.isSome then (s, false)
  else if m.bringUp = 0 then (({ s with mgmt := { m with bringUp := 1 } } : State).dealLaunch p (bringUpImage m.gridC m.gridR), false)
  else if m.bringUp = 1 then
    if m.parts = [] ∧ p.hubs.all fun h => (rd (s.hub h).joins (0 : BitVec 5)).gen == (1 : BitVec 16) then
      let s : State := { s with mgmt := { m with bringUp := 2 } }
      match Image.ofFlash m.firmware with
      | some i => if (s.imageCause p i).isNone then (s.dealLaunch p i, false) else (s, true)
      | none => (s, true)
    else (s, false)
  else (s, true)

end Sys2Proof.Machine
end

