-- ==== Sys2Proof/Machine/Tree.lean ====
section
/-! DEFINITION. The tree that tree mode shows of the map (15 R398, Table 15.4). Its order is breadth-first; a cluster hangs
under the reticle of its north-west core, a site that holds no logical core under its own reticle. -/

namespace Sys2Proof.Machine

/-- What a node stands for: a site with the logical core placed on it, a link with its site and direction (true: south). -/
inductive TreeItem where
  | wafer
  | reticle (r : Nat)
  | region (h : Nat)
  | site (k : Nat) (core : Option Nat)
  | link (k : Nat) (south : Bool)
  deriving DecidableEq, Repr

/-- A node: what it stands for, its parent's index, its first child's index and its children. -/
structure TreeNode where
  item : TreeItem
  parent : Nat
  first : Nat
  count : Nat
  deriving DecidableEq, Repr

/-- The reticle that holds a site: 152 by 84 sites, 7 reticles in a row. -/
def reticleOf (k : Nat) : Nat := k / 1064 / 84 * 7 + k % 1064 / 152
/-- The clusters of the grid presented, row-major. -/
def Mgmt.clusters (m : Mgmt) : List Nat :=
  ((List.range (m.gridR / 8)).map fun r => (List.range (m.gridC / 16)).map fun c => 64 * r + c).flatten
/-- The cores of a cluster, by logical position. -/
def clusterCores (h : Nat) : List Nat :=
  ((List.range 8).map fun r => (List.range 16).map fun c => (8 * (h / 64) + r) * 1024 + 16 * (h % 64) + c).flatten
/-- The sites that hold a logical core. -/
def Mgmt.coreSites (m : Mgmt) : List Nat := (m.clusters.map fun h => (clusterCores h).map fun l => siteIx (m.site l)).flatten
/-- The children of a node. -/
def Mgmt.treeChildren (m : Mgmt) : TreeItem → List TreeItem
  | .wafer => (List.range 84).map TreeItem.reticle
  | .reticle r =>
    let held := m.coreSites
    ((m.clusters.filter fun h => reticleOf (siteIx (m.site ((clusterCores h).headD 0))) == r).map TreeItem.region) ++
      (((List.range 1072512).filter fun k => reticleOf k == r && !held.contains k).map fun k => TreeItem.site k none)
  | .region h => (clusterCores h).map fun l => TreeItem.site (siteIx (m.site l)) (some l)
  | .site k _ => (if k % 1064 < 1063 then [TreeItem.link k false] else []) ++ (if k / 1064 < 1007 then [TreeItem.link k true] else [])
  | .link _ _ => []
/-- A level's nodes from their items and parents; `first` is the index of the first child. -/
def Mgmt.treeLevel (m : Mgmt) : Nat → List (TreeItem × Nat) → List TreeNode
  | _, [] => []
  | first, (i, p) :: t =>
    let n := (m.treeChildren i).length
    ⟨i, p, if n = 0 then 0 else first, n⟩ :: m.treeLevel (first + n) t
/-- The items of the next level, with their parents' indexes from `start`. -/
def Mgmt.treeBelow (m : Mgmt) : Nat → List (TreeItem × Nat) → List (TreeItem × Nat)
  | _, [] => []
  | start, (i, _) :: t => ((m.treeChildren i).map fun j => (j, start)) ++ m.treeBelow (start + 1) t
/-- The nodes of the given number of levels, the first of them at index `start`. -/
def Mgmt.treeFrom (m : Mgmt) : Nat → Nat → List (TreeItem × Nat) → List TreeNode
  | 0, _, _ => []
  | n + 1, start, l => m.treeLevel (start + l.length) l ++ m.treeFrom n (start + l.length) (m.treeBelow start l)
/-- The nodes of the tree. -/
def Mgmt.tree (m : Mgmt) : List TreeNode := m.treeFrom 5 0 [(.wafer, 0)]
/-- STATUS of a node; a link beside a site in state 2 is down (Table 15.1), and one is detour-only when only detours pass it. -/
def Mgmt.treeStatus (m : Mgmt) : TreeItem → Nat
  | .site k c =>
    let code := lookup 0 m.map.sites k
    code + (if c.isNone ∧ code = 0 then 4 else 0) + (if m.remapped.contains k then 8 else 0)
  | .link k south =>
    if m.map.links.contains (k, south) ∨ lookup 0 m.map.sites k = 2 ∨ lookup 0 m.map.sites (linkEnd (k, south)) = 2 then 1 else if m.detourOnly (k, south) then 2 else 0
  | _ => 0
/-- CAP of a node. -/
def Mgmt.treeCap (m : Mgmt) : TreeItem → Nat
  | .wafer => m.gridC / 16
  | .region h => ((clusterCores h).filter fun l => lookup 0 m.map.sites (siteIx (m.site l)) == 0).length
  | .site _ (some l) => ([0, 1, 2, 3].filter fun d => match m.pointer l d with | some h => h.detour | none => false).length
  | _ => 0
/-- TYPE, PHYS and LOG of a node. -/
def TreeItem.type : TreeItem → Nat
  | .wafer => 0 | .reticle _ => 1 | .region _ => 2 | .site _ _ => 3 | .link _ _ => 4
def TreeItem.phys : TreeItem → Nat
  | .reticle r => r
  | .site k _ => k % 1064 + 2 ^ 11 * (k / 1064)
  | .link k south => k % 1064 + 2 ^ 11 * (k / 1064) + 2 ^ 21 * bit south
  | _ => 0
def TreeItem.log : TreeItem → Nat
  | .region h => h % 64 + 2 ^ 10 * (h / 64)
  | .site _ (some l) => colOf l + 2 ^ 10 * rowOf l + 2 ^ 31
  | _ => 0
/-- The doublewords of a node (Table 15.4). -/
def Mgmt.treeWord (m : Mgmt) (n : TreeNode) (i : Nat) : Nat :=
  if i = 0 then n.item.type + 2 ^ 8 * m.treeStatus n.item + 2 ^ 16 * m.treeCap n.item + 2 ^ 32 * n.parent
  else if i = 1 then n.first + 2 ^ 32 * n.count
  else if i = 2 then n.item.phys + 2 ^ 32 * n.item.log
  else 0
/-- MODE of BOOTCFG (Table 15.3): tree mode. -/
def Mgmt.treeMode (m : Mgmt) : Bool := m.bootCfg.getLsbD 0
/-- The doubleword at an offset of the tree window; nodes past the last read 0. -/
def Mgmt.treeAt (m : Mgmt) (off : Nat) : Nat :=
  if m.treeMode then
    match m.tree[m.treePage.toNat * 1048576 + off / 32]? with
    | some n => m.treeWord n (off % 32 / 8)
    | none => 0
  else 0
/-- TREELEN: 0 in hidden mode, which gives no access to the tree. -/
def Mgmt.treeLen (m : Mgmt) : Nat := if m.treeMode then m.tree.length else 0

end Sys2Proof.Machine
end

