-- ==== Sys2Proof/Machine/Mgmt.lean ====
section
/-! DEFINITION. The management window BAR0 and the management commands (14 R363, R364, R384–R386, 10 R271, R282, 12 R317, R333,
15 R392, R398). -/

namespace Sys2Proof.Machine

/-! ### Reading the window (Table 14.15) -/

/-- The four registers of a memory queue. -/
def QRegs.reg (q : QRegs) (i : Nat) : Nat := if i = 0 then q.base.toNat else if i = 1 then q.size.toNat else if i = 2 then q.head.toNat else q.tail.toNat
/-- A CXL port's status. -/
def Cxl.status (x : Cxl) : Nat := x.link.toNat + 4 * bit x.host + 8 * x.lanes.toNat + 256 * bit x.fast + 512 * bit x.unsup
/-- The region that a port's map registers show: the first that holds it. -/
def State.portRegion (s : State) (p : Nat × Nat) : Option Region := (s.regions (p.1 / 2)).find? fun r => r.ways.contains p
/-- The registers of a Nirber port (R333). -/
def Nirber.reg (x : Nirber) (i : Nat) : Nat :=
  if i = 0 then x.st.toNat + 4 * bit x.degr + 8 * bit x.misrail + 2 ^ 16 * x.peer.toNat + 2 ^ 32 * x.fecc.toNat + 2 ^ 40 * x.fecu.toNat
  else if i = 1 then x.crc.toNat else if i = 2 then x.replay.toNat else if i = 3 then x.retrain.toNat else if i = 4 then x.corr.toNat else 0
/-- The doubleword at an offset of brick b's page. -/
def State.brickReg (s : State) (b o : Nat) : Nat :=
  let k := s.brick b
  if o = 0 then k.th.toNat + 32 * bit k.en + 64 * bit k.qfull + 2 ^ 16 * k.missed.toNat
  else if o ≤ 0x20 then k.mq.reg (o / 8 - 1)
  else if 0x100 ≤ o ∧ o < 0x120 then (rd k.cxl (BitVec.ofNat 2 ((o - 0x100) / 8))).status
  else if 0x180 ≤ o ∧ o < 0x1C0 then
    match s.portRegion (b, (o - 0x180) / 16) with
    | some r => if o % 16 = 0 then r.base else r.len
    | none => 0
  else if 0x200 ≤ o ∧ o < 0x380 then (s.port b ((o - 0x200) / 64)).reg (o % 64 / 8)
  else 0
/-- The doubleword at a multiple of 8 of the window. -/
def State.window (s : State) (o : Nat) : Nat :=
  let m := s.mgmt
  if o = 0 then modId.toNat else if o = 8 then m.serial.toNat else if o = 0x10 then m.flashCfg.toNat else if o = 0x18 then m.bootCause.toNat
  else if o = 0x20 then m.grid.toNat else if o = 0x28 then m.bootProg.toNat else if o = 0x30 then m.timeq.toNat
  else if o = 0x38 then s.time % 2 ^ 64 else if o = 0x40 then m.ocause.toNat else if o = 0x48 then m.leader.toNat + 2 ^ 16 * m.epoch.toNat
  else if o = 0x80 then m.etroot.toNat else if o = 0x100 then m.cmd.toNat else if o = 0x108 then m.arg0.toNat
  else if o = 0x110 then m.arg1.toNat else if o = 0x118 then m.arg2.toNat else if o = 0x120 then m.cmdStat.toNat
  else if 0x200 ≤ o ∧ o < 0x220 then m.mgq.reg ((o - 0x200) / 8) else if 0x240 ≤ o ∧ o < 0x260 then m.errlog.reg ((o - 0x240) / 8)
  else if o = 0x280 then (if m.treeMode then 0x2000000 else 0) else if o = 0x288 then m.treePage.toNat else if o = 0x290 then m.treeLen
  else if 0x1000 ≤ o ∧ o < 0x1400 then
    let x := (m.queue (BitVec.ofNat 6 ((o - 0x1000) / 16))).toNat
    if o % 16 = 0 then x % 2 ^ 64 else x / 2 ^ 64
  else if 0x2000 ≤ o ∧ o < 0x3000 then
    let x := rd m.faultQs (BitVec.ofNat 6 ((o - 0x2000) / 64))
    if o % 64 < 32 then x.q.reg (o % 64 / 8) else if o % 64 = 32 then x.ctl.toNat else 0
  else if 0x3000 ≤ o ∧ o < 0x3800 then (m.group ((o - 0x3000) / 8)).toNat
  else if 0x10000 ≤ o ∧ o < 0x30000 then s.brickReg ((o - 0x10000) / 4096) (o % 4096)
  else if 0x100000 ≤ o ∧ o < 0x10F000 then (s.hub ((o - 0x100000) / 8)).fstat.toNat
  else if 0x1000000 ≤ o ∧ o < 0x1800000 then (lookup 0 m.domains ((o - 0x1000000) / 8)).toNat
  else if 0x2000000 ≤ o ∧ o < 0x4000000 then m.treeAt (o - 0x2000000)
  else 0

/-! ### Writing it -/

/-- A base register of a queue: a physical address aligned to 4 KiB. What a write of another address stores is the model's choice:
bits 11:0 and 63:52 are cleared (DESIGN CHOICE, log entry 48). -/
def qBase (v : Nat) : Dword := BitVec.ofNat 64 (v % 2 ^ 52 / 4096 * 4096)
/-- A queue's base, size or head written; the tail is read-only. A size that is no power of two from 64 to 65,536 and a head are stored
as they are written, modulo 2^32 (DESIGN CHOICE, log entry 48). -/
def QRegs.setReg (q : QRegs) (i v : Nat) : QRegs :=
  if i = 0 then { q with base := qBase v } else if i = 1 then { q with size := BitVec.ofNat 64 (v % 2 ^ 32) }
  else if i = 2 then { q with head := BitVec.ofNat 64 (v % 2 ^ 32) } else q
/-- The two halves of a queue descriptor written (Table 14.5). The dealer knows the sentinel of an enabled queue from its
tail word, which lies at a multiple of 8, once it serves it at that address; of a TAILVA written with bits 2:0 not 0 it takes the word
that holds that byte (DESIGN CHOICE, log entry 48). -/
def State.writeDescriptor (s : State) (q half v : Nat) : State :=
  let i : BitVec 6 := BitVec.ofNat 6 q
  let old := (s.mgmt.queue i).toNat
  let new : BitVec 128 := BitVec.ofNat 128
    (if half = 0 then old / 2 ^ 64 * 2 ^ 64 + v % 2 ^ 57 else old % 2 ^ 64 + 2 ^ 64 * (v % 2 ^ 7))
  let kept := if qTail new = qTail (s.mgmt.queue i) then s.mgmt.sentinels else s.mgmt.sentinels.filter fun e => e.1 != q
  let s := { s with mgmt := { s.mgmt with queues := wr s.mgmt.queues i new, sentinels := kept } }
  if qEn new ∧ !kept.any fun e => e.1 == q then
    match s.dealRead (qTail new / 8 * 8) 8 with
    | (s, some bs) => { s with mgmt := { s.mgmt with sentinels := kept ++ [(q, ofBytes bs % 2 ^ 57)] } }
    | (s, none) => s
  else s
/-- BOOTCFG stored to both flash devices (R392); ILG 7 stores 6. -/
def Mgmt.writeBootcfg (m : Mgmt) (v : Word) : Mgmt :=
  let n := v.toNat % 2 ^ 15
  { m with flashCfg := BitVec.ofNat 32 (if n / 2 ^ 12 = 7 then n - 2 ^ 12 else n) }
/-- CMDSTAT (R385). -/
def cmdStatus (st reason code : Nat) : Word := BitVec.ofNat 32 (st + 256 * reason + 65536 * code)
/-- A command is in progress. -/
def Mgmt.busy (m : Mgmt) : Bool := m.cmdStat.toNat % 4 == 1
/-- A write to MGMTCMD starts a command, or is ignored while one is in progress (R385). -/
def Mgmt.command (m : Mgmt) (code : Nat) : Mgmt :=
  if m.busy then m
  else { m with cmd := BitVec.ofNat 64 code, cmdStat := if 1 ≤ code ∧ code ≤ 5 then cmdStatus 1 0 code else cmdStatus 3 1 code }
/-- NLSTAT written: a 1 clears a bit of FECC and FECU (Table 12.6). -/
def Nirber.writeStat (x : Nirber) (v : Nat) : Nirber :=
  { x with fecc := x.fecc &&& ~~~(BitVec.ofNat 8 (v / 2 ^ 32)), fecu := x.fecu &&& ~~~(BitVec.ofNat 8 (v / 2 ^ 40)) }
/-- A doubleword of brick b's page written. -/
def State.writeBrickReg (s : State) (b o v : Nat) : State :=
  if o = 0 then s.migctl b v
  else if o = 8 ∨ o = 0x10 then s.modBrick b fun k => { k with mq := k.mq.setReg (o / 8 - 1) v }
  else if o = 0x18 then s.mqHead b (v % 2 ^ 32)
  else if 0x200 ≤ o ∧ o < 0x380 then
    s.modPort b ((o - 0x200) / 64) fun x => if o % 64 = 0 then x.writeStat v else x.clearCounter (o % 64 / 8 - 1)
  else s
/-- A domain-table entry; entries that are 0 are not listed (R386). -/
def Mgmt.setDomainEntry (m : Mgmt) (k : Nat) (v : Dword) : Mgmt :=
  { m with domains := if v = 0 then remove k m.domains else insert k v m.domains }
/-- The doubleword at a multiple of 8 of the window written, under the access code of its table. -/
def State.writeWindow (s : State) (o v : Nat) : State :=
  let m := s.mgmt
  let set := fun (m : Mgmt) => { s with mgmt := m }
  let d : Dword := BitVec.ofNat 64 v
  if o = 0x10 then set (m.writeBootcfg (d.truncate 32))
  else if o = 0x40 then set (m.writeOcause (d.truncate 32))
  else if o = 0x80 then set { m with etroot := BitVec.ofNat 64 (v % 2 ^ 52 / 2 ^ 14 * 2 ^ 14) }
  else if o = 0x100 then set (m.command (v % 256))
  else if o = 0x108 then set { m with arg0 := d } else if o = 0x110 then set { m with arg1 := d } else if o = 0x118 then set { m with arg2 := d }
  else if 0x200 ≤ o ∧ o < 0x220 then set { m with mgq := m.mgq.setReg ((o - 0x200) / 8) v }
  else if 0x240 ≤ o ∧ o < 0x260 then set { m with errlog := m.errlog.setReg ((o - 0x240) / 8) v }
  else if o = 0x288 then set { m with treePage := d }
  else if 0x1000 ≤ o ∧ o < 0x1400 then s.writeDescriptor ((o - 0x1000) / 16) (o % 16 / 8) v
  else if 0x2000 ≤ o ∧ o < 0x3000 then
    let p : BitVec 6 := BitVec.ofNat 6 ((o - 0x2000) / 64)
    let x := rd m.faultQs p
    let x := if o % 64 < 32 then { x with q := x.q.setReg (o % 64 / 8) v }
      else if o % 64 = 32 then { x with ctl := BitVec.ofNat 32 (v % 64 + v / 2 ^ 8 % 256 * 2 ^ 8) } else x
    set { m with faultQs := wr m.faultQs p x }
  else if 0x3000 ≤ o ∧ o < 0x3800 then
    set { m with groups := wr m.groups (BitVec.ofNat 8 ((o - 0x3000) / 8)) (BitVec.ofNat 64 (v % 2 ^ 42 + v / 2 ^ 63 % 2 * 2 ^ 63)) }
  else if 0x10000 ≤ o ∧ o < 0x30000 then s.writeBrickReg ((o - 0x10000) / 4096) (o % 4096) v
  else if 0x100000 ≤ o ∧ o < 0x10F000 then (if v.testBit 16 then s.modHub ((o - 0x100000) / 8) fun h => { h with ovf := false, refused := 0 } else s)
  else if 0x1000000 ≤ o ∧ o < 0x1800000 then
    set (m.setDomainEntry ((o - 0x1000000) / 8) (BitVec.ofNat 64 (v % 2 ^ 45 + v / 2 ^ 63 % 2 * 2 ^ 63)))
  else s

/-- REGISTER_WRITE (R384): a write of 4 or 8 bytes by the host at a host port; a low half is staged until a high half comes. -/
def execRegisterWrite (port off len : Nat) (v : BitVec 64) (s : State) : Out :=
  let o := off / 8 * 8
  let key := (port, o)
  let kept := s.mgmt.staged.filter fun e => e.1 != key
  if !s.hostPort port ∨ (len ≠ 4 ∧ len ≠ 8) ∨ off % len ≠ 0 ∨ 2 ^ 26 ≤ off then .next s
  else if len = 8 then .next (({ s with mgmt := { s.mgmt with staged := kept } } : State).writeWindow o v.toNat)
  else if off = o then .next { s with mgmt := { s.mgmt with staged := kept ++ [(key, v.truncate 32)] } }
  else
    let low := match s.mgmt.staged.find? fun e => e.1 == key with | some e => e.2.toNat | none => s.window o % 2 ^ 32
    .next (({ s with mgmt := { s.mgmt with staged := kept } } : State).writeWindow o (low + 2 ^ 32 * (v.toNat % 2 ^ 32)))
/-- QUEUE_DESCRIPTOR_WRITE (R364, R368): half 0 holds TAILVA, half 1 the control bits. -/
def execQueueDescriptorWrite (q half : Nat) (v : BitVec 64) (s : State) : Out :=
  .next (if 64 ≤ q ∨ 2 ≤ half then s else s.writeDescriptor q half v.toNat)
/-- BOOTCFG_WRITE (R392). -/
def execBootcfgWrite (v : BitVec 32) (s : State) : Out := .next { s with mgmt := s.mgmt.writeBootcfg v }

/-! ### Commands (R385) -/

/-- The command in progress has this code, and no takeover holds it up. -/
def Mgmt.running (m : Mgmt) (code : Nat) : Bool := m.busy && m.cmd == BitVec.ofNat 64 code && !m.takeover
/-- A command ends: done, or refused for a reason. -/
def State.answerCmd (s : State) (reason : Nat) : State :=
  { s with mgmt := { s.mgmt with cmdStat := cmdStatus (if reason = 0 then 2 else 3) reason s.mgmt.cmd.toNat } }
/-- ETINV's range holds a page or a piece at a virtual address. -/
def Mgmt.etinvHits (m : Mgmt) (va n : Nat) : Bool :=
  m.arg1 == 0 || (decide (va < m.arg0.toNat + m.arg1.toNat) && decide (m.arg0.toNat < va + n))
/-- A request has been translated and not yet been performed (R271). -/
def EdgeReq.translated (r : EdgeReq) : Bool := match r.stage with | .toHome => true | .unannounced => true | .announced _ => true | _ => false
/-- An ETINV drops a translation: its page meets the range. -/
def Mgmt.etinvDrops (m : Mgmt) (t : Tlb) : Bool := m.etinvHits (t.va / 2 ^ t.bits * 2 ^ t.bits) (2 ^ t.bits)
/-- The requests that have been translated through what an ETINV drops: with a byte in its range, or in a page dropped with it. -/
def State.etinvIds (s : State) : List Nat :=
  let m := s.mgmt
  (s.reqs.filter fun r => r.translated && r.pieces.any fun p =>
    m.etinvHits p.va p.n || s.bricks.any fun b => b.2.tlb.any fun t => m.etinvDrops t && p.va / 2 ^ t.bits == t.va / 2 ^ t.bits).map (·.id)
/-- ETINV (R271): the lookasides drop the range at once; the command is done when no request translated through it remains. -/
def execEtinv (s : State) : Out :=
  let m := s.mgmt
  if !m.running 1 then .next s
  else if m.arg0.toNat % 65536 ≠ 0 ∨ m.arg1.toNat % 65536 ≠ 0 then .next (s.answerCmd 4)
  else
    let ids := m.etinv.getD s.etinvIds
    let s := { s with
      bricks := s.bricks.map fun (i, (k : Brick)) => (i, { k with tlb := k.tlb.filter fun t => !m.etinvDrops t }), mgmt := { m with etinv := some ids } }
    .next (if s.reqs.any fun r => r.translated && ids.contains r.id then s
      else ({ s with mgmt := { s.mgmt with etinv := none } } : State).answerCmd 0)
/-- The partition of a command's argument: a refusal reason, or its records. -/
def Mgmt.cmdParts (m : Mgmt) : Except Nat (List PartRec) :=
  if 64 ≤ m.arg0.toNat then .error 4
  else match m.parts.filter fun p => p.part == m.arg0.toNat && p.resident with
    | [] => .error 2
    | l => .ok l
/-- RETRY (R372): stalled context saves of the partition try again. -/
def execRetry (s : State) : Out :=
  if !s.mgmt.running 2 then .next s
  else match s.mgmt.cmdParts with
    | .error r => .next (s.answerCmd r)
    | .ok ps => .next (((ps.map PartRec.hubs).flatten.foldl (fun s h =>
        if (s.hub h).savef then s.modHub h fun u => { u with savef := false } else s) s).answerCmd 0)
/-- SALV of BOOTCAUSE. -/
def Mgmt.salvage (m : Mgmt) : Bool := m.bootCause.getLsbD 3
/-- The bytes of a map before its signature, which the signature covers (Table 15.2). -/
def MapCopy.signed (c : MapCopy) : List Byte :=
  toBytes 4 c.magic.toNat ++ [c.origin, c.rev, 0, 0] ++ toBytes 8 c.serial.toNat ++ toBytes 8 c.time.toNat ++ toBytes 4 c.links.length ++
    List.replicate 36 0 ++
    ((List.range 268128).map fun j => BitVec.ofNat 8 (lookup 0 c.sites (4 * j) + 4 * lookup 0 c.sites (4 * j + 1) + 16 * lookup 0 c.sites (4 * j + 2) +
      64 * lookup 0 c.sites (4 * j + 3))) ++
    (c.links.map fun e => toBytes 4 (e.1 + 2 ^ 21 * bit e.2)).flatten
/-- The bytes of a map (Table 15.2). -/
def MapCopy.bytes (c : MapCopy) : List Byte := c.signed ++ toBytes 96 c.sig.toNat
/-- A map written at run time, signed with the module key (R390, R391, R403). -/
def MapCopy.stamp (c : MapCopy) (origin : Byte) (serial : Dword) (time : Nat) : MapCopy :=
  let c := { c with magic := 0x4D5A444D, origin := origin, rev := 3, serial := serial, time := BitVec.ofNat 64 time }
  { c with sig := Config.mapSign c.signed }
/-- MAPCOMMIT (R403): the swept map goes to copies A and B, with what has been marked at run time and without the marks of this
boot. -/
def execMapcommit (s : State) : Out :=
  let m := s.mgmt
  if !m.running 3 then .next s
  else if !m.salvage then .next (s.answerCmd 5)
  else
    let c := m.recMap.stamp 2 m.serial s.time
    .next (({ s with mgmt := { m with recMap := c, copyA := c, copyB := c } } : State).answerCmd 0)

/-- A core is stopped and emptied at once: nothing of it remains but its counts and its reports, which are never lost (R361), and its
requests run on for nobody. -/
def State.purgeCore (s : State) (l : Nat) : State :=
  let s := (s.releaseCore l).rehome l nobody
  let s := { s with
    hubReqs := s.hubReqs.filter fun r => r.core != l || (match r.op with | .offer _ stopped _ => !stopped | _ => false),
    hubReps := s.hubReps.filter fun r => r.1 != l || (match r.2.2 with | .offer _ stopped _ => !stopped | _ => false),
    bricks := s.bricks.map fun (i, (k : Brick)) => (i, { k with watches := k.watches.filter fun w => w.core != l }) }
  let m := s.mgmt
  let s := { s with mgmt := { m with freezeAns := m.freezeAns.filter fun f => f.1 != l } }
  s.modCore l Core.idle
/-- A record of a partition that is aborted: it fails with cause 8, and nothing of it remains on a core or in the class. -/
def State.abortPart (s : State) (p : PartRec) : State :=
  let s := p.cores.foldl (fun s l => s.purgeCore l) s
  let s := p.hubs.foldl (fun s h => s.modHub h fun u => { u with frozen := false, saved := false, savef := false }) s
  (((s.endRecord p 5 8 p.accepted 0 0).dropClass p).dropPart p.recVa).regrants p
/-- ABORT (R371, R385): the partition's records fail with cause 8, those of the skeins spliced behind them included, and its
rectangle is free. -/
def execAbort (s : State) : Out :=
  let m := s.mgmt
  if !m.running 4 then .next s
  else
    let mine := m.loading.any fun p => p.part == m.arg0.toNat
    let s := match m.loading with
      | some p => if !mine then s else if p.st = .loading then { s with mgmt := { m with loading := none } } else s.failLoad p 8 0 0
      | none => s
    match m.cmdParts with
    | .error r => .next (if mine then s.answerCmd 0 else s.answerCmd r)
    | .ok ps =>
      let all := m.parts.filter fun q => ps.any fun p => p.recVa == (m.front q).recVa || p.recVa == q.recVa || (m.front p).recVa == (m.front q).recVa
      .next ((all.foldl State.abortPart s).answerCmd 0)
/-- RELEASE (R385): frees a stopped strand as ERET.REL does. -/
def execRelease (s : State) : Out :=
  let m := s.mgmt
  if !m.running 5 then .next s
  else match m.cmdParts with
    | .error r => .next (s.answerCmd r)
    | .ok [] => .next (s.answerCmd 2)
    | .ok (p :: _) =>
      let c := field m.arg1.toNat 0 10
      let q := field m.arg1.toNat 10 10
      let k : BitVec 3 := BitVec.ofNat 3 m.arg2.toNat
      let l := p.coreAt c q
      if 16 * p.ncol ≤ c ∨ 8 * p.nrow ≤ q ∨ ((s.core l).strand k).run ≠ .stopped then .next (s.answerCmd 3)
      else .next ((s.freeSlot l k ((s.core l).cc + 1)).answerCmd 0)

end Sys2Proof.Machine
end

