-- ==== Sys2Proof/Machine/Boot.lean ====
section
/-! DEFINITION. Power, boot and placement, takeovers, and faults at run time: the transient log, lasting failures and the remap
that follows a freeze (01 R19, R26, 14 R372, 15 R390–R406). -/

namespace Sys2Proof.Machine

/-! ### Defect maps (R390, R403) -/

/-- A copy's signature verifies under the key that its ORIGIN names (R390). -/
def MapCopy.sigOk (c : MapCopy) : Bool :=
  if c.origin = 0 then Config.mapSigOk false c.signed c.sig
  else decide (c.origin.toNat ≤ 2) && (c.sig == Config.mapSign c.signed || Config.mapSigOk true c.signed c.sig)
/-- A copy verifies (R390). -/
def MapCopy.verifies (c : MapCopy) (serial : Dword) : Bool :=
  c.magic == 0x4D5A444D && c.rev == 3 && c.serial == serial && (c.sites.all fun e => e.2 != 3) &&
    (c.links.all fun e => linkReal e && c.routerAlive e.1 && c.routerAlive (linkEnd e)) && c.sigOk
/-- The map that salvage boot sweeps: the sites and links that fail their tests (R403). -/
def Mgmt.swept (m : Mgmt) : MapCopy := { MapCopy.good m.serial with sites := m.badSites, links := m.badLinks }
/-- BOOTCAUSE with bits set. -/
def Mgmt.cause (m : Mgmt) (n : Nat) : Mgmt := { m with bootCause := m.bootCause ||| BitVec.ofNat 32 n }
/-- A map taken into use. -/
def Mgmt.useMap (m : Mgmt) (c : MapCopy) : Mgmt := { m with map := c, recMap := c }
/-- Step 2: the first copy that verifies, each failing one setting its bit, or the swept map. -/
def Mgmt.chooseMap (m : Mgmt) : Mgmt :=
  if m.copyA.verifies m.serial then m.useMap m.copyA
  else
    let m := m.cause 1
    if m.copyB.verifies m.serial then m.useMap m.copyB
    else
      let m := m.cause 2
      if m.copyC.verifies m.serial then m.useMap m.copyC else (m.useMap m.swept).cause 12

/-! ### Discovery (R401, steps 4 and 5) -/

/-- A site's router works, and the link from site k to its neighbour east or south carries flits. -/
def Mgmt.worksAt (m : Mgmt) (k : Nat) : Bool := decide (lookup 0 m.badSites k ≠ 2)
def Mgmt.linkWorks (m : Mgmt) (e : Nat × Bool) : Bool := m.worksAt e.1 && m.worksAt (linkEnd e) && !m.badLinks.contains e
/-- The physical links of a site: the link, and the site behind it, which its pointer names in physical mode. -/
def linksAt (k : Nat) : List ((Nat × Bool) × Nat) :=
  [1, 2, 3, 0].filterMap fun d => (romPointer k d).map fun n => ((Nat.min k n, d == 0 || d == 2), n)
/-- The flood can reach a site now: the corner, or a site beside one it has reached. -/
def Mgmt.floods (m : Mgmt) (k : Nat) : Bool :=
  decide (k < 1072512) && m.worksAt k && !m.discovered.contains k &&
    (k == 0 || (linksAt k).any fun e => m.discovered.contains e.2 && m.linkWorks e.1)
/-- A site whose router the map gives as alive has not reported, or a link between such sites is down: marked dead for this
boot (step 5). -/
def Mgmt.compareReports (m : Mgmt) : Mgmt :=
  let dead := (List.range 1072512).filter fun k => m.map.routerAlive k && !m.discovered.contains k
  let sites := dead.foldl (fun l k => insert k 2 l) m.map.sites
  let all := ((List.range 1072512).map fun k => [(k, false), (k, true)].filter linkReal).flatten
  let up := fun (e : Nat × Bool) => decide (lookup 0 sites e.1 ≤ 1) && decide (lookup 0 sites (linkEnd e) ≤ 1)
  let down := all.filter fun e => up e && !m.map.links.contains e && !m.linkWorks e
  let n := dead.length + down.length
  ({ m with map := { m.map with sites := sites, links := m.map.links ++ down } }).cause (2 ^ 12 * Nat.min n (2 ^ 20 - 1) + (if n = 0 then 0 else 32))

/-! ### Placement (R393–R396, R403) -/

/-- The presented grid. -/
def Mgmt.present (m : Mgmt) (gc gr : Nat) : Mgmt := { m with grid := BitVec.ofNat 32 (gc + 2 ^ 11 * gr) }
/-- The number of physical rows that placement may use: all, or the first 32 of a block boot. -/
def Mgmt.rows (m : Mgmt) : Nat := if m.block then 32 else 1008
/-- Enough usable rows for the grid. -/
def Mgmt.rowsSuffice (m : Mgmt) : Bool := decide (m.gridR + (m.badRows.filter fun y => decide (y < m.rows)).length ≤ m.rows)
/-- The first hop, in core and direction order, that has no pointer (R394, R395). -/
def Mgmt.badHop (m : Mgmt) : Option (Nat × Nat) :=
  m.gridCores.findSome? fun l => ([0, 1, 2, 3].find? fun d => (m.hop (m.site l) (m.site (m.torus l d).1)).isNone).map fun d => (l, d)
/-- The westmost live site of a physical row. -/
def Mgmt.westmost (m : Mgmt) (y : Nat) : Nat := y * 1064 + nthFree (m.deadCols y) 0
/-- A site is spared for this boot. -/
def Mgmt.spare (m : Mgmt) (k : Nat) : Mgmt := { m with spared := m.spared ++ [k] }
/-- Marking number i of R394 for a bad hop: the first in the lowest of the row slots that the hop spans, each further one in the next
of them, and again from the lowest (DEDUCED, log entry 48). -/
def Mgmt.mend (m : Mgmt) (h : Nat × Nat) (i : Nat) : Mgmt :=
  let a := (m.site h.1).2
  let b := (m.site (m.torus h.1 h.2).1).2
  let ys := (List.range (Nat.max a b + 1 - Nat.min a b)).map (Nat.min a b + ·) |>.filter fun y => !m.badRows.contains y
  m.spare (m.westmost (ys.getD (i % ys.length) a))
/-- Placement of the presented grid: every hop is checked, and a spare is marked for the first that breaks, again and again; `last` is
the hop of the last marking and the number of its markings in a row. -/
def Mgmt.settle : Nat → (Nat × Nat) × Nat → Mgmt → Option Mgmt
  | 0, _, _ => none
  | n + 1, last, m =>
    if !m.rowsSuffice then none
    else match m.badHop with
      | none => some m
      | some h =>
        let i := if last.1 = h then last.2 else 0
        Mgmt.settle n (h, i + 1) (m.mend h i)
/-- The grids to try, largest first: GRIDR falls in steps of 8, then GRIDC in steps of 16 (R403). -/
def gridSizes (gc gr : Nat) : List (Nat × Nat) :=
  ((List.range (gc / 16)).map fun i => (List.range (gr / 8)).map fun j => (gc - 16 * i, gr - 8 * j)).flatten
/-- A grid of one size placed with its hub blocks, where all hops and bindings hold (R394, R397). -/
def Mgmt.tryGrid (m : Mgmt) (g : Nat × Nat) : Option Mgmt :=
  match Mgmt.settle 1072513 ((0, 0), 0) (m.present g.1 g.2) with
  | some x => let x := { x with hubBlocks := x.bindHubs }; if x.hubsHold then some x else none
  | none => none
/-- The grid is placed from the map (R393–R397, R403). -/
def Mgmt.placeGrid (m : Mgmt) : Mgmt :=
  let m := { m with spared := [], remapped := [] }
  let full := if m.block then (16, 24) else (1024, 960)
  match (gridSizes full.1 full.2).findSome? fun g => (m.tryGrid g).map fun x => (g, x) with
  | some (g, x) => if g = full then x else x.cause 16
  | none => (m.present 0 0).cause 16

/-! ### Power and boot (R26, R399–R402) -/

/-- Power is applied: the module starts as at reset, with its flash, fuses and defects. -/
def State.powerUp (s : State) : State :=
  let m := s.mgmt
  { State.reset with
    power := true, agenda := s.agenda, free := s.free, nextId := s.nextId,
    mgmt := { Mgmt.reset with
      serial := m.serial, flashCfg := m.flashCfg, bootCfg := m.flashCfg, alive := m.alive, copyA := m.copyA, copyB := m.copyB,
      copyC := m.copyC, badSites := m.badSites, badLinks := m.badLinks, badHubs := m.badHubs, firmware := m.firmware } }
/-- The lowest-numbered controller of a set. -/
def lowest (a : BitVec 4) : Option (BitVec 2) := ([0, 1, 2, 3] : List (BitVec 2)).find? fun i => a.getLsbD i.toNat
/-- BOOTPROG's step. -/
def Mgmt.bootStep (m : Mgmt) : Nat := m.bootProg.toNat % 16
/-- A step of Table 15.5 is complete; the dealer accepts launches once the firmware image is dealt (R26). -/
def Mgmt.bootDone (m : Mgmt) (n : Nat) : Mgmt := { m with bootProg := BitVec.ofNat 5 (n + if 7 ≤ n then 16 else 0) }
/-- The boot configuration makes a brick's first port a host port (R18). -/
def Mgmt.hostBit (m : Mgmt) (b : Nat) : Bool := decide (b < 8) && m.bootCfg.getLsbD (1 + b)
/-- POWER_ON (R399, R401): stage n carries out step n of Table 15.5, once step n − 1 is complete. Stage 1 applies power, and every Nirber
port begins its training (R330). Stage 7 is taken up again as each of its skeins is dealt. -/
def execPowerOn (stage : Nat) (s : State) : Out :=
  let m := s.mgmt
  if stage = 1 then
    if s.power then .next s
    else
      let s := s.powerUp
      let m := s.mgmt.cause (2 ^ 8 * (~~~s.mgmt.alive).toNat + (if s.mgmt.bootCfg.getLsbD 9 then 128 else 0))
      let s : State := { s with bricks := (List.range 32).map fun b => (b, { Brick.reset with
        cxl := wr Brick.reset.cxl (0 : BitVec 2) { Cxl.reset with host := m.hostBit b },
        ports := Vector.replicate 6 { Nirber.reset with st := 1 } }) }
      .next { s with mgmt := match lowest m.alive with
        | some i => { m with leader := i }.bootDone 1
        | none => m }
  else if !s.power ∨ m.bootStep + 1 ≠ stage ∨ m.takeover then .next s
  else if stage = 2 then .next { s with mgmt := m.chooseMap.bootDone 2 }
  else if stage = 4 then (if (List.range 1072512).any m.floods then .next s else .next { s with mgmt := m.bootDone 4 })
  else if stage = 5 then .next { s with mgmt := m.compareReports.bootDone 5 }
  else if stage = 6 then .next { s with mgmt := m.placeGrid.bootDone 6 }
  else if stage = 7 then
    match s.bootDeal with
    | (s, true) => .next { s with mgmt := s.mgmt.bootDone 7 }
    | (s, false) => .next s
  else if stage = 8 then
    if (List.range 32).any fun b => (s.brick b).cxl.toList.any fun x => x.link == 1 then .next s
    else .next { s with mgmt := m.bootDone 8 }
  else if stage = 3 then .next { s with mgmt := m.bootDone stage }
  else .next s
/-- DISCOVERY_FLIT (R401, step 4): the flood reaches a router for the first time. -/
def execDiscoveryFlit (x y : Nat) (s : State) : Out :=
  let k := siteIx (x, y)
  if s.power ∧ s.mgmt.bootStep = 3 ∧ x < 1064 ∧ s.mgmt.floods k then
    .next { s with mgmt := { s.mgmt with discovered := s.mgmt.discovered ++ [k] } }
  else .next s
/-- CXL_LINK_TRAINING (R264): the link trains while step 8 runs. Of `kind`, bits 1:0 are 0 no link, 1 trained, 2 a device that
needs an unsupported feature, 3 training begun; bit 2 is x16, bit 3 64 GT/s, and the rest the capacity of the device. -/
def execCxlLinkTraining (b p kind : Nat) (s : State) : Out :=
  if !s.power ∨ s.mgmt.bootStep ≠ 7 ∨ 32 ≤ b ∨ 4 ≤ p then .next s
  else
    let up := kind % 4 = 1
    let x := rd (s.brick b).cxl (BitVec.ofNat 2 p)
    let link : BitVec 2 := if up then 2 else if kind % 4 = 3 then 1 else 0
    let lanes : BitVec 5 := if up then (if kind.testBit 2 then 16 else 8) else 0
    let y : Cxl := ⟨link, x.host, lanes, decide up && kind.testBit 3, kind % 4 == 2, if up ∧ !x.host then kind / 16 else 0⟩
    .next (s.modBrick b fun k => { k with cxl := wr k.cxl (BitVec.ofNat 2 p) y })
/-- POWER_REMOVAL (R391, R392): what flash and fuses hold stays. -/
def execPowerRemoval (s : State) : Out := .next { s.powerUp with power := false }

/-! ### Leadership (R19, R400) -/

/-- The claims on the ring: every standby that has missed three heartbeats in a row sends one. -/
def Mgmt.claims (m : Mgmt) : BitVec 4 :=
  BitVec.ofNat 4 (([0, 1, 2, 3].map fun i =>
    if m.alive.getLsbD i ∧ i ≠ m.leader.toNat ∧ 3 ≤ rd m.missed (BitVec.ofNat 2 i) then 2 ^ i else 0).sum)
/-- The dealer goes on from the last checkpoint (R400): what a record in step 5 or 6 of Table 1.3 has sent down its tree is sent again
from the start. A record whose checks have not been made meets them anew, and a freeze goes on, as State has them. -/
def State.restart (s : State) : State :=
  s.mgmt.parts.foldl (fun s p =>
    if p.st = .loading ∨ !s.classDone p then
      let s := s.dropFlits p
      let m := s.mgmt
      { s with mgmt := { m with cfgNet := m.cfgNet ++ (m.sent.filter fun x => x.2.record == p.recVa).map fun (r, x) => (r, x, 0) } }
    else s) s
/-- HEARTBEAT (R400): the leader's, or, when claims stand, the first under a new epoch of the lowest-numbered claimant, which takes
the time-base distribution and steers it onto its own reference (R337), from which it differs by a free value; the dealer goes on from
its checkpoint. -/
def execHeartbeat (s : State) : Out :=
  let m := s.mgmt
  if m.takeover then
    match lowest m.claims with
    | none => .next s
    | some i =>
      let m := { m with leader := i, epoch := m.epoch + 1, takeover := false, missed := Vector.replicate 4 0, slew := some (Config.freeWord s.free).toInt }
      .next ({ s with free := s.free + 1, mgmt := if m.bootStep < 8 then m.cause 64 else m } : State).restart
  else if m.bootStep = 0 then .next s
  else .next { s with mgmt := { m with missed := Vector.replicate 4 0 } }
/-- HEARTBEAT_MISS (R400): standby n misses a heartbeat; the third in a row begins a takeover. -/
def execHeartbeatMiss (n : Nat) (s : State) : Out :=
  let m := s.mgmt
  if 4 ≤ n ∨ n = m.leader.toNat ∨ !m.alive.getLsbD n ∨ m.bootStep = 0 then .next s
  else
    let k := rd m.missed (BitVec.ofNat 2 n) + 1
    .next { s with mgmt := { m with missed := wr m.missed (BitVec.ofNat 2 n) k, takeover := m.takeover || decide (3 ≤ k) } }

/-! ### Transient errors (R404) -/

/-- An entry enters the ERRLOG ring while it has room. -/
def State.logError (s : State) (w : Nat) : State :=
  let q := s.mgmt.errlog
  if q.full then s
  else
    let s := s.sysWriteWords (q.slot 16) (toBytes 8 w ++ toBytes 8 s.time)
    { s with mgmt := { s.mgmt with errlog := q.push } }
/-- One hour of the time base. -/
def hour : Nat := 3600000000000
/-- A transient error of a kind at a site, or at a brick for a poisoned read (kind 2): logged and counted. The second value is
true when the site's count passes 64 within one hour. -/
def State.transient (s : State) (site kind : Nat) : State × Bool :=
  let s := s.logError (site % 2 ^ 21 + 2 ^ 21 * kind)
  if kind = 2 then (s, false)
  else
    let old := s.mgmt.transients.filter fun e => decide (s.time < e.2 + hour)
    let s : State := { s with mgmt := { s.mgmt with transients := old ++ [(site, s.time)] } }
    if 64 < (s.mgmt.transients.filter fun e => e.1 == site).length then
      (({ s with mgmt := { s.mgmt with transients := old.filter fun e => e.1 != site } } : State).logError (site % 2 ^ 21 + 2 ^ 21 * 5 + 2 ^ 25), true)
    else (s, false)

/-! ### Lasting failures and remapping (R391, R405, R406) -/

/-- A failure is marked in the map of record, which goes to copy A and, once that verifies, to copy B (R391). -/
def Mgmt.record (m : Mgmt) (k kind now : Nat) : Mgmt :=
  let c := (m.recMap.mark k kind).stamp 1 m.serial now
  { m with recMap := c, copyA := c, copyB := if c.verifies m.serial then c else m.copyB }
/-- The physical rows of the grid. -/
def Mgmt.usedRows (m : Mgmt) : List Nat := (List.range m.gridR).map (nthFree m.badRows)
/-- A hop of a placement has no path in another. -/
def Mgmt.losesHop (m x : Mgmt) : Bool :=
  m.gridCores.any fun l => [0, 1, 2, 3].any fun d =>
    (m.hop (m.site l) (m.site (m.torus l d).1)).isSome && (x.hop (x.site l) (x.site (x.torus l d).1)).isNone
/-- The grid placed again with a failure marked (R405, steps 3 and 4), with the hub blocks of the moved cores' clusters and the sites
that they now hold; none where its row has no spare for a core, or a hop or a binding breaks. -/
def Mgmt.replace (m : Mgmt) (k kind : Nat) : Option Mgmt :=
  let moved := if kind ≤ 1 then (match m.coreAtSite k with | some l => l :: m.movedBy k | none => []) else []
  let x := { m with map := m.map.mark k kind }
  let x := { x with hubBlocks := x.rebind ((moved.map hubOf).eraseDups), remapped := x.remapped ++ moved.map fun l => siteIx (x.site l) }
  if x.usedRows == m.usedRows && !m.losesHop x && x.hubsHold then some x else none
/-- A failure without a placement is marked all the same; a dead site's core stays where it was. -/
def Mgmt.unplaceable (m : Mgmt) (k kind : Nat) : Mgmt :=
  { m with map := m.map.mark k kind, stuck := if kind ≤ 1 ∧ (m.coreAtSite k).isSome then m.stuck ++ [k] else m.stuck }
/-- The partitions that a failure strikes and that still run begin to freeze for the remap. -/
def State.strike (s : State) (k kind : Nat) : State :=
  ((s.mgmt.struck k kind).filter fun p => p.st == .running && p.succOf == none).foldl (fun s p =>
    (s.startFreeze p).modPart p.recVa fun q => { q with remap := true }) s
/-- The failures are handled one at a time in the order of their detection (R406): once every partition that the first one strikes is
frozen, it is marked and the grid placed again, or without a placement those partitions stay frozen and an alert is posted. The next
one is begun when the dealer has resumed what no further failure strikes. The number bounds the failures handled. -/
def State.applyFailures : Nat → State → State
  | 0, s => s
  | n + 1, s =>
    match s.mgmt.failures with
    | [] => s
    | (k, kind) :: t =>
      let ps := s.mgmt.struck k kind
      if s.mgmt.parts.any s.mgmt.remapDone then s
      else if !(ps.all fun p => p.st == .frozen || p.st == .spliceWait) then s.strike k kind
      else
        let m := { s.mgmt.record k kind s.time with failures := t }
        State.applyFailures n (match m.replace k kind with
          | some m => { s with mgmt := m }
          | none => (ps.foldl (fun s p => s.modPart p.recVa fun q => { q with remap := false }) ({ s with mgmt := m.unplaceable k kind } : State)).alert alertLasting)
/-- The pending failures are taken up. -/
def State.remap (s : State) : State := State.applyFailures s.mgmt.failures.length s
/-- A lasting failure is detected (R405, R406): it is handled after those detected before it. One that is pending or marked already
is taken up again. -/
def State.lasting (s : State) (k kind : Nat) : State :=
  if 1072512 ≤ k ∨ 4 ≤ kind ∨ s.mgmt.map.marked k kind ∨ s.mgmt.failures.contains (k, kind) then s.remap
  else ({ s with mgmt := { s.mgmt with failures := s.mgmt.failures ++ [(k, kind)] } } : State).remap
/-- LASTING_FAILURE (R405, R406): site, and what failed of it. -/
def execLastingFailure (site kind : Nat) (s : State) : Out := .next (if s.mgmt.bootStep < 6 then s else s.lasting site kind)
/-- TRANSIENT_ERROR (R404): the operation has succeeded on its one retry. -/
def execTransientError (site kind : Nat) (s : State) : Out :=
  if 5 ≤ kind ∨ !s.power then .next s
  else
    let s : State := { s with mgmt := { s.mgmt with recovered := s.mgmt.recovered.erase (site, kind) } }
    let r := s.transient site kind
    .next (if r.2 then r.1.lasting site 0 else r.1)
/-- CONTROL_REPLY_TIMEOUT (R404): a reply has not come within 64 hub cycles, and the request is sent once more; a second miss is a
lasting failure. -/
def execControlReplyTimeout (c : Nat) (s : State) : Out :=
  if s.hubReqs.any fun r => r.core == c then
    if s.mgmt.resent.contains c then
      .next (({ s with mgmt := { s.mgmt with resent := s.mgmt.resent.erase c } } : State).lasting (siteIx (s.mgmt.site c)) 0)
    else .next { s with mgmt := { s.mgmt with resent := s.mgmt.resent ++ [c] } }
  else .next s

/-- FREEZE_COMPLETE (R372, step 6): every hub has saved; the record is frozen and its rectangle free, unless a remap keeps it. -/
def execFreezeComplete (part : Nat) (s : State) : Out :=
  match s.mgmt.parts.find? fun p => p.part == part && (p.st == .freezing || p.st == .saving) with
  | none => .next s
  | some p =>
    if !(p.hubs.all fun h => (s.hub h).saved) then .next s
    else
      let s := s.endRecord p 6 0 p.accepted 0 0
      let s := p.hubs.foldl (fun s h => s.modHub h fun u => { u with frozen := false, saved := false }) s
      if p.remap then .next ((s.modPart p.recVa fun q => { q with st := .frozen }).regrants p).remap
      else .next ((s.dropPart p.recVa).regrants p).remap

end Sys2Proof.Machine
end

