-- ==== Sys2Proof/Machine/Fp.lean ====
section
/-! DEFINITION. Scalar floating point: majors 0x10 and 0x11 (05 R113–R116). -/

namespace Sys2Proof.Machine

/-- A scalar FP result with the flags it raises when its latency elapses (R115). -/
def State.fpResult (s : State) (d : BitVec 4) (v : Word) (fl : FFlags) (lat : Nat) : Out :=
  .next ((s.setG d v lat).flagged lat fl.astat true).advance
/-- The flags of an FP operation on given operands: a signalling NaN sets IV (R114), and so does an operation that makes a
NaN from operands that are not NaN (R113). -/
def fpIV (ws : List Word) (invalid : Bool) : FFlags := if invalid || ws.any isSnan then fIV else 0
/-- The rounded result with IV and DZ joined to the encoder's flags. -/
def State.fpRound (s : State) (d : BitVec 4) (v : Val) (m : BitVec 3) (fl : FFlags) (lat : Nat) : Out :=
  let r := encFp32F v (Mode.ofCode m) 0
  s.fpResult d r.1 (r.2 ||| fl) lat
/-- A NaN result that no NaN operand explains. -/
def madeNan (v : Val) (ops : List Val) : Bool := v.isNan && !ops.any Val.isNan

/-- FADD (R113). -/
def execFadd (d a b : BitVec 4) (m : BitVec 3) (s : State) : Out :=
  let x := decFp32 (s.g a); let y := decFp32 (s.g b); let v := x.add y (Mode.ofCode m)
  s.fpRound d v m (fpIV [s.g a, s.g b] (madeNan v [x, y])) 4
/-- FSUB (R113). -/
def execFsub (d a b : BitVec 4) (m : BitVec 3) (s : State) : Out :=
  let x := decFp32 (s.g a); let y := decFp32 (s.g b); let v := x.add y.neg (Mode.ofCode m)
  s.fpRound d v m (fpIV [s.g a, s.g b] (madeNan v [x, y])) 4
/-- FMUL (R113). -/
def execFmul (d a b : BitVec 4) (m : BitVec 3) (s : State) : Out :=
  let x := decFp32 (s.g a); let y := decFp32 (s.g b); let v := x.mul y
  s.fpRound d v m (fpIV [s.g a, s.g b] (madeNan v [x, y])) 4
/-- FMA (R113): one rounding; 0 × ∞ in the product sets IV whatever the addend. -/
def execFma (d a b : BitVec 4) (m : BitVec 3) (s : State) : Out :=
  let x := decFp32 (s.g a); let y := decFp32 (s.g b); let z := decFp32 (s.g d)
  let p := x.mul y
  let v := p.add z (Mode.ofCode m)
  s.fpRound d v m (fpIV [s.g a, s.g b, s.g d] (madeNan p [x, y] || madeNan v [x, y, z])) 4
/-- FMIN (R113). -/
def execFmin (d a b : BitVec 4) (s : State) : Out :=
  s.fpResult d (encFp32 ((decFp32 (s.g a)).min (decFp32 (s.g b))) .rne 0) (fpIV [s.g a, s.g b] false) 2
/-- FMAX (R113). -/
def execFmax (d a b : BitVec 4) (s : State) : Out :=
  s.fpResult d (encFp32 ((decFp32 (s.g a)).max (decFp32 (s.g b))) .rne 0) (fpIV [s.g a, s.g b] false) 2
/-- FABS (R113). -/
def execFabs (d a : BitVec 4) (s : State) : Out := s.fpResult d (s.g a &&& 0x7FFFFFFF) 0 2
/-- FNEG (R113). -/
def execFneg (d a : BitVec 4) (s : State) : Out := s.fpResult d (s.g a ^^^ 0x80000000) 0 2

/-- The predicates of FCMP (R114). -/
def fcmpHolds (p : BitVec 3) (x y : Val) : Bool :=
  let un := x.isNan || y.isNan
  if p = 0 then x.eq y
  else if p = 1 then x.lt y
  else if p = 2 then !un && !y.lt x
  else if p = 3 then un
  else un || !x.eq y
/-- FCMP (R114). -/
def execFcmp (d a b : BitVec 4) (p : BitVec 3) (s : State) : Out :=
  let x := decFp32 (s.g a); let y := decFp32 (s.g b)
  s.fpResult d (if fcmpHolds p x y then 1 else 0)
    (fpIV [s.g a, s.g b] ((p == 1 || p == 2) && (x.isNan || y.isNan))) 2

/-- The divide and square-root unit is taken (Table 5.5). -/
def State.useFdiv (s : State) (n : Nat) : State := s.modMe fun c => { c with units := { c.units with fdiv := c.cc + n } }
/-- FDIV (R113). -/
def execFdiv (d a b : BitVec 4) (m : BitVec 3) (s : State) : Out :=
  let x := decFp32 (s.g a); let y := decFp32 (s.g b); let v := x.div y
  let dz := y.isZero && !x.isZero && !x.isNan && !x.isInf
  (s.useFdiv 11).fpRound d v m (fpIV [s.g a, s.g b] (madeNan v [x, y]) ||| (if dz then fDZ else 0)) 14
/-- FSQRT (R113). -/
def execFsqrt (d a : BitVec 4) (m : BitVec 3) (s : State) : Out :=
  let x := decFp32 (s.g a); let v := x.sqrt
  (s.useFdiv 13).fpRound d v m (fpIV [s.g a] (madeNan v [x])) 16

/-- The source value of FCVT (R116): BF16 3, FP32 4, INT8 5, INT32 6. -/
def fcvtValue (f : BitVec 3) (w : Word) : Val :=
  if f = 3 then decBf16 (w.truncate 16) else if f = 4 then decFp32 w
  else if f = 5 then Val.ofInt (sext w.toNat 8) else Val.ofInt w.toInt
/-- The source is a signalling NaN. -/
def fcvtSnan (f : BitVec 3) (w : Word) : Bool :=
  if f = 3 then isSnan ((w.truncate 16 : BitVec 16) ++ 0#16) else f == 4 && isSnan w
/-- The destination word of FCVT with the encoder's flags (R116). -/
def fcvtEncode (f : BitVec 3) (v : Val) (m : Mode) : Word × FFlags :=
  if f = 3 then ((encBf16F v m 0).1.zeroExtend 32, (encBf16F v m 0).2)
  else if f = 4 then encFp32F v m 0
  else if f = 5 then (BitVec.ofInt 32 (encIntF v m 0 8).1, (encIntF v m 0 8).2)
  else (BitVec.ofInt 32 (encIntF v m 0 32).1, (encIntF v m 0 32).2)
/-- FCVT (R116). -/
def execFcvt (d a : BitVec 4) (sx t m : BitVec 3) (s : State) : Out :=
  let r := fcvtEncode t (fcvtValue sx (s.g a)) (Mode.ofCode m)
  s.fpResult d r.1 (r.2 ||| (if fcvtSnan sx (s.g a) then fIV else 0)) 3

end Sys2Proof.Machine
end

