-- ==== Sys2Proof/Machine/Router.lean ====
section
/-! DEFINITION. Routers, credits, trigger actions and tricks (07 R161–R195), one flit at a time. -/

namespace Sys2Proof.Machine

/-! ### Inputs, outputs and credits (R161, R167, R168) -/

/-- The oldest flit of a channel at an input port. -/
def Core.flitAt (c : Core) (p : Nat) (ch : BitVec 6) : Option InFlit := c.inputs.find? fun x => x.port == p && x.flit.chan == ch
/-- Removes the oldest flit of a channel at an input port. -/
def dropInput (p : Nat) (ch : BitVec 6) : List InFlit → List InFlit
  | [] => []
  | x :: t => if x.port = p ∧ x.flit.chan = ch then t else x :: dropInput p ch t
/-- The flit at place n of an input's channel comes under a channel entry. -/
def reEntry (p : Nat) (ch : BitVec 6) (v : BitVec 16) : Nat → List InFlit → List InFlit
  | _, [] => []
  | n, x :: t =>
    if x.port = p ∧ x.flit.chan = ch then (match n with | 0 => { x with entry := v } :: t | n + 1 => x :: reEntry p ch v n t)
    else x :: reEntry p ch v n t
/-- A flit leaves its input, and its place is owed to the sender, unless it stood in the freeze buffer (R168, R372). The flit that
takes the fourth place behind it comes from a router on the way (R169), and reaches this one only now (R170). -/
def Core.takeFlit (c : Core) (p : Nat) (ch : BitVec 6) : Core :=
  let paid := match c.flitAt p ch with | some x => x.paid | none => false
  { (if paid then c else c.owe p ch 1) with inputs := reEntry p ch (c.route ch) 3 (dropInput p ch c.inputs) }
/-- The message of a head flit, without its payload. -/
def Flit.headMsg (f : Flit) : Msg := ⟨f.data, []⟩
/-- A renorm message: kind 2 (R163). -/
def Msg.isRenorm (m : Msg) : Bool := m.kind == 2
/-- R163: a head that no router accepts. -/
def Msg.malformed (m : Msg) : Bool := decide (3 ≤ m.kind.toNat) || decide (m.hdr.toNat / 2 ^ 37 ≠ 0)
/-- Lowers a count. -/
def subCount (k : Nat × Nat) (n : Nat) : List ((Nat × Nat) × Nat) → List ((Nat × Nat) × Nat)
  | [] => []
  | (j, m) :: t => if j = k then (if m ≤ n then t else (j, m - n) :: t) else (j, m) :: subCount k n t
/-- A flit reaches the core over its local port: a head begins a message, a payload flit joins the latest of its channel. -/
def arriveLocal (now : Nat) (f : Flit) (l : List LocalMsg) : List LocalMsg :=
  if f.type = 1 then l ++ [⟨f.headMsg, 0, 0, true, now, .fresh⟩]
  else
    (changeLocal f.chan (fun x =>
      some { x with msg := { x.msg with flits := x.msg.flits ++ [(f.data, f.side)] }, came := x.came + 1,
                    word0 := if x.came = 0 then f.data.truncate 32 else x.word0 }) l.reverse).reverse
/-- A flit leaves output `out` of router l: to the input of the neighbour, under the entry that stands there, or to the core. -/
def State.deliver (s : State) (l out : Nat) (f : Flit) : State :=
  if out = 4 then
    s.modCore l fun c => { (c.spend 4 f.chan) with locals := arriveLocal s.time f c.locals }
  else match s.neighbour l out with
    | some n => (s.modCore l fun c => c.spend out f.chan).modCore n fun c =>
        { c with inputs := c.inputs ++ [⟨opposite out, f, c.route f.chan, false⟩] }
    | none => s

/-- A message's payload is discarded as it arrives (R163, R167). -/
def Core.startWay (c : Core) (p : Nat) (m : Msg) (outs : List Nat) : Core :=
  if m.len = 0 then c else { c with ways := c.ways ++ [⟨m.chan, p, outs, m.len⟩] }
/-- A message is discarded at its input with a report to the hub; while the report buffer is full it stays (R361). -/
def State.discardInput (s : State) (l p : Nat) (m : Msg) (f : Trap) : State :=
  if (s.core l).canReport then (s.modCore l fun c => (c.takeFlit p m.chan).startWay p m []).report l f else s

/-- The message under way from an input on a channel. -/
def Core.wayAt (c : Core) (p : Nat) (ch : BitVec 6) : Option Way := c.ways.find? fun w => w.port == p && w.ch == ch
/-- A payload flit of a message under way has passed. -/
def Core.passWay (c : Core) (w : Way) : Core :=
  { c with ways := c.ways.filterMap fun x => if x = w then (if w.left = 1 then none else some { w with left := w.left - 1 }) else some x }
/-- A head stands at an input on a channel. -/
def Core.hasHead (c : Core) (p : Nat) (ch : BitVec 6) : Bool :=
  match c.flitAt p ch with | some x => x.flit.type == 1 && (c.wayAt p ch).isNone | none => false
/-- The ports in the order of a channel's scan: from the port after its last winner (R167), or from N before there has been one (DESIGN
CHOICE, log entry 48). -/
def scanFrom (last : Option Nat) : List Nat :=
  match last with
  | some w => (List.range 5).map fun i => (w + 1 + i) % 5
  | none => [0, 1, 2, 3, 4]
/-- The input at whose head the scan of a channel stops, and stays until that head is granted (R167). -/
def Core.granted (c : Core) (ch : BitVec 6) : Option Nat :=
  match (c.picks.find? fun x => x.1 == ch).map (·.2) with
  | some p => if c.hasHead p ch then some p else
    (scanFrom ((c.lastWin.find? fun x => x.1 == ch).map (·.2))).find? fun p => c.hasHead p ch
  | none => (scanFrom ((c.lastWin.find? fun x => x.1 == ch).map (·.2))).find? fun p => c.hasHead p ch
/-- Records a port for a channel. -/
def setWin (ch : BitVec 6) (p : Nat) (l : List (BitVec 6 × Nat)) : List (BitVec 6 × Nat) := (ch, p) :: l.filter fun x => x.1 != ch
/-- The unit whose control channel is ch (R208). -/
def Core.unitOfCtl (c : Core) (ch : BitVec 6) : Option (BitVec 3) :=
  slots.find? fun u => (rd c.tricks u).bound.isSome && (rd c.tricks u).ctl == ch
/-- A flit of an input leaves on every output of a set at once (R167). -/
def State.passFlit (s : State) (l p : Nat) (f : Flit) (outs : List Nat) : State :=
  outs.foldl (fun s o => s.deliver l o f) (s.modCore l fun c => c.takeFlit p f.chan)

/-- A head at input p of router l (R163, R167, R172, R185): routed as a whole, discarded, or left to its trick unit. -/
def State.routeHead (s : State) (l p : Nat) (i : InFlit) : State :=
  let x := s.core l
  let m := i.flit.headMsg
  let k := m.chan
  let v := i.entry
  if m.malformed then s.discardInput l p m (chErr 9 k 0)
  else if m.isRenorm then
    (if (x.unitOfCtl k).isSome then s else s.discardInput l p m (chErr 5 k 0))
  else if !(routeValid v && routeIn v p) then s.discardInput l p m (chErr 1 k 0)
  else if routeRed v then
    (if (x.unitOf k).isSome then s else s.discardInput l p m (chErr 5 k 0))
  else
    let outs := (outPorts v).filter fun o => o != p && (o == 4 || (s.neighbour l o).isSome)
    if x.granted k ≠ some p then s
    else if outs.all (fun o => s.credit l o k.toNat && x.ways.all fun w => w.ch != k || !w.outs.contains o) then
      (s.passFlit l p i.flit outs).modCore l fun x =>
        ({ x with lastWin := setWin k p x.lastWin, picks := x.picks.filter fun e => e.1 != k }).startWay p m outs
    else s.modCore l fun x => { x with picks := setWin k p x.picks }
/-- The next flit of the first message that a trick unit sends on a channel, behind what the unit sends before it on the same
output (R190). -/
def nextEmit (ch : BitVec 6) (before : List Emit) : List Emit → Option (List Emit × Emit × List Emit)
  | [] => none
  | e :: rest =>
    if e.msg.chan = ch ∧ before.all fun b => b.key != e.key || b.out != e.out then some (before, e, rest)
    else nextEmit ch (before ++ [e]) rest
/-- A trick unit's message passes a flit when its output has a credit. -/
def State.emitFlit (s : State) (l : Nat) (ch : BitVec 6) : State :=
  let x := s.core l
  match nextEmit ch [] x.emits with
  | none => s
  | some (a, e, b) =>
    if s.credit l e.out ch.toNat then
      (s.modCore l fun x => { x with emits := a ++ (if e.sent = e.msg.len then [] else [{ e with sent := e.sent + 1 }]) ++ b }).deliver
        l e.out (e.msg.flit e.sent)
    else s

/-- HEAD_FLIT_ARRIVAL (R163, R167, R168, R172, R185): the oldest flit of channel ch at input p moves on: a head is routed, and
what follows takes its way. Input 5 holds what the router's trick units send. A frozen router keeps what arrives in its freeze
buffer (R372). -/
def execHeadFlitArrival (c p ch : Nat) (s : State) : Out :=
  let k : BitVec 6 := BitVec.ofNat 6 ch
  let x := s.core c
  if p = 5 then .next (if x.frozen then s else s.emitFlit c k)
  else match x.flitAt p k with
    | none => .next s
    | some i =>
      if x.frozen then .next (s.modCore c fun x => { (x.takeFlit p k) with freezeBuf := x.freezeBuf ++ [(p, i.flit)] })
      else match x.wayAt p k with
        | some w =>
          if w.outs.all (fun o => s.credit c o k.toNat) then .next ((s.passFlit c p i.flit w.outs).modCore c fun x => x.passWay w) else .next s
        | none => .next (if i.flit.type = 1 then s.routeHead c p i else s)

/-- The credits of one idle flit, each channel's and class's at most 3: channel n in data bits 2n + 1:2n, and the edge request,
edge reply and configuration classes, numbered 64 to 66, in side-band bits 5:0 (R161). -/
def idleFlit (owed : Nat → Nat) : Flit :=
  ⟨0, BitVec.ofNat 128 (((List.range 64).map fun c => Nat.min 3 (owed c) * 4 ^ c).foldl (· + ·) 0),
   BitVec.ofNat 32 (((List.range 3).map fun c => Nat.min 3 (owed (64 + c)) * 4 ^ c).foldl (· + ·) 0)⟩
/-- The credits that an idle flit returns for a channel or class. -/
def Flit.credits (f : Flit) (c : Nat) : Nat := if c < 64 then f.data.toNat / 4 ^ c % 4 else f.side.toNat / 4 ^ (c - 64) % 4
/-- An idle flit arrives from the other end of link `link`: its credits can be used again. -/
def Core.takeIdle (c : Core) (link : Nat) (f : Flit) : Core :=
  { c with used := (c.used.filter fun e => e.1.1 == link).foldl (fun u e => subCount e.1 (f.credits e.1.2) u) c.used }
/-- IDLE_FLIT (R161): an idle flit on link p carries back the credits held for it: links 0 to 3 to the neighbours, 4 to the core,
5 from the core to the router's local output. -/
def execIdleFlit (c p : Nat) (s : State) : Out :=
  let x := s.core c
  let f := idleFlit fun n => countOf (p, n) x.owed
  let s1 := s.modCore c fun x =>
    { x with owed := (x.owed.filter fun e => e.1.1 == p).foldl (fun u e => subCount e.1 (f.credits e.1.2) u) x.owed }
  if p < 4 then .next (s1.modCore (s.mgmt.torus c p).1 fun y => y.takeIdle (opposite p) f)
  else if p = 4 then .next (s1.modCore c fun y => y.takeIdle 5 f)
  else if p = 5 then .next (s1.modCore c fun y => y.takeIdle 4 f)
  else .next s

/-! ### Trigger actions (R175–R180) -/

/-- The handling of a channel's oldest message ends in the taking of it: it leaves the local port (R168), and a message-wait
sample is taken (R346). -/
def State.taken (s : State) (l : Nat) (m : LocalMsg) : State :=
  (s.modCore l fun c => c.takeLocal m.msg.chan).sample l 1 m.msg.chan (s.time - m.arrived)
/-- The message is discarded with a report, or stays while the report buffer is full. -/
def State.discardLocal (s : State) (l : Nat) (m : LocalMsg) (f : Trap) : State :=
  if (s.core l).canReport then (s.taken l m).report l f else s
/-- The payload's data bytes: 16 × LEN − 8 × HALF (R164). -/
def Msg.size (m : Msg) : Nat := 16 * m.len - if m.half then 8 else 0
/-- The data and side bytes that payload flit i of a message brings (Table 7.2). -/
def Msg.flitBytes (m : Msg) (i : Nat) (f : BitVec 128 × BitVec 32) : List Byte × List Byte :=
  let n := if m.half ∧ i + 1 = m.len then 8 else 16
  ((toBytes 16 f.1.toNat).take n,
   if m.fmt = 1 then toBytes 2 f.2.toNat else if m.fmt = 2 then (toBytes 4 f.2.toNat).take (n / 4)
   else if m.fmt = 0 ∧ i % 2 = 0 then toBytes 2 f.2.toNat else [])
/-- A deposit of a message into bobbin n begins (R143, R144, R176, R180): refused, held, sealing the bobbin, or begun; a spawn of
strand entry `ent` follows it (R177). A message of kind trigger on a deposit entry marks the end of a stream. Of two refusals that
apply, an undeclared bobbin is reported before a format mismatch (DESIGN CHOICE, log entry 48). -/
def State.startDeposit (s : State) (l : Nat) (m : LocalMsg) (n : BitVec 5) (ent : Option (BitVec 4)) : State :=
  let c := s.core l
  let b := c.bobbin n
  let size := m.msg.size
  let open_ := b.st == .empty || b.st == .filling
  if !b.valid then s.discardLocal l m (c.bobTrap n 7)
  else if ent.isNone && m.msg.kind == 1 then
    (if open_ then (s.modCore l fun c => c.setBobSt n { b with fill := if b.st == .empty then 0 else b.fill } .full).taken l m else s)
  else if (isB m.msg.fmt || isB b.fmt) && m.msg.fmt != b.fmt then s.discardLocal l m (chErr 8 m.msg.chan 0)
  else if b.size.toNat < size then s.discardLocal l m (c.bobTrap n 9)
  else if !open_ then s
  else if b.size.toNat - b.fill.toNat < size then s.modCore l fun c => c.setBobSt n b .full
  else s.modCore l fun c => c.setLoc m.msg.chan (.deposit n ent)
/-- A message whose deposit has not begun is examined anew: its bobbin may have changed since (R143, R207). -/
def Core.reopen (c : Core) (ch : BitVec 6) : Core :=
  match c.localAt ch with
  | none => c
  | some l => match l.st with
    | .deposit _ _ =>
      if l.msg.flits.length = l.came then { c with locals := changeLocal ch (fun l => some { l with st := .fresh }) c.locals } else c
    | _ => c
/-- One payload flit of a channel's oldest message is written into its bobbin (R176). -/
def Core.depositFlit (c : Core) (n : BitVec 5) (ch : BitVec 6) : Core :=
  match c.localAt ch with
  | none => c
  | some l => match l.msg.flits with
    | [] => c
    | f :: rest =>
      let x := l.msg.flitBytes (l.came - l.msg.flits.length) f
      let c := (c.deposit n x.1 x.2 l.msg.swz).owe 5 ch 1
      { c with locals := changeLocal ch (fun l => some { l with msg := { l.msg with flits := rest } }) c.locals }
/-- The deposit of a message has ended (R143, R177): the bobbin becomes full if EOM = 1, and the message is taken, or asks for its
spawn. -/
def State.endDeposit (s : State) (l : Nat) (m : LocalMsg) (n : BitVec 5) (ent : Option (BitVec 4)) : State :=
  let s := s.modCore l fun c =>
    let c := if m.msg.len = 0 then c.openBob n m.msg.swz else c
    if (c.bobbin n).eom then c.setBobSt n (c.bobbin n) .full else c
  match ent with
  | none => s.taken l m
  | some e => s.modCore l fun c => c.setLoc m.msg.chan (.queue e c.cc)
/-- The oldest flit of a message that waits in the port's buffer is deposited, once the deposit port has written what came before it
(R137); behind the last one the deposit ends. -/
def State.depositMsg (s : State) (l : Nat) (m : LocalMsg) (n : BitVec 5) (ent : Option (BitVec 4)) : State :=
  if m.msg.flits ≠ [] ∧ (s.core l).depQ ≠ [] then s
  else
    let s := s.modCore l fun c => c.depositFlit n m.msg.chan
    if m.whole ∧ m.msg.flits.length ≤ 1 then s.endDeposit l m n ent else s

/-- TRIGGER_ACTION (R175–R180): the oldest message of a channel at the core's local port is handled by the trigger entry, as far
as its flits have arrived. -/
def execTriggerAction (c ch : Nat) (s : State) : Out :=
  let k : BitVec 6 := BitVec.ofNat 6 ch
  let begin := fun (s : State) =>
    let s := s.modCore c fun x => x.reopen k
    let x := s.core c
    match x.localAt k with
    | none => s
    | some m =>
      let act := x.trigAct k
      if m.st ≠ .fresh then s
      else if act = 0 then s.discardLocal c m (mkTrap cNOTRIG (k.toNat * 256))
      else if act = 1 then s.startDeposit c m (x.trigBob k) none
      else if act = 2 then
        if (x.entry (x.trigEnt k)).isNone then s.discardLocal c m (mkTrap cNOENT (x.trigEnt k).toNat)
        else if x.trigBv k then s.startDeposit c m (x.trigBob k) (some (x.trigEnt k))
        else if m.came = 0 ∧ m.msg.len ≠ 0 then s
        else s.modCore c fun x => x.setLoc k (.queue (x.trigEnt k) x.cc)
      else s.modCore c fun x => x.standNext k
  let goOn := fun (s : State) =>
    match (s.core c).localAt k with
    | none => s
    | some m => match m.st with
      | .deposit n e => s.depositMsg c m n e
      | .drop => s.modCore c fun x => (x.dropLocal k).standNext k
      | _ => s
  if (s.core c).frozen then .next s
  else
    let t := goOn (goOn (begin s))
    .next ((t.sampleStood c (s.core c) (t.core c)).wakeCore c)

/-! ### The spawn queue (R85, R104) -/

/-- A request that waits to enter the spawn queue: the core cycle in which it was made, its place among those of one cycle, 0 for a
SPAWN, else the channel + 1, and the slot of the SPAWN. -/
structure SpawnAsk where
  cycle : Nat
  rank : Nat
  slot : BitVec 3
  deriving DecidableEq, Repr
/-- The requests that wait to enter the spawn queue; on a frozen core those of SPAWNs alone (R372). -/
def Core.spawnAsks (c : Core) : List SpawnAsk :=
  (slots.filterMap fun k => match (c.strand k).wait with
    | .spawnRoom _ _ _ => if (c.strand k).frozen then none else some ⟨(c.strand k).stamp, 0, k⟩
    | _ => none)
    ++ (if c.frozen then [] else c.locals.filterMap fun m => match m.st with | .queue _ n => some ⟨n, m.msg.chan.toNat + 1, 0⟩ | _ => none)
/-- The first of the waiting requests enters the spawn queue, if it has room (R85): a SPAWN's strand then waits for its grant; a
message's request has its word 0, and the message is taken (R177). -/
def State.enterSpawn (s : State) (l : Nat) : State :=
  let c := s.core l
  if 16 ≤ c.spawnQ.length then s
  else match leastBy (fun a => a.cycle * 65 + a.rank) c.spawnAsks with
    | none => s
    | some a =>
      if a.rank = 0 then s.modCore l fun c => match (c.strand a.slot).wait with
        | .spawnRoom d e arg =>
          { c.modStrand a.slot fun t => { t with wait := .spawnGrant d } with
              spawnQ := c.spawnQ ++ [⟨e, arg, 64 + a.slot.zeroExtend 32, some (a.slot, d)⟩] }
        | _ => c
      else
        let ch : BitVec 6 := BitVec.ofNat 6 (a.rank - 1)
        match c.localAt ch with
        | some m => match m.st with
          | .queue e _ => (s.modCore l fun x => { x with spawnQ := x.spawnQ ++ [⟨e, m.word0, BitVec.ofNat 32 ch.toNat, none⟩] }).taken l m
          | _ => s
        | none => s
/-- The waiting requests enter the spawn queue as far as it has room. -/
def State.enterSpawns (s : State) (l : Nat) : State := (List.range 16).foldl (fun s _ => s.enterSpawn l) s
/-- SPAWN_GRANT (R85): the requests made in this core cycle enter the queue, its head is granted when it can be, and the place
that frees is taken. -/
def execSpawnGrant (c : Nat) (s : State) : Out := .next (((s.enterSpawns c).modCore c Core.spawnGrant).enterSpawns c)
/-- The spawn queue is considered in this core cycle: on a frozen core only for a SPAWN in an indivisible clause (R38, R372). -/
def Core.considersSpawns (c : Core) : Bool :=
  (c.spawnQ != [] || c.spawnAsks != []) &&
    (!c.frozen || slots.any fun k => (c.strand k).indivisible &&
      match (c.strand k).wait with | .spawnRoom _ _ _ => true | .spawnGrant _ => true | _ => false)

/-! ### Tricks (R185–R192) -/

/-- One slot of a contribution: its exponent, a child's RF, and its 16 lane values before alignment. -/
structure Slot where
  e : Nat
  rf : Bool
  wide : Bool
  x : List Val
  w : List (Option Int)
  deriving DecidableEq, Repr

/-- The slots of a contribution: blocks of B8 or B4, or W16 slots of two flits (R188, Table 7.2). -/
def Msg.slots (m : Msg) : List Slot :=
  let bs := m.bytes
  if m.fmt = 7 then
    (List.range (m.len / 2)).map fun k =>
      let sd := ((m.flits.getD (2 * k) (0, 0)).2).toNat
      let w := (List.range 16).map fun j =>
        let v := sext (ofBytes ((bs.drop (32 * k + 2 * j)).take 2)) 16
        if v = -32768 then none else some v
      ⟨sd % 256, sd.testBit 8, true, w.map fun v => w16Value (v.getD (-32768)) (sd % 256), w⟩
  else
    let n := 2 * mw m.fmt
    (List.range (bs.length / n)).map fun k =>
      let side : BitVec 16 := BitVec.ofNat 16 (ofBytes ((m.side.drop (2 * k)).take 2))
      ⟨side.toNat % 256, false, false, rowVals m.fmt (rowFields m.fmt 16 ((bs.drop (n * k)).take n)) side, []⟩

/-- SATURATE_SLOT's map of a lane value (R191): none for NaN. -/
def satLane (v : Val) : Option Int :=
  match v with
  | .nan => none
  | .inf n => some (if n then -32767 else 32767)
  | .fin q _ => if q.num = 0 then none else some (if q.num < 0 then -32767 else 32767)
/-- The value of a lane at its slot's exponent; a lane of a saturated slot that nothing reached yet is a zero. -/
def laneVal (p : Nat) (a : Option Int) : Val :=
  match a with
  | none => .nan
  | some v => if p = 255 then (if v = 0 then Val.ofInt 0 else .inf (decide (v < 0))) else .fin ((Q.ofInt v).scale ((p : Int) - 134)) false
/-- Halves the lanes until none exceeds the range, which takes at most so many halvings (R189). -/
def renorm : Nat → List (Option Int) → Nat → List (Option Int) × Nat
  | 0, t, p => (t, p)
  | n + 1, t, p =>
    if t.any fun v => match v with | some x => decide (32767 < x.natAbs) | none => false then
      renorm n (t.map fun v => v.map fun x => round ⟨x, 2⟩ .rne 0) (p + 1)
    else (t, p)
/-- Halvings that bring every lane into the range: a halving takes one bit off a lane of more than 15. -/
def halvings (t : List (Option Int)) : Nat := t.foldl (fun n v => match v with | some x => Nat.max n (x.natAbs.log2 + 1) | none => n) 0
/-- Sets a bit of a 15-bit set. -/
def setBit15 (b : BitVec 15) (k : Nat) : BitVec 15 := b ||| (1#15 <<< k)

/-- ADD_BLOCK of R189: the unit, and the exponent of a RENORM it sends. -/
def Trick.addSlot (u : Trick) (k : Nat) (b : Slot) : Trick × Option Nat :=
  let lead := (u.p.getD k none).isNone
  let p := (u.p.getD k none).getD b.e
  let rn := if lead || b.rf then setBit15 u.rn k else u.rn
  let a := u.a.getD k []
  let u := { u with p := setAt u.p k (some p), rn := rn }
  if p = 255 ∨ b.e = 255 then
    ({ u with p := setAt u.p k (some 255),
              a := setAt u.a k ((a.zip b.x).map fun (x, y) => satLane ((laneVal p x).add y .rne)) }, none)
  else
    let c : List (Option Int) := if b.wide then b.w.map fun v => v.map fun x => round ((Q.ofInt x).scale ((b.e : Int) - p)) .rne 0
      else b.x.map fun v => w16Align v (p : Int)
    let t := (a.zip c).map fun (x, y) => match x, y with | some x, some y => some (x + y) | _, _ => none
    let r := renorm (halvings t) t p
    if 254 < r.2 then
      ({ u with p := setAt u.p k (some 255), a := setAt u.a k (r.1.map fun v => satLane (laneVal 0 v)) }, none)
    else if p < r.2 then
      ({ u with p := setAt u.p k (some r.2), a := setAt u.a k r.1, rn := setBit15 rn k }, some r.2)
    else ({ u with a := setAt u.a k r.1 }, none)

/-- The output port of a trick node (R185). -/
def Core.parentPort (c : Core) (ch : BitVec 6) : Nat := (outPorts (c.routeNow ch)).headD 4
/-- A renorm message on a control channel: RENORM's word, or SETTLE's exponents and flags (R189). Its head's SEQ and FMT are 0 (DESIGN
CHOICE, log entry 48). -/
def renormMsg (ctl : BitVec 6) (data : BitVec 128) (side : BitVec 32) : Msg := ⟨mkHdr ctl 0 0 0 1 false 2, [(data, side)]⟩
/-- The unit of channel ch sends a message out of a port, behind what it sent before (R190). -/
def Core.emit (c : Core) (ch : BitVec 6) (out : Nat) (m : Msg) : Core := { c with emits := c.emits ++ [⟨ch, out, m, 0⟩] }
/-- RENORM(k, Pn) toward the parent, unless the unit is the root (R189). -/
def Core.sendRenorm (c : Core) (ch : BitVec 6) (u : Trick) (k pn : Nat) : Core :=
  if u.root then c else c.emit ch (c.parentPort ch) (renormMsg u.ctl (BitVec.ofNat 128 (k + 256 * pn)) 0)

/-- The oldest flit at a port among a trick's channel and its control channel (R190: they keep their order). -/
def Core.trickFlit (c : Core) (p : Nat) (ch ctl : BitVec 6) : Option InFlit :=
  c.inputs.find? fun x => x.port == p && (x.flit.chan == ch || x.flit.chan == ctl)
/-- A contribution has B8 or B4 blocks, or W16 slots, one for each slot of the unit (R187, R188). -/
def Msg.contributes (m : Msg) (n : Nat) : Bool :=
  m.kind == 0 && if m.fmt = 7 then m.len == 2 * n else (m.fmt == 1 || m.fmt == 2) && m.size == n * (2 * mw m.fmt)
/-- A whole contribution on an arc is added slot by slot (R189). -/
def Core.addMsg (c : Core) (n : BitVec 3) (ch : BitVec 6) (p : Nat) (m : Msg) : Core :=
  let u := c.unit n
  let u0 := { u with st := TrickSt.collecting, got := u.got ||| (1#5 <<< p), arcs := u.arcs.filter fun a => a.1 != p }
  let r := m.slots.zipIdx.foldl (fun (acc : Core × Trick) (b, i) =>
    let a := acc.2.addSlot i b
    (match a.2 with | some pn => acc.1.sendRenorm ch u0 i pn | none => acc.1, a.1)) (c, u0)
  r.1.setUnit n r.2

/-- ADD_BLOCK (R189): the next flit of the contribution at an arc is taken, and the contribution added once it is whole, unless
the unit is settling or the arc is already complete. -/
def execAddBlock (c p ch : Nat) (s : State) : Out :=
  let k : BitVec 6 := BitVec.ofNat 6 ch
  let x := s.core c
  match x.unitOf k with
  | none => .next s
  | some n =>
    let u := x.unit n
    match x.trickFlit p k u.ctl with
    | none => .next s
    | some i =>
      if x.frozen ∨ i.flit.chan ≠ k ∨ (x.wayAt p k).isSome then .next s
      else match u.arcs.find? fun a => a.1 == p with
        | some (_, m) =>
          let m : Msg := { m with flits := m.flits ++ [(i.flit.data, i.flit.side)] }
          .next (s.modCore c fun x =>
            let x := x.takeFlit p k
            if m.flits.length = m.len then x.addMsg n k p m
            else x.setUnit n { u with arcs := u.arcs.map fun a => if a.1 = p then (p, m) else a })
        | none =>
          let m := i.flit.headMsg
          let v := i.entry
          if i.flit.type ≠ 1 ∨ m.isRenorm ∨ m.malformed ∨ !(routeValid v && routeRed v && routeIn v p) ∨ u.st = .settling
              ∨ u.got.getLsbD p then .next s
          else if !m.contributes u.s then .next (s.discardInput c p m (chErr 2 k 0))
          else .next (s.modCore c fun x =>
            (x.takeFlit p k).setUnit n { u with st := .collecting, arcs := u.arcs ++ [(p, m)] })

/-- The renorm message whose flits head the queue of a trick at a port: both stand there. -/
def Core.renormAt (c : Core) (p : Nat) (ch ctl : BitVec 6) : Option Msg :=
  match c.trickFlit p ch ctl, (c.inputs.filter fun x => x.port == p && x.flit.chan == ctl).map (·.flit) with
  | some i, h :: b :: _ => if i.flit.chan = ctl ∧ h.headMsg.isRenorm then some ⟨h.data, [(b.data, b.side)]⟩ else none
  | _, _ => none
/-- Both flits of a renorm message are absorbed. -/
def Core.takeRenorm (c : Core) (p : Nat) (ctl : BitVec 6) : Core := (c.takeFlit p ctl).takeFlit p ctl
/-- ON_RENORM (R189): from a child, on the control channel. The ports of IN are those by which children send (R407); a renorm message
that comes by a port of neither IN nor OUT is absorbed and changes nothing (DESIGN CHOICE, log entry 48). -/
def execOnRenorm (c p ch : Nat) (s : State) : Out :=
  let ctl : BitVec 6 := BitVec.ofNat 6 ch
  let x := s.core c
  match x.unitOfCtl ctl with
  | none => .next s
  | some n =>
    let u := x.unit n
    let k := u.bound.getD 0
    match x.renormAt p k ctl with
    | none => .next s
    | some m =>
      if x.frozen ∨ (!u.root && p == x.parentPort k) then .next s
      else
        let w := (m.word 0).toNat
        let i := w % 16
        let pn := field w 8 8
        .next (s.modCore c fun x =>
          let x := x.takeRenorm p ctl
          if u.s ≤ i ∨ !(decide (p < 4) && routeIn (x.routeNow k) p) then x
          else match u.p.getD i none with
            | none => (x.sendRenorm k u i pn).setUnit n { u with p := setAt u.p i (some pn), rn := setBit15 u.rn i }
            | some q =>
              if q < pn then
                let a := (u.a.getD i []).map fun v => v.map fun y => round ((Q.ofInt y).scale ((q : Int) - pn)) .rne 0
                (x.sendRenorm k u i pn).setUnit n { u with p := setAt u.p i (some pn), a := setAt u.a i a, rn := setBit15 u.rn i }
              else x)

/-- A unit after its trick: A, GOT and RN cleared, LASTRN taken, idle, the count one higher (R189, R209). -/
def Trick.settled (u : Trick) (rn : BitVec 15) : Trick :=
  { u with a := List.replicate u.s (List.replicate 16 (some 0)), got := 0, rn := 0, lastRn := rn, st := .idle, count := u.count + 1 }
/-- SETTLE toward every child port in IN (R189). -/
def Core.sendSettle (c : Core) (ch : BitVec 6) (u : Trick) (rn : BitVec 15) : Core :=
  let v := c.routeNow ch
  let data := ofBytes (u.p.map fun e => BitVec.ofNat 8 (e.getD 255))
  ([0, 1, 2, 3].filter (routeIn v)).foldl (fun c p => c.emit ch p (renormMsg u.ctl (BitVec.ofNat 128 data) (rn.zeroExtend 32))) c

/-- The root's result (R189): block k is the slot's sums at its exponent, packed in OFMT. The model leaves the sequence number of
a message no send instruction made open. -/
def Trick.rootMsg (u : Trick) (k : BitVec 6) (seq : BitVec 16) : Msg :=
  let bl := (u.a.zip u.p).map fun (a, p) => (pack u.ofmt (a.map fun (w : Option Int) => w16Value (w.getD (-32768)) (p.getD 255)) .rne []).row
  let bs := (bl.map fun r => rowBytes u.ofmt r.1).flatten
  ⟨mkHdr k seq u.ofmt 0 ((bs.length + 15) / 16) (bs.length % 16 == 8) 0, mkFlits u.ofmt bs (bl.map (·.2))⟩
/-- A node's W16 message to its parent (R188): two flits a slot, its exponent and RF in the first one's side band. Its SEQ is 0 (DESIGN
CHOICE, log entry 48). -/
def Trick.nodeMsg (u : Trick) (k : BitVec 6) : Msg :=
  let fl := ((u.a.zip u.p).zipIdx.map fun ((a, p), i) =>
    let bs := (a.map fun (w : Option Int) => toBytes 2 (BitVec.ofInt 16 (w.getD (-32768))).toNat).flatten
    [(BitVec.ofNat 128 (ofBytes (bs.take 16)), BitVec.ofNat 32 (p.getD 255 + 256 * bit (u.rn.getLsbD i))),
     (BitVec.ofNat 128 (ofBytes (bs.drop 16)), 0#32)]).flatten
  ⟨mkHdr k 0 7 0 (2 * u.s) false 0, fl⟩

/-- ON_COMPLETE (R189): all arcs complete; a node sends its W16 message and settles, the root delivers and settles the
tree. -/
def execOnComplete (c ch : Nat) (s : State) : Out :=
  let k : BitVec 6 := BitVec.ofNat 6 ch
  let x := s.core c
  match x.unitOf k with
  | none => .next s
  | some n =>
    let u := x.unit n
    if x.frozen ∨ u.st ≠ .collecting ∨ u.got ≠ BitVec.ofNat 5 (x.routeNow k).toNat then .next s
    else if u.root then
      .next (({ s with free := s.free + 1 } : State).modCore c fun x =>
        ((x.emit k 4 (u.rootMsg k ((Config.freeWord s.free).truncate 16))).sendSettle k u u.rn).setUnit n (u.settled u.rn))
    else .next (s.modCore c fun x => (x.emit k (x.parentPort k) (u.nodeMsg k)).setUnit n { u with st := .settling })

/-- ON_SETTLE (R189): from the parent. -/
def execOnSettle (c p ch : Nat) (s : State) : Out :=
  let ctl : BitVec 6 := BitVec.ofNat 6 ch
  let x := s.core c
  match x.unitOfCtl ctl with
  | none => .next s
  | some n =>
    let u := x.unit n
    let k := u.bound.getD 0
    match x.renormAt p k ctl with
    | none => .next s
    | some m =>
      if x.frozen ∨ u.root ∨ p ≠ x.parentPort k then .next s
      else
        let bs := toBytes 16 ((m.flits.getD 0 (0, 0)).1).toNat
        let rn : BitVec 15 := ((m.flits.getD 0 (0, 0)).2).truncate 15
        let u1 := { u with p := (bs.take u.s).map fun b => some b.toNat }
        .next (s.modCore c fun x => ((x.takeRenorm p ctl).sendSettle k u1 rn).setUnit n (u1.settled rn))

end Sys2Proof.Machine
end

