-- ==== Sys2Proof/Machine/Scalar.lean ====
section
/-! DEFINITION. Scalar integer instructions: majors 0x08 to 0x0F (05 R108–R112), and the end of a result latency (04 R93). -/

namespace Sys2Proof.Machine

/-- A result of latency 1 in g[d]. -/
def State.result (s : State) (d : BitVec 4) (v : Word) : Out := .next (s.setG d v 1).advance
/-- The amount of a register shift: g[b][4:0] (R108). -/
def State.amount (s : State) (b : BitVec 4) : Nat := (s.g b).toNat % 32
/-- A Boolean as a word. -/
def flagWord (b : Bool) : Word := if b then 1 else 0

/-- ADD (R108). -/
def execAdd (d a b : BitVec 4) (s : State) : Out := s.result d (s.g a + s.g b)
/-- SUB (R108). -/
def execSub (d a b : BitVec 4) (s : State) : Out := s.result d (s.g a - s.g b)
/-- AND (R108). -/
def execAnd (d a b : BitVec 4) (s : State) : Out := s.result d (s.g a &&& s.g b)
/-- OR (R108). -/
def execOr (d a b : BitVec 4) (s : State) : Out := s.result d (s.g a ||| s.g b)
/-- XOR (R108). -/
def execXor (d a b : BitVec 4) (s : State) : Out := s.result d (s.g a ^^^ s.g b)
/-- ANDN (R108). -/
def execAndn (d a b : BitVec 4) (s : State) : Out := s.result d (s.g a &&& ~~~(s.g b))
/-- SHL (R108). -/
def execShl (d a b : BitVec 4) (s : State) : Out := s.result d (s.g a <<< s.amount b)
/-- SHR (R108). -/
def execShr (d a b : BitVec 4) (s : State) : Out := s.result d (s.g a >>> s.amount b)
/-- SAR (R108). -/
def execSar (d a b : BitVec 4) (s : State) : Out := s.result d ((s.g a).sshiftRight (s.amount b))
/-- ROL (R108). -/
def execRol (d a b : BitVec 4) (s : State) : Out := s.result d ((s.g a).rotateLeft (s.amount b))
/-- SLT (R108). -/
def execSlt (d a b : BitVec 4) (s : State) : Out := s.result d (flagWord ((s.g a).slt (s.g b)))
/-- SLTU (R108). -/
def execSltu (d a b : BitVec 4) (s : State) : Out := s.result d (flagWord ((s.g a).ult (s.g b)))
/-- MIN (R108). -/
def execMin (d a b : BitVec 4) (s : State) : Out := s.result d (if (s.g b).slt (s.g a) then s.g b else s.g a)
/-- MAX (R108). -/
def execMax (d a b : BitVec 4) (s : State) : Out := s.result d (if (s.g a).slt (s.g b) then s.g b else s.g a)
/-- MINU (R108). -/
def execMinu (d a b : BitVec 4) (s : State) : Out := s.result d (if (s.g b).ult (s.g a) then s.g b else s.g a)
/-- MAXU (R108). -/
def execMaxu (d a b : BitVec 4) (s : State) : Out := s.result d (if (s.g a).ult (s.g b) then s.g b else s.g a)

/-- The length of the run of zeros from the top of the n low bits. -/
def leadZeros (w : Word) : Nat → Nat
  | 0 => 0
  | n + 1 => if w.getLsbD n then 0 else leadZeros w n + 1
/-- The length of the run of zeros from bit i up, over n bits. -/
def trailZeros (w : Word) : Nat → Nat → Nat
  | 0, _ => 0
  | n + 1, i => if w.getLsbD i then 0 else trailZeros w n (i + 1) + 1
/-- The number of ones among the low n bits. -/
def ones (w : Word) : Nat → Nat
  | 0 => 0
  | n + 1 => ones w n + bit (w.getLsbD n)

/-- CLZ (R108). -/
def execClz (d a : BitVec 4) (s : State) : Out := s.result d (BitVec.ofNat 32 (leadZeros (s.g a) 32))
/-- CTZ (R108). -/
def execCtz (d a : BitVec 4) (s : State) : Out := s.result d (BitVec.ofNat 32 (trailZeros (s.g a) 32 0))
/-- POPC (R108). -/
def execPopc (d a : BitVec 4) (s : State) : Out := s.result d (BitVec.ofNat 32 (ones (s.g a) 32))

/-- ADDI (R109). -/
def execAddi (d a : BitVec 4) (imm : BitVec 16) (s : State) : Out := s.result d (s.g a + imm.signExtend 32)
/-- SLTI (R109). -/
def execSlti (d a : BitVec 4) (imm : BitVec 16) (s : State) : Out := s.result d (flagWord ((s.g a).slt (imm.signExtend 32)))
/-- ANDI (R109). -/
def execAndi (d a : BitVec 4) (imm : BitVec 16) (s : State) : Out := s.result d (s.g a &&& imm.signExtend 32)
/-- ORI (R109). -/
def execOri (d a : BitVec 4) (imm : BitVec 16) (s : State) : Out := s.result d (s.g a ||| imm.zeroExtend 32)
/-- XORI (R109). -/
def execXori (d a : BitVec 4) (imm : BitVec 16) (s : State) : Out := s.result d (s.g a ^^^ imm.zeroExtend 32)
/-- SHLI (R109). -/
def execShli (d a : BitVec 4) (n : BitVec 5) (s : State) : Out := s.result d (s.g a <<< n.toNat)
/-- SHRI (R109). -/
def execShri (d a : BitVec 4) (n : BitVec 5) (s : State) : Out := s.result d (s.g a >>> n.toNat)
/-- SARI (R109). -/
def execSari (d a : BitVec 4) (n : BitVec 5) (s : State) : Out := s.result d ((s.g a).sshiftRight n.toNat)
/-- LUI (R109). -/
def execLui (d : BitVec 4) (imm : BitVec 16) (s : State) : Out := s.result d (imm.zeroExtend 32 <<< 16)

/-- ADD64 (R110). -/
def execAdd64 (d a b : BitVec 4) (s : State) : Out := .next (s.setP d (s.p a + s.p b) 1).advance
/-- ADDI64 (R110): the immediate is b * 256 + mod. -/
def execAddi64 (d a ih : BitVec 4) (il : BitVec 8) (s : State) : Out :=
  .next (s.setP d (s.p a + (ih ++ il : BitVec 12).signExtend 64) 1).advance
/-- LEA and LEA.S (R110). -/
def execLea (d a b : BitVec 4) (sx : BitVec 1) (n : BitVec 3) (s : State) : Out :=
  let x : Dword := if sx = 1 then (s.g b).signExtend 64 else (s.g b).zeroExtend 64
  .next (s.setP d (s.p a + (x <<< n.toNat)) 1).advance

/-- A result of the multiply pipeline, latency 3 (Table 5.4). -/
def State.mulResult (s : State) (d : BitVec 4) (v : Word) : Out := .next (s.setG d v 3).advance
/-- MUL (R111). -/
def execMul (d a b : BitVec 4) (s : State) : Out := s.mulResult d (s.g a * s.g b)
/-- MULH (R111). -/
def execMulh (d a b : BitVec 4) (s : State) : Out :=
  s.mulResult d (BitVec.ofInt 32 ((s.g a).toInt * (s.g b).toInt / 4294967296))
/-- MULHU (R111). -/
def execMulhu (d a b : BitVec 4) (s : State) : Out :=
  s.mulResult d (BitVec.ofNat 32 ((s.g a).toNat * (s.g b).toNat / 4294967296))

/-- A result of the divider: occupancy 32, latency 34 (Table 5.4), with the ASTAT bits it raises. -/
def State.divResult (s : State) (d : BitVec 4) (v : Word) (fl : BitVec 7) : Out :=
  .next (((s.setG d v 34).flagged 34 fl false).modMe fun c =>
    { c with units := { c.units with divider := c.cc + 32 } }).advance
/-- Signed overflow of DIV and REM (R111). -/
def divOverflow (x y : Word) : Bool := x == 0x80000000 && y == 0xFFFFFFFF
/-- The ASTAT bits of a signed division. -/
def divFlags (x y : Word) : BitVec 7 := if y = 0 then flIDZ else if divOverflow x y then flIOV else 0
/-- DIV (R111). -/
def divQuot (x y : Word) : Word :=
  if y = 0 then (if x.msb then 0x80000000 else 0x7FFFFFFF)
  else if divOverflow x y then 0x7FFFFFFF else BitVec.ofInt 32 (x.toInt.tdiv y.toInt)
/-- REM (R111). -/
def divRem (x y : Word) : Word :=
  if y = 0 then x else if divOverflow x y then 0 else BitVec.ofInt 32 (x.toInt.tmod y.toInt)
/-- DIV (R111). -/
def execDiv (d a b : BitVec 4) (s : State) : Out := s.divResult d (divQuot (s.g a) (s.g b)) (divFlags (s.g a) (s.g b))
/-- DIVU (R111). -/
def execDivu (d a b : BitVec 4) (s : State) : Out :=
  s.divResult d (if s.g b = 0 then 0xFFFFFFFF else s.g a / s.g b) (if s.g b = 0 then flIDZ else 0)
/-- REM (R111). -/
def execRem (d a b : BitVec 4) (s : State) : Out := s.divResult d (divRem (s.g a) (s.g b)) (divFlags (s.g a) (s.g b))
/-- REMU (R111). -/
def execRemu (d a b : BitVec 4) (s : State) : Out :=
  s.divResult d (if s.g b = 0 then s.g a else s.g a % s.g b) (if s.g b = 0 then flIDZ else 0)

/-- BFX and BFX.S (R112): the width field holds the width minus one. -/
def execBfx (d a : BitVec 4) (sx : BitVec 1) (p w : BitVec 5) (s : State) : Out :=
  let n := w.toNat + 1
  let f := field (s.g a).toNat p.toNat n
  s.result d (if sx = 1 then BitVec.ofInt 32 (sext f n) else BitVec.ofNat 32 f)
/-- BFI (R112). -/
def execBfi (d a : BitVec 4) (p w : BitVec 5) (s : State) : Out :=
  let mask : Word := BitVec.ofNat 32 (2 ^ (w.toNat + 1) - 1) <<< p.toNat
  s.result d ((s.g d &&& ~~~mask) ||| ((s.g a <<< p.toNat) &&& mask))

/-- RESULT_LATENCY_ELAPSED (R93, R115): pending entries due now clear, and an exit that waited for them ends (R105). -/
def execResultLatencyElapsed (c k : Nat) (s : State) : Out :=
  let k := BitVec.ofNat 3 k
  .next ((s.modCore c fun x => x.modStrand k fun t => t.elapse x.cc).tryExit c k)

end Sys2Proof.Machine
end

