-- ==== Sys2Proof/Machine/Vector.lean ====
section
/-! DEFINITION. Vector instructions: majors 0x14 to 0x19 (05 R122–R134). -/

namespace Sys2Proof.Machine

/-- The vector unit is taken for n core cycles (R134). -/
def State.useVector (s : State) (n : Nat) : State := s.modMe fun c => { c with units := { c.units with vector := c.cc + n } }
/-- A vector result with its latency, the unit taken for one cycle. -/
def State.vecResult (s : State) (d : BitVec 4) (x : VReg) (lat : Nat) : Out := .next ((s.useVector 1).setV d x lat).advance
/-- A latency of Table 5.9 by format class: integers, BF16 and FP32, B formats. -/
def vecLat (f : BitVec 3) (i fp b : Nat) : Nat := if tagInt f then i else if isB f then b else fp

/-! ### Arithmetic (R123) -/

/-- A lane-wise value operation on two sources. -/
def State.vecBin (s : State) (d a b : BitVec 4) (k : BitVec 2) (f : BitVec 3) (ie : IntEnc) (lat : Nat)
    (op : Val → Val → Val) : Out :=
  let x := ((s.v a).vals f).zipWith op ((s.v b).vals f)
  s.vecResult d ((s.v d).valueResult f (s.m k) x ie .rne []) lat
/-- The saturate bit (R120). -/
def satEnc (sx : BitVec 1) : IntEnc := if sx = 1 then .clamp else .wrap

/-- VADD (R123). -/
def execVadd (d a b : BitVec 4) (sx : BitVec 1) (k : BitVec 2) (f : BitVec 3) (s : State) : Out :=
  s.vecBin d a b k f (satEnc sx) (vecLat f 2 4 5) fun x y => x.add y .rne
/-- VSUB (R123). -/
def execVsub (d a b : BitVec 4) (sx : BitVec 1) (k : BitVec 2) (f : BitVec 3) (s : State) : Out :=
  s.vecBin d a b k f (satEnc sx) (vecLat f 2 4 5) fun x y => x.add y.neg .rne
/-- VMUL (R123). -/
def execVmul (d a b : BitVec 4) (sx : BitVec 1) (k : BitVec 2) (f : BitVec 3) (s : State) : Out :=
  s.vecBin d a b k f (satEnc sx) (vecLat f 3 4 6) Val.mul
/-- VFMA (R123): one rounding; integers wrap. -/
def execVfma (d a b c : BitVec 4) (k : BitVec 2) (f : BitVec 3) (s : State) : Out :=
  let x := (((s.v a).vals f).zipWith Val.mul ((s.v b).vals f)).zipWith (fun p z => p.add z .rne) ((s.v c).vals f)
  s.vecResult d ((s.v d).valueResult f (s.m k) x .wrap .rne []) (vecLat f 3 4 6)
/-- VMIN (R123). -/
def execVmin (d a b : BitVec 4) (k : BitVec 2) (f : BitVec 3) (s : State) : Out :=
  s.vecBin d a b k f .wrap (vecLat f 2 4 5) Val.min
/-- VMAX (R123). -/
def execVmax (d a b : BitVec 4) (k : BitVec 2) (f : BitVec 3) (s : State) : Out :=
  s.vecBin d a b k f .wrap (vecLat f 2 4 5) Val.max

/-- One block of a B-format VABS or VNEG (R123): whole or in place, the mantissas alone change under va's exponent and ply;
in part and not in place, the block is packed. -/
def signBlock (f : BitVec 3) (m : Word) (a old : VReg) (same : Bool) (op : Int → Int) (b : Nat) :
    List (BitVec 16) × BitVec 16 :=
  let sel := fun i => selected m (16 * b + i)
  let flip := fun x : BitVec 16 => if mant f x = -(top f + 1) then BitVec.ofInt 16 (-(top f + 1)) else BitVec.ofInt 16 (op (mant f x))
  if !(List.range 16).any sel then (old.half b, old.sideOf b)
  else if same || (List.range 16).all sel then
    ((a.half b).zipIdx.map fun (x, i) => if sel i then flip x else x, a.sideOf b)
  else old.blockResult f m (List.replicate (16 * b) .nan ++ rowVals f ((a.half b).map flip) (a.sideOf b)) .rne [] b
/-- VABS and VNEG (R123): on mantissas, on sign bits, or on integers. -/
def State.vecSign (s : State) (d a : BitVec 4) (sx : BitVec 1) (k : BitVec 2) (f : BitVec 3) (neg : Bool) : Out :=
  let m := s.m k
  let va := s.v a
  let vd := s.v d
  let r :=
    if isB f then
      let op := fun x : Int => if neg then -x else (x.natAbs : Int)
      let b0 := signBlock f m va vd (d == a) op 0
      let b1 := signBlock f m va vd (d == a) op 1
      (⟨Vector.ofFn fun i : Fin 32 => (b0.1 ++ b1.1).getD i.val 0, sideWord b0.2 b1.2⟩ : VReg)
    else if tagInt f then
      vd.valueResult f m ((va.vals f).map fun v => if neg then v.neg else v.abs) (satEnc sx) .rne []
    else
      let sign : Word := if f = 3 then 0x8000 else 0x80000000
      vd.rawResult f m ((List.range (lanesOf f)).map fun i =>
        if neg then va.lane f i ^^^ sign else va.lane f i &&& ~~~sign) 0
  s.vecResult d r 2
/-- VABS (R123). -/
def execVabs (d a : BitVec 4) (sx : BitVec 1) (k : BitVec 2) (f : BitVec 3) (s : State) : Out := s.vecSign d a sx k f false
/-- VNEG (R123). -/
def execVneg (d a : BitVec 4) (sx : BitVec 1) (k : BitVec 2) (f : BitVec 3) (s : State) : Out := s.vecSign d a sx k f true

/-! ### Logic and shift (R124) -/

/-- A raw lane operation on two sources; the side band comes from va. -/
def State.vecRaw (s : State) (d a b : BitVec 4) (k : BitVec 2) (f : BitVec 3) (op : Word → Word → Word) : Out :=
  s.vecResult d ((s.v d).rawResult f (s.m k)
    ((List.range (lanesOf f)).map fun i => op ((s.v a).lane f i) ((s.v b).lane f i)) (s.v a).side) 2
/-- VAND (R124). -/
def execVand (d a b : BitVec 4) (k : BitVec 2) (f : BitVec 3) (s : State) : Out := s.vecRaw d a b k f (· &&& ·)
/-- VOR (R124). -/
def execVor (d a b : BitVec 4) (k : BitVec 2) (f : BitVec 3) (s : State) : Out := s.vecRaw d a b k f (· ||| ·)
/-- VXOR (R124). -/
def execVxor (d a b : BitVec 4) (k : BitVec 2) (f : BitVec 3) (s : State) : Out := s.vecRaw d a b k f (· ^^^ ·)
/-- The element width of a shift (R124). -/
def shiftWidth (f : BitVec 3) : Nat :=
  if f = 0 ∨ f = 3 then 16 else if f = 1 ∨ f = 5 then 8 else if f = 2 then 4 else 32
/-- An n-bit result placed in its lane: sign-extended for B formats and INT8, zero-extended for BF16 (R124). -/
def placeShift (f : BitVec 3) (n x : Nat) : Word := if f = 3 then BitVec.ofNat 32 x else BitVec.ofInt 32 (sext x n)
/-- VSHL (R124). -/
def execVshl (d a b : BitVec 4) (k : BitVec 2) (f : BitVec 3) (s : State) : Out :=
  let n := shiftWidth f
  s.vecRaw d a b k f fun x y =>
    let sh := y.toNat % 256
    placeShift f n (if n ≤ sh then 0 else x.toNat * 2 ^ sh % 2 ^ n)
/-- VSHR and VSHR.A (R124). -/
def execVshr (d a b : BitVec 4) (x : BitVec 1) (k : BitVec 2) (f : BitVec 3) (s : State) : Out :=
  let n := shiftWidth f
  s.vecRaw d a b k f fun e y =>
    let sh := y.toNat % 256
    if x = 1 then placeShift f n (sext e.toNat n / 2 ^ sh % 2 ^ n).toNat
    else placeShift f n (e.toNat % 2 ^ n / 2 ^ sh)

/-! ### Compare, select, shuffle (R125–R127) -/

/-- The predicates of VCMP (R125). -/
def vcmpHolds (p : BitVec 4) (x y : Val) : Bool :=
  let un := x.isNan || y.isNan
  if p = 0 then x.eq y
  else if p = 1 then un || !x.eq y
  else if p = 2 then x.lt y
  else if p = 3 then !un && !y.lt x
  else if p = 4 then y.lt x
  else if p = 5 then !un && !x.lt y
  else un
/-- A word whose bit i is given for i below n, and 0 above. -/
def wordOfBits (n : Nat) (b : Nat → Bool) : Word := BitVec.ofNat 32 ((List.range n).foldl (fun w i => if b i then w + 2 ^ i else w) 0)
/-- VCMP (R125). -/
def execVcmp (d : BitVec 2) (a b p : BitVec 4) (k : BitVec 2) (f : BitVec 3) (s : State) : Out :=
  let x := (s.v a).vals f
  let y := (s.v b).vals f
  .next ((s.useVector 1).setM d (wordOfBits (lanesOf f) fun i =>
    selected (s.m k) i && vcmpHolds p (x.getD i .nan) (y.getD i .nan)) 3).advance
/-- VSEL (R126): the mask selects between the sources; both blocks of a B format are packed. -/
def execVsel (d a b : BitVec 4) (k : BitVec 2) (f : BitVec 3) (s : State) : Out :=
  let m := s.m k
  let n := lanesOf f
  let r := if isB f then
      let x := (s.v a).vals f
      let y := (s.v b).vals f
      (s.v d).valueResult f 0xFFFFFFFF ((List.range n).map fun i => if selected m i then x.getD i .nan else y.getD i .nan) .wrap .rne []
    else (s.v d).withLanes f ((List.range n).map fun i => if selected m i then (s.v a).lane f i else (s.v b).lane f i)
  s.vecResult d r (vecLat f 2 4 5)
/-- VSHUF (R127). -/
def execVshuf (d a b : BitVec 4) (k : BitVec 2) (f : BitVec 3) (s : State) : Out :=
  let n := lanesOf f
  let j := fun i => ((s.v b).lane f i).toNat % n
  let r := if isB f then
      let x := (s.v a).vals f
      (s.v d).valueResult f (s.m k) ((List.range n).map fun i => x.getD (j i) .nan) .wrap .rne []
    else (s.v d).rawResult f (s.m k) ((List.range n).map fun i => (s.v a).lane f (j i)) 0
  s.vecResult d r (vecLat f 3 4 6)

/-! ### Convert and block (R128–R130) -/

/-- VCVT (R128): lanes pair up by element counts; under SR the core's generator advances once. -/
def execVcvt (d a : BitVec 4) (h : BitVec 1) (m : BitVec 3) (k : BitVec 2) (f sx : BitVec 3) (s : State) : Out :=
  let mode := Mode.ofCode m
  let src := (s.v a).vals sx
  let wide := lanesOf sx == 16 && lanesOf f == 32
  let o := 16 * h.toNat
  let x := if lanesOf sx = 32 ∧ lanesOf f = 16 then src.drop o
    else if wide then List.replicate o .nan ++ src ++ List.replicate 16 .nan else src
  let msk := if wide then s.m k &&& (0xFFFF <<< o) else s.m k
  let g := xs32 s.me.srVcvt
  let rnd := if mode = .sr then srdraws g else []
  let s1 := if mode = .sr then s.modMe fun c => { c with srVcvt := g } else s
  s1.vecResult d ((s.v d).valueResult f msk x .conv mode rnd) 5
/-- VBLK (R129). -/
def execVblk (d a : BitVec 4) (m : BitVec 3) (k : BitVec 2) (f : BitVec 3) (s : State) : Out :=
  s.vecResult d ((s.v d).valueResult f (s.m k) ((s.v a).vals f) .wrap (Mode.ofCode m) []) 4
/-- x times 2^k, keeping the sign of zero. -/
def Val.scale (v : Val) (k : Int) : Val := match v with | .fin q nz => .fin (q.scale k) nz | w => w
/-- VSCL (R130). -/
def execVscl (d a : BitVec 4) (imm : BitVec 8) (k : BitVec 2) (f : BitVec 3) (s : State) : Out :=
  s.vecResult d ((s.v d).valueResult f (s.m k) (((s.v a).vals f).map fun v => v.scale imm.toInt) .wrap .rne []) (vecLat f 2 4 5)

/-! ### Lane moves (R131) -/

/-- VMOV (R131). -/
def execVmov (d a : BitVec 4) (k : BitVec 2) (f : BitVec 3) (s : State) : Out :=
  s.vecResult d ((s.v d).rawResult f (s.m k) ((List.range (lanesOf f)).map ((s.v a).lane f)) (s.v a).side) 2
/-- The lane word w of R131. -/
def laneWord (f : BitVec 3) (x : Word) : Word :=
  if f = 4 ∨ f = 6 then x else if f = 3 then x &&& 0xFFFF
  else BitVec.ofInt 32 (sext x.toNat (if f = 5 then 8 else mbits f))
/-- VBCAST (R131): in a B format the side pair of each touched block is g[a][31:16]. -/
def execVbcast (d a : BitVec 4) (k : BitVec 2) (f : BitVec 3) (s : State) : Out :=
  let x := s.g a
  s.vecResult d ((s.v d).rawResult f (s.m k) (List.replicate (lanesOf f) (laneWord f x)) ((x >>> 16) ||| (x &&& 0xFFFF0000))) 2
/-- VINS (R131): one lane, or with L = 32 the side band. -/
def execVins (d a : BitVec 4) (l : BitVec 8) (f : BitVec 3) (s : State) : Out :=
  let r := if l = 32 then { s.v d with side := s.g a }
    else (s.v d).withLanes f ((List.range (lanesOf f)).map fun i => if i = l.toNat then laneWord f (s.g a) else (s.v d).lane f i)
  s.vecResult d r 2
/-- VEXT (R131). -/
def execVext (d a : BitVec 4) (l : BitVec 8) (f : BitVec 3) (s : State) : Out :=
  let x := (s.v a).lane f l.toNat
  let w : Word := if l = 32 then (s.v a).side
    else if f = 4 ∨ f = 6 ∨ f = 3 then x else BitVec.ofInt 32 (sext x.toNat 16)
  .next ((s.useVector 1).setG d w 3).advance
/-- VMOV.MG (R131). -/
def execVmovMg (d : BitVec 2) (a : BitVec 4) (s : State) : Out := .next ((s.useVector 1).setM d (s.g a) 2).advance
/-- VMOV.GM (R131). -/
def execVmovGm (d : BitVec 4) (a : BitVec 2) (s : State) : Out := .next ((s.useVector 1).setG d (s.m a) 2).advance

/-! ### Estimates and reduce (R132, R133) -/

/-- A 12-bit estimate: y rounded toward zero to 12 significant bits or the subnormal grid; beyond the largest finite value
an infinity of x's sign (R132). -/
def estimate (x y : Val) : Val :=
  match y with
  | .fin q nz =>
    if q.num = 0 then .fin q nz
    else if !(⟨q.num.natAbs, q.den⟩ : Q).lt ((Q.ofInt 1).scale 128) then .inf x.isNeg
    else
      let r := roundFp 12 (-149) q .rz 0
      .fin ((Q.ofInt r.1).scale r.2) false
  | w => w
/-- 1/x (R132). -/
def rcpVal (x : Val) : Val := estimate x ((Val.ofInt 1).div x)
/-- 1/√x (R132): a zero of either sign gives the infinity of its sign. -/
def rsqVal (x : Val) : Val :=
  if x.isZero then .inf x.isNeg else if x.isNeg then .nan else estimate x ((Val.ofInt 1).div x).sqrt
/-- VRCP (R132). -/
def execVrcp (d a : BitVec 4) (k : BitVec 2) (f : BitVec 3) (s : State) : Out :=
  s.vecResult d ((s.v d).valueResult f (s.m k) (((s.v a).vals f).map rcpVal) .wrap .rne []) 6
/-- VRSQ (R132). -/
def execVrsq (d a : BitVec 4) (k : BitVec 2) (f : BitVec 3) (s : State) : Out :=
  s.vecResult d ((s.v d).valueResult f (s.m k) (((s.v a).vals f).map rsqVal) .wrap .rne []) 6

/-- One halving of the FP32 sum tree. -/
def treeStep (h : Nat) (l : List Val) : List Val :=
  (List.range h).map fun i => decFp32 (encFp32 ((l.getD i .nan).add (l.getD (i + h) .nan) .rne) .rne 0)
/-- VRED's result before encoding (R133). -/
def vredVal (o : BitVec 2) (f : BitVec 3) (m : Word) (x : List Val) : Val :=
  let n := lanesOf f
  let sel := (x.zipIdx.filter fun (_, i) => selected m i).map (·.1)
  let w := if f = 5 then 8 else 32
  if o = 0 then
    if f = 4 then
      let s0 := (List.range n).map fun i => if selected m i then x.getD i .nan else Val.ofInt 0
      (treeStep 1 (treeStep 2 (treeStep 4 (treeStep 8 s0)))).getD 0 .nan
    else sel.foldl (fun a v => a.add v .rne) (Val.ofInt 0)
  else match sel with
    | [] => if tagInt f then Val.ofInt (if o = 1 then 2 ^ (w - 1) - 1 else -(2 ^ (w - 1))) else .nan
    | v :: t => t.foldl (fun a b => if o = 1 then a.min b else a.max b) v
/-- VRED (R133): lane 0 takes the result, every other lane 0; block 1 of a B format becomes E = 0 and ply 0xFF. -/
def execVred (d a : BitVec 4) (sx : BitVec 1) (o : BitVec 2) (k : BitVec 2) (f : BitVec 3) (s : State) : Out :=
  let v := vredVal o f (s.m k) ((s.v a).vals f)
  let r := if isB f then
      let b := (pack f (v :: List.replicate 15 (Val.ofInt 0)) .rne []).row
      (⟨Vector.ofFn fun i : Fin 32 => b.1.getD i.val 0, sideWord b.2 0xFF00⟩ : VReg)
    else (s.v d).withLanes f (encLane f (satEnc sx) .rne 0 v :: [])
  .next ((s.useVector 2).setV d r (vecLat f 6 8 8)).advance

end Sys2Proof.Machine
end

