-- ==== Sys2Proof/Machine/Dispatch.lean ====
section
/-! DEFINITION. One arm for each constructor of Instr, each a direct call of that instruction's meaning. -/

namespace Sys2Proof.Machine

/-- The meaning of an instruction or event on a state. -/
def exec (i : Instr) (s : State) : Host.Outcome State Fault Refusal :=
  match i with
  | .bra o => Sys2Proof.Machine.execBra o s
  | .bal o => Sys2Proof.Machine.execBal o s
  | .beq a b o => Sys2Proof.Machine.execBeq a b o s
  | .bne a b o => Sys2Proof.Machine.execBne a b o s
  | .blt a b o => Sys2Proof.Machine.execBlt a b o s
  | .bge a b o => Sys2Proof.Machine.execBge a b o s
  | .blo a b o => Sys2Proof.Machine.execBlo a b o s
  | .bhs a b o => Sys2Proof.Machine.execBhs a b o s
  | .bz a o => Sys2Proof.Machine.execBz a o s
  | .bnz a o => Sys2Proof.Machine.execBnz a o s
  | .jmp a imm => Sys2Proof.Machine.execJmp a imm s
  | .jal d a imm => Sys2Proof.Machine.execJal d a imm s
  | .loop d imm => Sys2Proof.Machine.execLoop d imm s
  | .nop => Sys2Proof.Machine.execNop s
  | .yield => Sys2Proof.Machine.execYield s
  | .sleep a imm => Sys2Proof.Machine.execSleep a imm s
  | .waitm d a => Sys2Proof.Machine.execWaitm d a s
  | .spawn d a n e => Sys2Proof.Machine.execSpawn d a n e s
  | .exit => Sys2Proof.Machine.execExit s
  | .exitSplice => Sys2Proof.Machine.execExitSplice s
  | .sel d a b c => Sys2Proof.Machine.execSel d a b c s
  | .add d a b => Sys2Proof.Machine.execAdd d a b s
  | .sub d a b => Sys2Proof.Machine.execSub d a b s
  | .and d a b => Sys2Proof.Machine.execAnd d a b s
  | .or d a b => Sys2Proof.Machine.execOr d a b s
  | .xor d a b => Sys2Proof.Machine.execXor d a b s
  | .andn d a b => Sys2Proof.Machine.execAndn d a b s
  | .shl d a b => Sys2Proof.Machine.execShl d a b s
  | .shr d a b => Sys2Proof.Machine.execShr d a b s
  | .sar d a b => Sys2Proof.Machine.execSar d a b s
  | .rol d a b => Sys2Proof.Machine.execRol d a b s
  | .slt d a b => Sys2Proof.Machine.execSlt d a b s
  | .sltu d a b => Sys2Proof.Machine.execSltu d a b s
  | .min d a b => Sys2Proof.Machine.execMin d a b s
  | .max d a b => Sys2Proof.Machine.execMax d a b s
  | .minu d a b => Sys2Proof.Machine.execMinu d a b s
  | .maxu d a b => Sys2Proof.Machine.execMaxu d a b s
  | .clz d a => Sys2Proof.Machine.execClz d a s
  | .ctz d a => Sys2Proof.Machine.execCtz d a s
  | .popc d a => Sys2Proof.Machine.execPopc d a s
  | .addi d a imm => Sys2Proof.Machine.execAddi d a imm s
  | .slti d a imm => Sys2Proof.Machine.execSlti d a imm s
  | .andi d a imm => Sys2Proof.Machine.execAndi d a imm s
  | .ori d a imm => Sys2Proof.Machine.execOri d a imm s
  | .xori d a imm => Sys2Proof.Machine.execXori d a imm s
  | .shli d a n => Sys2Proof.Machine.execShli d a n s
  | .shri d a n => Sys2Proof.Machine.execShri d a n s
  | .sari d a n => Sys2Proof.Machine.execSari d a n s
  | .lui d imm => Sys2Proof.Machine.execLui d imm s
  | .add64 d a b => Sys2Proof.Machine.execAdd64 d a b s
  | .addi64 d a ih il => Sys2Proof.Machine.execAddi64 d a ih il s
  | .lea d a b sx n => Sys2Proof.Machine.execLea d a b sx n s
  | .mul d a b => Sys2Proof.Machine.execMul d a b s
  | .mulh d a b => Sys2Proof.Machine.execMulh d a b s
  | .mulhu d a b => Sys2Proof.Machine.execMulhu d a b s
  | .div d a b => Sys2Proof.Machine.execDiv d a b s
  | .divu d a b => Sys2Proof.Machine.execDivu d a b s
  | .rem d a b => Sys2Proof.Machine.execRem d a b s
  | .remu d a b => Sys2Proof.Machine.execRemu d a b s
  | .bfx d a x p w => Sys2Proof.Machine.execBfx d a x p w s
  | .bfi d a p w => Sys2Proof.Machine.execBfi d a p w s
  | .fadd d a b m => Sys2Proof.Machine.execFadd d a b m s
  | .fsub d a b m => Sys2Proof.Machine.execFsub d a b m s
  | .fmul d a b m => Sys2Proof.Machine.execFmul d a b m s
  | .fma d a b m => Sys2Proof.Machine.execFma d a b m s
  | .fmin d a b => Sys2Proof.Machine.execFmin d a b s
  | .fmax d a b => Sys2Proof.Machine.execFmax d a b s
  | .fabs d a => Sys2Proof.Machine.execFabs d a s
  | .fneg d a => Sys2Proof.Machine.execFneg d a s
  | .fcmp d a b p => Sys2Proof.Machine.execFcmp d a b p s
  | .fdiv d a b m => Sys2Proof.Machine.execFdiv d a b m s
  | .fsqrt d a m => Sys2Proof.Machine.execFsqrt d a m s
  | .fcvt d a sx t m => Sys2Proof.Machine.execFcvt d a sx t m s
  | .vadd d a b sx k f => Sys2Proof.Machine.execVadd d a b sx k f s
  | .vsub d a b sx k f => Sys2Proof.Machine.execVsub d a b sx k f s
  | .vmul d a b sx k f => Sys2Proof.Machine.execVmul d a b sx k f s
  | .vfma d a b c k f => Sys2Proof.Machine.execVfma d a b c k f s
  | .vmin d a b k f => Sys2Proof.Machine.execVmin d a b k f s
  | .vmax d a b k f => Sys2Proof.Machine.execVmax d a b k f s
  | .vabs d a sx k f => Sys2Proof.Machine.execVabs d a sx k f s
  | .vneg d a sx k f => Sys2Proof.Machine.execVneg d a sx k f s
  | .vand d a b k f => Sys2Proof.Machine.execVand d a b k f s
  | .vor d a b k f => Sys2Proof.Machine.execVor d a b k f s
  | .vxor d a b k f => Sys2Proof.Machine.execVxor d a b k f s
  | .vshl d a b k f => Sys2Proof.Machine.execVshl d a b k f s
  | .vshr d a b x k f => Sys2Proof.Machine.execVshr d a b x k f s
  | .vcmp d a b p k f => Sys2Proof.Machine.execVcmp d a b p k f s
  | .vsel d a b k f => Sys2Proof.Machine.execVsel d a b k f s
  | .vshuf d a b k f => Sys2Proof.Machine.execVshuf d a b k f s
  | .vcvt d a h m k f sx => Sys2Proof.Machine.execVcvt d a h m k f sx s
  | .vblk d a m k f => Sys2Proof.Machine.execVblk d a m k f s
  | .vscl d a imm k f => Sys2Proof.Machine.execVscl d a imm k f s
  | .vmov d a k f => Sys2Proof.Machine.execVmov d a k f s
  | .vbcast d a k f => Sys2Proof.Machine.execVbcast d a k f s
  | .vins d a l f => Sys2Proof.Machine.execVins d a l f s
  | .vext d a l f => Sys2Proof.Machine.execVext d a l f s
  | .vmovMg d a => Sys2Proof.Machine.execVmovMg d a s
  | .vmovGm d a => Sys2Proof.Machine.execVmovGm d a s
  | .vrcp d a k f => Sys2Proof.Machine.execVrcp d a k f s
  | .vrsq d a k f => Sys2Proof.Machine.execVrsq d a k f s
  | .vred d a sx o k f => Sys2Proof.Machine.execVred d a sx o k f s
  | .ld d a sx o => Sys2Proof.Machine.execLd d a sx o s
  | .st d a sx o => Sys2Proof.Machine.execSt d a sx o s
  | .ldv d a o f => Sys2Proof.Machine.execLdv d a o f s
  | .stv d a o f => Sys2Proof.Machine.execStv d a o f s
  | .ldt t a o => Sys2Proof.Machine.execLdt t a o s
  | .stt t a o => Sys2Proof.Machine.execStt t a o s
  | .copy d a b k => Sys2Proof.Machine.execCopy d a b k s
  | .copyB d a b k => Sys2Proof.Machine.execCopyB d a b k s
  | .latom d a b o w => Sys2Proof.Machine.execLatom d a b o w s
  | .bdecl a n => Sys2Proof.Machine.execBdecl a n s
  | .bsetEmpty a n => Sys2Proof.Machine.execBsetEmpty a n s
  | .bsetFull a n => Sys2Proof.Machine.execBsetFull a n s
  | .bsetDrain a n => Sys2Proof.Machine.execBsetDrain a n s
  | .bsetRel a n => Sys2Proof.Machine.execBsetRel a n s
  | .bsetUndecl a n => Sys2Proof.Machine.execBsetUndecl a n s
  | .bqry d h n => Sys2Proof.Machine.execBqry d h n s
  | .twany d a c => Sys2Proof.Machine.execTwany d a c s
  | .twall a c => Sys2Proof.Machine.execTwall a c s
  | .tff d a => Sys2Proof.Machine.execTff d a s
  | .tclr a => Sys2Proof.Machine.execTclr a s
  | .send c sx f h => Sys2Proof.Machine.execSend c sx f h s
  | .sendv c f v => Sys2Proof.Machine.execSendv c f v s
  | .sendt c t => Sys2Proof.Machine.execSendt c t s
  | .sendb c sx f k => Sys2Proof.Machine.execSendb c sx f k s
  | .trig c sx => Sys2Proof.Machine.execTrig c sx s
  | .recv c sx => Sys2Proof.Machine.execRecv c sx s
  | .recvV c v => Sys2Proof.Machine.execRecvV c v s
  | .waitch c sx => Sys2Proof.Machine.execWaitch c sx s
  | .join sx => Sys2Proof.Machine.execJoin sx s
  | .rcfgR c sx => Sys2Proof.Machine.execRcfgR c sx s
  | .rcfgT c sx => Sys2Proof.Machine.execRcfgT c sx s
  | .rcfgQr c sx => Sys2Proof.Machine.execRcfgQr c sx s
  | .rcfgQt c sx => Sys2Proof.Machine.execRcfgQt c sx s
  | .rred c sx => Sys2Proof.Machine.execRred c sx s
  | .rnq c sx k => Sys2Proof.Machine.execRnq c sx k s
  | .nbrq sx e => Sys2Proof.Machine.execNbrq sx e s
  | .chflush c sx => Sys2Proof.Machine.execChflush c sx s
  | .tshape t r c f => Sys2Proof.Machine.execTshape t r c f s
  | .tparm a => Sys2Proof.Machine.execTparm a s
  | .tzero t f => Sys2Proof.Machine.execTzero t f s
  | .accz a => Sys2Proof.Machine.execAccz a s
  | .tstat d k imm => Sys2Proof.Machine.execTstat d k imm s
  | .tmovv t v p d f => Sys2Proof.Machine.execTmovv t v p d f s
  | .tmovt t a f => Sys2Proof.Machine.execTmovt t a f s
  | .txp t a f => Sys2Proof.Machine.execTxp t a f s
  | .tblk t a f m => Sys2Proof.Machine.execTblk t a f m s
  | .tcvt t a f sx m => Sys2Proof.Machine.execTcvt t a f sx m s
  | .mma a b c f g y x => Sys2Proof.Machine.execMma a b c f g y x s
  | .mmaZ a b c f g y x => Sys2Proof.Machine.execMmaZ a b c f g y x s
  | .gmma a c f g z y x => Sys2Proof.Machine.execGmma a c f g z y x s
  | .drainT t c f l => Sys2Proof.Machine.execDrainT t c f l s
  | .drainV v h p c f l => Sys2Proof.Machine.execDrainV v h p c f l s
  | .drainM d c f l => Sys2Proof.Machine.execDrainM d c f l s
  | .sigh a f k c => Sys2Proof.Machine.execSigh a f k c s
  | .sigb t a n f r => Sys2Proof.Machine.execSigb t a n f r s
  | .sigbC t a f => Sys2Proof.Machine.execSigbC t a f s
  | .sigx sx d z => Sys2Proof.Machine.execSigx sx d z s
  | .sigxScale sx d z => Sys2Proof.Machine.execSigxScale sx d z s
  | .sigg t a f => Sys2Proof.Machine.execSigg t a f s
  | .sigms a => Sys2Proof.Machine.execSigms a s
  | .sigml a => Sys2Proof.Machine.execSigml a s
  | .sigq d sx => Sys2Proof.Machine.execSigq d sx s
  | .spbind d a e n b => Sys2Proof.Machine.execSpbind d a e n b s
  | .spfree a => Sys2Proof.Machine.execSpfree a s
  | .sprun d a sx k => Sys2Proof.Machine.execSprun d a sx k s
  | .sprunW d a sx k => Sys2Proof.Machine.execSprunW d a sx k s
  | .spset a sx e => Sys2Proof.Machine.execSpset a sx e s
  | .ecancel d k => Sys2Proof.Machine.execEcancel d k s
  | .sprunR k => Sys2Proof.Machine.execSprunR k s
  | .eld sx a e b k => Sys2Proof.Machine.execEld sx a e b k s
  | .eldB a e b k => Sys2Proof.Machine.execEldB a e b k s
  | .est d a w k => Sys2Proof.Machine.execEst d a w k s
  | .estB v a h f k => Sys2Proof.Machine.execEstB v a h f k s
  | .ewatch d a k => Sys2Proof.Machine.execEwatch d a k s
  | .eatom d a b o sx w => Sys2Proof.Machine.execEatom d a b o sx w s
  | .eatomsc d a b o w => Sys2Proof.Machine.execEatomsc d a b o w s
  | .efence => Sys2Proof.Machine.execEfence s
  | .catom d a o w => Sys2Proof.Machine.execCatom d a o w s
  | .cjoin d q r j => Sys2Proof.Machine.execCjoin d q r j s
  | .cjoinCfg a j => Sys2Proof.Machine.execCjoinCfg a j s
  | .cjq d j => Sys2Proof.Machine.execCjq d j s
  | .coll a => Sys2Proof.Machine.execColl a s
  | .collR k => Sys2Proof.Machine.execCollR k s
  | .collX k => Sys2Proof.Machine.execCollX k s
  | .collw d k => Sys2Proof.Machine.execCollw d k s
  | .collq d sx k => Sys2Proof.Machine.execCollq d sx k s
  | .phase d a => Sys2Proof.Machine.execPhase d a s
  | .phaseq d sx => Sys2Proof.Machine.execPhaseq d sx s
  | .time d => Sys2Proof.Machine.execTime d s
  | .timew a => Sys2Proof.Machine.execTimew a s
  | .monset a m => Sys2Proof.Machine.execMonset a m s
  | .monrd d sx m => Sys2Proof.Machine.execMonrd d sx m s
  | .trap imm => Sys2Proof.Machine.execTrap imm s
  | .brk imm => Sys2Proof.Machine.execBrk imm s
  | .halt imm => Sys2Proof.Machine.execHalt imm s
  | .eret a sx => Sys2Proof.Machine.execEret a sx s
  | .eretRel a => Sys2Proof.Machine.execEretRel a s
  | .freeze d a => Sys2Proof.Machine.execFreeze d a s
  | .launch d a => Sys2Proof.Machine.execLaunch d a s
  | .csrr d c => Sys2Proof.Machine.execCsrr d c s
  | .csrw d a c => Sys2Proof.Machine.execCsrw d a c s
  | .csrs d a c => Sys2Proof.Machine.execCsrs d a c s
  | .csrc d a c => Sys2Proof.Machine.execCsrc d a c s
  | .handlerSpawn c k => Sys2Proof.Machine.execHandlerSpawn c k s
  | .clauseFill c k => Sys2Proof.Machine.execClauseFill c k s
  | .spawnGrant c => Sys2Proof.Machine.execSpawnGrant c s
  | .resultLatencyElapsed c k => Sys2Proof.Machine.execResultLatencyElapsed c k s
  | .sleepEnd c k => Sys2Proof.Machine.execSleepEnd c k s
  | .timewExpiry c k => Sys2Proof.Machine.execTimewExpiry c k s
  | .idleFlit c p => Sys2Proof.Machine.execIdleFlit c p s
  | .messageInject c => Sys2Proof.Machine.execMessageInject c s
  | .headFlitArrival c p ch => Sys2Proof.Machine.execHeadFlitArrival c p ch s
  | .triggerAction c ch => Sys2Proof.Machine.execTriggerAction c ch s
  | .addBlock c p ch => Sys2Proof.Machine.execAddBlock c p ch s
  | .onRenorm c p ch => Sys2Proof.Machine.execOnRenorm c p ch s
  | .onComplete c ch => Sys2Proof.Machine.execOnComplete c ch s
  | .onSettle c p ch => Sys2Proof.Machine.execOnSettle c p ch s
  | .configClassMessage c => Sys2Proof.Machine.execConfigClassMessage c s
  | .spliceAccept c => Sys2Proof.Machine.execSpliceAccept c s
  | .gmmaStep c k => Sys2Proof.Machine.execGmmaStep c k s
  | .drainMWrite c k => Sys2Proof.Machine.execDrainMWrite c k s
  | .copyComplete c => Sys2Proof.Machine.execCopyComplete c s
  | .sendbComplete c => Sys2Proof.Machine.execSendbComplete c s
  | .spbindReply c n => Sys2Proof.Machine.execSpbindReply c n s
  | .spindleUnitRequest c n => Sys2Proof.Machine.execSpindleUnitRequest c n s
  | .edgeRequestArrival id => Sys2Proof.Machine.execEdgeRequestArrival id s
  | .homeAccess id => Sys2Proof.Machine.execHomeAccess id s
  | .unitReply id => Sys2Proof.Machine.execUnitReply id s
  | .eldReturn id => Sys2Proof.Machine.execEldReturn id s
  | .estComplete id => Sys2Proof.Machine.execEstComplete id s
  | .ewatchArm id => Sys2Proof.Machine.execEwatchArm id s
  | .atomicReply id => Sys2Proof.Machine.execAtomicReply id s
  | .windowClose b win => Sys2Proof.Machine.execWindowClose b win s
  | .atomicLineWriteback b line => Sys2Proof.Machine.execAtomicLineWriteback b line s
  | .hostRead port pa len => Sys2Proof.Machine.execHostRead port pa len s
  | .hostWrite port pa bytes => Sys2Proof.Machine.execHostWrite port pa bytes s
  | .efenceClear c k => Sys2Proof.Machine.execEfenceClear c k s
  | .cjoinRelSend c k => Sys2Proof.Machine.execCjoinRelSend c k s
  | .catomPerform h => Sys2Proof.Machine.execCatomPerform h s
  | .joinArrival h => Sys2Proof.Machine.execJoinArrival h s
  | .joinFire c j => Sys2Proof.Machine.execJoinFire c j s
  | .faultOffer h => Sys2Proof.Machine.execFaultOffer h s
  | .faultReoffer c => Sys2Proof.Machine.execFaultReoffer c s
  | .faultRecordWrite src => Sys2Proof.Machine.execFaultRecordWrite src s
  | .fqheadWrite part v => Sys2Proof.Machine.execFqheadWrite part v s
  | .mqheadWrite b v => Sys2Proof.Machine.execMqheadWrite b v s
  | .migctlWrite b v => Sys2Proof.Machine.execMigctlWrite b v s
  | .queueDescriptorWrite q half v => Sys2Proof.Machine.execQueueDescriptorWrite q half v s
  | .bootcfgWrite v => Sys2Proof.Machine.execBootcfgWrite v s
  | .ocauseWrite v => Sys2Proof.Machine.execOcauseWrite v s
  | .nlCounterWrite b p n => Sys2Proof.Machine.execNlCounterWrite b p n s
  | .registerWrite port off len v => Sys2Proof.Machine.execRegisterWrite port off len v s
  | .etinv => Sys2Proof.Machine.execEtinv s
  | .retry => Sys2Proof.Machine.execRetry s
  | .mapcommit => Sys2Proof.Machine.execMapcommit s
  | .abort => Sys2Proof.Machine.execAbort s
  | .release => Sys2Proof.Machine.execRelease s
  | .dealerSelection => Sys2Proof.Machine.execDealerSelection s
  | .launchLoad => Sys2Proof.Machine.execLaunchLoad s
  | .exitReport c => Sys2Proof.Machine.execExitReport c s
  | .drainProbe part => Sys2Proof.Machine.execDrainProbe part s
  | .freezeWave h => Sys2Proof.Machine.execFreezeWave h s
  | .routerDrained c => Sys2Proof.Machine.execRouterDrained c s
  | .coreQuiescent c => Sys2Proof.Machine.execCoreQuiescent c s
  | .contextSave h => Sys2Proof.Machine.execContextSave h s
  | .freezeComplete part => Sys2Proof.Machine.execFreezeComplete part s
  | .inrushTokenGrant d => Sys2Proof.Machine.execInrushTokenGrant d s
  | .tokenReturn d => Sys2Proof.Machine.execTokenReturn d s
  | .unitGate c u => Sys2Proof.Machine.execUnitGate c u s
  | .phaseReply c k => Sys2Proof.Machine.execPhaseReply c k s
  | .arbiterSlotEnd d => Sys2Proof.Machine.execArbiterSlotEnd d s
  | .declarationStart c k => Sys2Proof.Machine.execDeclarationStart c k s
  | .declarationEnd c k => Sys2Proof.Machine.execDeclarationEnd c k s
  | .droopAlarm h mv => Sys2Proof.Machine.execDroopAlarm h mv s
  | .stretchEnd c => Sys2Proof.Machine.execStretchEnd c s
  | .halvedWindowEnd c => Sys2Proof.Machine.execHalvedWindowEnd c s
  | .overCurrentAlarm reticle => Sys2Proof.Machine.execOverCurrentAlarm reticle s
  | .ocHoldEnd reticle => Sys2Proof.Machine.execOcHoldEnd reticle s
  | .grantChange d => Sys2Proof.Machine.execGrantChange d s
  | .boostSupplySettled d => Sys2Proof.Machine.execBoostSupplySettled d s
  | .referenceLoss => Sys2Proof.Machine.execReferenceLoss s
  | .referenceReturn phase => Sys2Proof.Machine.execReferenceReturn phase s
  | .slewComplete => Sys2Proof.Machine.execSlewComplete s
  | .collMatch id => Sys2Proof.Machine.execCollMatch id s
  | .collChunkStep id b => Sys2Proof.Machine.execCollChunkStep id b s
  | .collComplete id c => Sys2Proof.Machine.execCollComplete id c s
  | .nirberFlitReceive b p bytes => Sys2Proof.Machine.execNirberFlitReceive b p bytes s
  | .nirberReplayTimeout b p => Sys2Proof.Machine.execNirberReplayTimeout b p s
  | .nirberRetrain b p => Sys2Proof.Machine.execNirberRetrain b p s
  | .retrainTimeout b p => Sys2Proof.Machine.execRetrainTimeout b p s
  | .nirberLinkTraining b p lanes => Sys2Proof.Machine.execNirberLinkTraining b p lanes s
  | .cxlLinkTraining b p kind => Sys2Proof.Machine.execCxlLinkTraining b p kind s
  | .heartbeat => Sys2Proof.Machine.execHeartbeat s
  | .heartbeatMiss n => Sys2Proof.Machine.execHeartbeatMiss n s
  | .powerOn stage => Sys2Proof.Machine.execPowerOn stage s
  | .discoveryFlit x y => Sys2Proof.Machine.execDiscoveryFlit x y s
  | .transientError site kind => Sys2Proof.Machine.execTransientError site kind s
  | .controlReplyTimeout c => Sys2Proof.Machine.execControlReplyTimeout c s
  | .lastingFailure site kind => Sys2Proof.Machine.execLastingFailure site kind s
  | .hubRequestArrival h => Sys2Proof.Machine.execHubRequestArrival h s
  | .hubReplyArrival c => Sys2Proof.Machine.execHubReplyArrival c s
  | .freezeAnswer c k => Sys2Proof.Machine.execFreezeAnswer c k s
  | .collAbortDone id => Sys2Proof.Machine.execCollAbortDone id s
  | .powerRemoval => Sys2Proof.Machine.execPowerRemoval s

end Sys2Proof.Machine
end

