-- ==== Sys2Proof/Machine/Uses.lean ====
section
/-! DEFINITION. The registers that each instruction reads and writes and the units that it needs, for the scoreboard and for
the occupancies (04 R88, R93). -/

namespace Sys2Proof.Machine

/-- The units of a core that an instruction can find taken (R88). -/
inductive FUnit where
  | divider | fdiv | vector | array | reblock | drain | dport | sendPort | cfgPort
  deriving DecidableEq, Repr

/-- What an instruction reads and writes, and the units it needs. -/
structure Use where
  reads : List Reg
  writes : List Reg
  units : List FUnit
  deriving DecidableEq, Repr

/-- The registers of a pair, and of two consecutive pairs. -/
def pair (r : BitVec 4) : List Reg := [.g r, .g (r + 1)]
def quad (r : BitVec 4) : List Reg := pair r ++ pair (r + 2)
/-- A register, or its pair in a doubleword form. -/
def wide (dbl : Bool) (r : BitVec 4) : List Reg := if dbl then pair r else [.g r]
/-- A CSR instruction on ASTAT waits for the instructions that write it (R115). -/
def status (c : BitVec 12) : List Reg := if c = 2 then [.astat] else []

/-- The registers and units of an instruction. Events are not issued and use none. -/
def use : Instr → Use
  | .bra _ => ⟨[], [], []⟩
  | .bal _ => ⟨[], [.g 15], []⟩
  | .beq a b _ => ⟨[.g a, .g b], [], []⟩
  | .bne a b _ => ⟨[.g a, .g b], [], []⟩
  | .blt a b _ => ⟨[.g a, .g b], [], []⟩
  | .bge a b _ => ⟨[.g a, .g b], [], []⟩
  | .blo a b _ => ⟨[.g a, .g b], [], []⟩
  | .bhs a b _ => ⟨[.g a, .g b], [], []⟩
  | .bz a _ => ⟨[.g a], [], []⟩
  | .bnz a _ => ⟨[.g a], [], []⟩
  | .jmp a _ => ⟨[.g a], [], []⟩
  | .jal d a _ => ⟨[.g a], [.g d], []⟩
  | .loop d _ => ⟨[.g d], [.g d], []⟩
  | .nop => ⟨[], [], []⟩
  | .yield => ⟨[], [], []⟩
  | .sleep a _ => ⟨[.g a], [], []⟩
  | .waitm d a => ⟨pair a, [.g d], []⟩
  | .spawn d a _ _ => ⟨[.g a], [.g d], []⟩
  | .exit => ⟨[], [], []⟩
  | .exitSplice => ⟨[], [], []⟩
  | .sel d a b c => ⟨[.g a, .g b, .g c], [.g d], []⟩
  | .add d a b => ⟨[.g a, .g b], [.g d], []⟩
  | .sub d a b => ⟨[.g a, .g b], [.g d], []⟩
  | .and d a b => ⟨[.g a, .g b], [.g d], []⟩
  | .or d a b => ⟨[.g a, .g b], [.g d], []⟩
  | .xor d a b => ⟨[.g a, .g b], [.g d], []⟩
  | .andn d a b => ⟨[.g a, .g b], [.g d], []⟩
  | .shl d a b => ⟨[.g a, .g b], [.g d], []⟩
  | .shr d a b => ⟨[.g a, .g b], [.g d], []⟩
  | .sar d a b => ⟨[.g a, .g b], [.g d], []⟩
  | .rol d a b => ⟨[.g a, .g b], [.g d], []⟩
  | .slt d a b => ⟨[.g a, .g b], [.g d], []⟩
  | .sltu d a b => ⟨[.g a, .g b], [.g d], []⟩
  | .min d a b => ⟨[.g a, .g b], [.g d], []⟩
  | .max d a b => ⟨[.g a, .g b], [.g d], []⟩
  | .minu d a b => ⟨[.g a, .g b], [.g d], []⟩
  | .maxu d a b => ⟨[.g a, .g b], [.g d], []⟩
  | .clz d a => ⟨[.g a], [.g d], []⟩
  | .ctz d a => ⟨[.g a], [.g d], []⟩
  | .popc d a => ⟨[.g a], [.g d], []⟩
  | .addi d a _ => ⟨[.g a], [.g d], []⟩
  | .slti d a _ => ⟨[.g a], [.g d], []⟩
  | .andi d a _ => ⟨[.g a], [.g d], []⟩
  | .ori d a _ => ⟨[.g a], [.g d], []⟩
  | .xori d a _ => ⟨[.g a], [.g d], []⟩
  | .shli d a _ => ⟨[.g a], [.g d], []⟩
  | .shri d a _ => ⟨[.g a], [.g d], []⟩
  | .sari d a _ => ⟨[.g a], [.g d], []⟩
  | .lui d _ => ⟨[], [.g d], []⟩
  | .add64 d a b => ⟨pair a ++ pair b, pair d, []⟩
  | .addi64 d a _ _ => ⟨pair a, pair d, []⟩
  | .lea d a b _ _ => ⟨.g b :: pair a, pair d, []⟩
  | .mul d a b => ⟨[.g a, .g b], [.g d], []⟩
  | .mulh d a b => ⟨[.g a, .g b], [.g d], []⟩
  | .mulhu d a b => ⟨[.g a, .g b], [.g d], []⟩
  | .div d a b => ⟨[.g a, .g b], [.g d], [.divider]⟩
  | .divu d a b => ⟨[.g a, .g b], [.g d], [.divider]⟩
  | .rem d a b => ⟨[.g a, .g b], [.g d], [.divider]⟩
  | .remu d a b => ⟨[.g a, .g b], [.g d], [.divider]⟩
  | .bfx d a _ _ _ => ⟨[.g a], [.g d], []⟩
  | .bfi d a _ _ => ⟨[.g a, .g d], [.g d], []⟩
  | .fadd d a b _ => ⟨[.g a, .g b], [.g d], []⟩
  | .fsub d a b _ => ⟨[.g a, .g b], [.g d], []⟩
  | .fmul d a b _ => ⟨[.g a, .g b], [.g d], []⟩
  | .fma d a b _ => ⟨[.g a, .g b, .g d], [.g d], []⟩
  | .fmin d a b => ⟨[.g a, .g b], [.g d], []⟩
  | .fmax d a b => ⟨[.g a, .g b], [.g d], []⟩
  | .fabs d a => ⟨[.g a], [.g d], []⟩
  | .fneg d a => ⟨[.g a], [.g d], []⟩
  | .fcmp d a b _ => ⟨[.g a, .g b], [.g d], []⟩
  | .fdiv d a b _ => ⟨[.g a, .g b], [.g d], [.fdiv]⟩
  | .fsqrt d a _ => ⟨[.g a], [.g d], [.fdiv]⟩
  | .fcvt d a _ _ _ => ⟨[.g a], [.g d], []⟩
  | .vadd d a b _ k _ => ⟨[.v a, .v b, .m k], [.v d], [.vector]⟩
  | .vsub d a b _ k _ => ⟨[.v a, .v b, .m k], [.v d], [.vector]⟩
  | .vmul d a b _ k _ => ⟨[.v a, .v b, .m k], [.v d], [.vector]⟩
  | .vfma d a b c k _ => ⟨[.v a, .v b, .v c, .m k], [.v d], [.vector]⟩
  | .vmin d a b k _ => ⟨[.v a, .v b, .m k], [.v d], [.vector]⟩
  | .vmax d a b k _ => ⟨[.v a, .v b, .m k], [.v d], [.vector]⟩
  | .vabs d a _ k _ => ⟨[.v a, .m k], [.v d], [.vector]⟩
  | .vneg d a _ k _ => ⟨[.v a, .m k], [.v d], [.vector]⟩
  | .vand d a b k _ => ⟨[.v a, .v b, .m k], [.v d], [.vector]⟩
  | .vor d a b k _ => ⟨[.v a, .v b, .m k], [.v d], [.vector]⟩
  | .vxor d a b k _ => ⟨[.v a, .v b, .m k], [.v d], [.vector]⟩
  | .vshl d a b k _ => ⟨[.v a, .v b, .m k], [.v d], [.vector]⟩
  | .vshr d a b _ k _ => ⟨[.v a, .v b, .m k], [.v d], [.vector]⟩
  | .vcmp d a b _ k _ => ⟨[.v a, .v b, .m k], [.m d], [.vector]⟩
  | .vsel d a b k _ => ⟨[.v a, .v b, .m k], [.v d], [.vector]⟩
  | .vshuf d a b k _ => ⟨[.v a, .v b, .m k], [.v d], [.vector]⟩
  | .vcvt d a _ _ k _ _ => ⟨[.v a, .m k], [.v d], [.vector]⟩
  | .vblk d a _ k _ => ⟨[.v a, .m k], [.v d], [.vector]⟩
  | .vscl d a _ k _ => ⟨[.v a, .m k], [.v d], [.vector]⟩
  | .vmov d a k _ => ⟨[.v a, .m k], [.v d], [.vector]⟩
  | .vbcast d a k _ => ⟨[.g a, .m k], [.v d], [.vector]⟩
  | .vins d a _ _ => ⟨[.g a], [.v d], [.vector]⟩
  | .vext d a _ _ => ⟨[.v a], [.g d], [.vector]⟩
  | .vmovMg d a => ⟨[.g a], [.m d], [.vector]⟩
  | .vmovGm d a => ⟨[.m a], [.g d], [.vector]⟩
  | .vrcp d a k _ => ⟨[.v a, .m k], [.v d], [.vector]⟩
  | .vrsq d a k _ => ⟨[.v a, .m k], [.v d], [.vector]⟩
  | .vred d a _ _ k _ => ⟨[.v a, .m k], [.v d], [.vector]⟩
  | .ld d a sx _ => ⟨[.g a], wide (sx == 3) d, [.dport]⟩
  | .st d a sx _ => ⟨.g a :: wide (sx == 3) d, [], [.dport]⟩
  | .ldv d a _ _ => ⟨pair a, [.v d], [.dport]⟩
  | .stv d a _ _ => ⟨.v d :: pair a, [], [.dport]⟩
  | .ldt t a _ => ⟨[.g a], [.t t], [.dport]⟩
  | .stt t a _ => ⟨[.g a, .t t], [], [.dport]⟩
  | .copy d a b _ => ⟨[.g a, .g b, .g d], [], []⟩
  | .copyB d a b _ => ⟨[.g b, .g d] ++ (if a.getLsbD 0 then [.g a] else pair a), [], []⟩
  | .latom d a b _ w => ⟨.g a :: wide (w == 3) b ++ wide (w == 3) d, wide (w == 3) d, [.dport]⟩
  | .bdecl a _ => ⟨[.g a], [], [.dport]⟩
  | .bsetEmpty a _ => ⟨[.g a], [], []⟩
  | .bsetFull a _ => ⟨[.g a], [], []⟩
  | .bsetDrain a _ => ⟨[.g a], [], []⟩
  | .bsetRel a _ => ⟨[.g a], [], []⟩
  | .bsetUndecl a _ => ⟨[.g a], [], []⟩
  | .bqry d _ _ => ⟨[], [.g d], []⟩
  | .twany d a _ => ⟨pair a, [.g d], []⟩
  | .twall a _ => ⟨pair a, [], []⟩
  | .tff d a => ⟨pair a, [.g d], []⟩
  | .tclr a => ⟨pair a, [], []⟩
  | .send _ sx _ h => ⟨if h = 1 then pair sx else quad sx, [], [.sendPort]⟩
  | .sendv _ _ v => ⟨[.v v], [], [.sendPort]⟩
  | .sendt _ t => ⟨[.t t], [], [.sendPort]⟩
  | .sendb _ sx _ _ => ⟨pair sx, [], [.dport]⟩
  | .trig _ sx => ⟨[.g sx], [], [.sendPort]⟩
  | .recv _ sx => ⟨[], pair sx, []⟩
  | .recvV _ v => ⟨[], [.v v], []⟩
  | .waitch _ sx => ⟨[], [.g sx], []⟩
  | .join sx => ⟨pair sx, [], []⟩
  | .rcfgR _ sx => ⟨[.g sx], [], [.cfgPort]⟩
  | .rcfgT _ sx => ⟨[.g sx], [], [.cfgPort]⟩
  | .rcfgQr _ sx => ⟨[], [.g sx], [.cfgPort]⟩
  | .rcfgQt _ sx => ⟨[], [.g sx], [.cfgPort]⟩
  | .rred _ sx => ⟨[.g sx], [], [.cfgPort, .dport]⟩
  | .rnq _ sx _ => ⟨[], [.g sx], [.cfgPort]⟩
  | .nbrq sx _ => ⟨[], [.g sx], [.cfgPort]⟩
  | .chflush _ sx => ⟨[], [.g sx], [.cfgPort]⟩
  | .tshape t _ _ _ => ⟨[], [.t t], []⟩
  | .tparm a => ⟨[.g a], [.tpr], []⟩
  | .tzero t _ => ⟨[], [.t t], []⟩
  | .accz a => ⟨[], [.acc a], []⟩
  | .tstat d k imm => ⟨if k = 0 then [.t imm] else if k = 1 then [.acc (imm.truncate 2)] else [.tpr], [.g d], []⟩
  | .tmovv t v _ d _ => ⟨if d = 0 then [.v v] else [.t t], if d = 0 then [.t t] else [.v v], []⟩
  | .tmovt t a _ => ⟨[.t a], [.t t], []⟩
  | .txp t a _ => ⟨[.t a], [.t t], [.reblock]⟩
  | .tblk t a _ _ => ⟨[.t a], [.t t], [.reblock]⟩
  | .tcvt t a _ _ _ => ⟨[.t a], [.t t], [.reblock]⟩
  | .mma a b c _ _ _ _ => ⟨[.t a, .t b], [.acc c], [.array]⟩
  | .mmaZ a b c _ _ _ _ => ⟨[.t a, .t b], [.acc c], [.array]⟩
  | .gmma a c _ _ _ _ _ => ⟨[.g a], [.acc c], [.array, .dport]⟩
  | .drainT t c _ _ => ⟨[.acc c, .tpr], [.t t], [.drain]⟩
  | .drainV v _ _ c _ _ => ⟨[.acc c, .tpr], [.v v], [.drain]⟩
  | .drainM d c _ _ => ⟨[.g d, .acc c, .tpr], [], [.drain, .dport]⟩
  | .sigh a _ _ _ => ⟨[.t a], [.proj], [.array]⟩
  | .sigb t a _ _ _ => ⟨[.t a, .proj], [.t t, .map], [.array]⟩
  | .sigbC t a _ => ⟨[.t a, .map], [.t t], [.array]⟩
  | .sigx sx d _ => ⟨[.acc sx, .map], [.acc d], [.array]⟩
  | .sigxScale sx d _ => ⟨[.acc sx, .map], [.acc d], [.array]⟩
  | .sigg t a _ => ⟨[.t a, .map], [.t t], [.array]⟩
  | .sigms a => ⟨[.g a, .map], [], [.dport]⟩
  | .sigml a => ⟨[.g a], [.map], [.dport]⟩
  | .sigq d _ => ⟨[.proj, .map], [.g d], []⟩
  | .spbind d _ _ _ _ => ⟨[], [.g d], []⟩
  | .spfree _ => ⟨[], [], []⟩
  | .sprun d a _ _ => ⟨[.g a, .g d], [], []⟩
  | .sprunW d a _ _ => ⟨.g d :: pair a, [], []⟩
  | .spset a _ _ => ⟨pair a, [], []⟩
  | .ecancel d _ => ⟨[], [.g d], []⟩
  | .sprunR _ => ⟨[], [], []⟩
  | .eld _ a _ _ _ => ⟨pair a, [], []⟩
  | .eldB a _ _ _ => ⟨quad a, [], []⟩
  | .est d a w _ => ⟨pair a ++ wide (w == 1) d, [], []⟩
  | .estB v a _ _ _ => ⟨.v v :: quad a, [], []⟩
  | .ewatch d a _ => ⟨pair a ++ pair d, [], []⟩
  | .eatom d a b _ _ w => ⟨pair a ++ wide (w == 1) b ++ wide (w == 1) d, wide (w == 1) d, []⟩
  | .eatomsc d a b _ w => ⟨pair a ++ wide (w == 1) b ++ wide (w == 1) d, wide (w == 1) d, []⟩
  | .efence => ⟨[], [], []⟩
  | .catom d a o w => ⟨.g a :: (if o = 7 then (if w = 1 then quad d else pair d) else wide (w == 1) d), wide (w == 1) d, []⟩
  | .cjoin d _ _ _ => ⟨[], [.g d], []⟩
  | .cjoinCfg a _ => ⟨[.g a], [], []⟩
  | .cjq d _ => ⟨[], [.g d], []⟩
  | .coll a => ⟨[.g a], [], [.dport]⟩
  | .collR _ => ⟨[], [], []⟩
  | .collX _ => ⟨[], [], []⟩
  | .collw d _ => ⟨[], [.g d], []⟩
  | .collq d _ _ => ⟨[], [.g d], []⟩
  | .phase d a => ⟨[.g a], [.g d], []⟩
  | .phaseq d _ => ⟨[], [.g d], []⟩
  | .time d => ⟨[], pair d, []⟩
  | .timew a => ⟨pair a, [], []⟩
  | .monset a _ => ⟨[.g a], [], []⟩
  | .monrd d _ _ => ⟨[], [.g d], []⟩
  | .trap _ => ⟨[], [], []⟩
  | .brk _ => ⟨[], [], []⟩
  | .halt _ => ⟨[], [], []⟩
  | .eret a _ => ⟨[.g a], [], []⟩
  | .eretRel a => ⟨[.g a], [], []⟩
  | .freeze d a => ⟨[.g a], [.g d], []⟩
  | .launch d a => ⟨pair a, [.g d], []⟩
  | .csrr d c => ⟨status c, [.g d], []⟩
  | .csrw d a c => ⟨.g a :: status c, [.g d], []⟩
  | .csrs d a c => ⟨.g a :: status c, [.g d], []⟩
  | .csrc d a c => ⟨.g a :: status c, [.g d], []⟩
  | .handlerSpawn _ _ => ⟨[], [], []⟩
  | .clauseFill _ _ => ⟨[], [], []⟩
  | .spawnGrant _ => ⟨[], [], []⟩
  | .resultLatencyElapsed _ _ => ⟨[], [], []⟩
  | .sleepEnd _ _ => ⟨[], [], []⟩
  | .timewExpiry _ _ => ⟨[], [], []⟩
  | .idleFlit _ _ => ⟨[], [], []⟩
  | .messageInject _ => ⟨[], [], []⟩
  | .headFlitArrival _ _ _ => ⟨[], [], []⟩
  | .triggerAction _ _ => ⟨[], [], []⟩
  | .addBlock _ _ _ => ⟨[], [], []⟩
  | .onRenorm _ _ _ => ⟨[], [], []⟩
  | .onComplete _ _ => ⟨[], [], []⟩
  | .onSettle _ _ _ => ⟨[], [], []⟩
  | .configClassMessage _ => ⟨[], [], []⟩
  | .spliceAccept _ => ⟨[], [], []⟩
  | .gmmaStep _ _ => ⟨[], [], []⟩
  | .drainMWrite _ _ => ⟨[], [], []⟩
  | .copyComplete _ => ⟨[], [], []⟩
  | .sendbComplete _ => ⟨[], [], []⟩
  | .spbindReply _ _ => ⟨[], [], []⟩
  | .spindleUnitRequest _ _ => ⟨[], [], []⟩
  | .edgeRequestArrival _ => ⟨[], [], []⟩
  | .homeAccess _ => ⟨[], [], []⟩
  | .unitReply _ => ⟨[], [], []⟩
  | .eldReturn _ => ⟨[], [], []⟩
  | .estComplete _ => ⟨[], [], []⟩
  | .ewatchArm _ => ⟨[], [], []⟩
  | .atomicReply _ => ⟨[], [], []⟩
  | .windowClose _ _ => ⟨[], [], []⟩
  | .atomicLineWriteback _ _ => ⟨[], [], []⟩
  | .hostRead _ _ _ => ⟨[], [], []⟩
  | .hostWrite _ _ _ => ⟨[], [], []⟩
  | .efenceClear _ _ => ⟨[], [], []⟩
  | .cjoinRelSend _ _ => ⟨[], [], []⟩
  | .catomPerform _ => ⟨[], [], []⟩
  | .joinArrival _ => ⟨[], [], []⟩
  | .joinFire _ _ => ⟨[], [], []⟩
  | .faultOffer _ => ⟨[], [], []⟩
  | .faultReoffer _ => ⟨[], [], []⟩
  | .faultRecordWrite _ => ⟨[], [], []⟩
  | .fqheadWrite _ _ => ⟨[], [], []⟩
  | .mqheadWrite _ _ => ⟨[], [], []⟩
  | .migctlWrite _ _ => ⟨[], [], []⟩
  | .queueDescriptorWrite _ _ _ => ⟨[], [], []⟩
  | .bootcfgWrite _ => ⟨[], [], []⟩
  | .ocauseWrite _ => ⟨[], [], []⟩
  | .nlCounterWrite _ _ _ => ⟨[], [], []⟩
  | .registerWrite _ _ _ _ => ⟨[], [], []⟩
  | .etinv => ⟨[], [], []⟩
  | .retry => ⟨[], [], []⟩
  | .mapcommit => ⟨[], [], []⟩
  | .abort => ⟨[], [], []⟩
  | .release => ⟨[], [], []⟩
  | .dealerSelection => ⟨[], [], []⟩
  | .launchLoad => ⟨[], [], []⟩
  | .exitReport _ => ⟨[], [], []⟩
  | .drainProbe _ => ⟨[], [], []⟩
  | .freezeWave _ => ⟨[], [], []⟩
  | .routerDrained _ => ⟨[], [], []⟩
  | .coreQuiescent _ => ⟨[], [], []⟩
  | .contextSave _ => ⟨[], [], []⟩
  | .freezeComplete _ => ⟨[], [], []⟩
  | .inrushTokenGrant _ => ⟨[], [], []⟩
  | .tokenReturn _ => ⟨[], [], []⟩
  | .unitGate _ _ => ⟨[], [], []⟩
  | .phaseReply _ _ => ⟨[], [], []⟩
  | .arbiterSlotEnd _ => ⟨[], [], []⟩
  | .declarationStart _ _ => ⟨[], [], []⟩
  | .declarationEnd _ _ => ⟨[], [], []⟩
  | .droopAlarm _ _ => ⟨[], [], []⟩
  | .stretchEnd _ => ⟨[], [], []⟩
  | .halvedWindowEnd _ => ⟨[], [], []⟩
  | .overCurrentAlarm _ => ⟨[], [], []⟩
  | .ocHoldEnd _ => ⟨[], [], []⟩
  | .grantChange _ => ⟨[], [], []⟩
  | .boostSupplySettled _ => ⟨[], [], []⟩
  | .referenceLoss => ⟨[], [], []⟩
  | .referenceReturn _ => ⟨[], [], []⟩
  | .slewComplete => ⟨[], [], []⟩
  | .collMatch _ => ⟨[], [], []⟩
  | .collChunkStep _ _ => ⟨[], [], []⟩
  | .collComplete _ _ => ⟨[], [], []⟩
  | .nirberFlitReceive _ _ _ => ⟨[], [], []⟩
  | .nirberReplayTimeout _ _ => ⟨[], [], []⟩
  | .nirberRetrain _ _ => ⟨[], [], []⟩
  | .retrainTimeout _ _ => ⟨[], [], []⟩
  | .nirberLinkTraining _ _ _ => ⟨[], [], []⟩
  | .cxlLinkTraining _ _ _ => ⟨[], [], []⟩
  | .heartbeat => ⟨[], [], []⟩
  | .heartbeatMiss _ => ⟨[], [], []⟩
  | .powerOn _ => ⟨[], [], []⟩
  | .discoveryFlit _ _ => ⟨[], [], []⟩
  | .transientError _ _ => ⟨[], [], []⟩
  | .controlReplyTimeout _ => ⟨[], [], []⟩
  | .lastingFailure _ _ => ⟨[], [], []⟩
  | .hubRequestArrival _ => ⟨[], [], []⟩
  | .hubReplyArrival _ => ⟨[], [], []⟩
  | .freezeAnswer _ _ => ⟨[], [], []⟩
  | .collAbortDone _ => ⟨[], [], []⟩
  | .powerRemoval => ⟨[], [], []⟩

end Sys2Proof.Machine
end

