-- ==== Sys2Proof/Machine/Issue.lean ====
section
/-! DEFINITION. A core cycle: what falls due in it, which strand issues, the checks of R33, and its end; the scheduling of
the rest of the module's work (02 R33–R43, 04 R88–R94, 13 R335, R340–R344, 16 R412). -/

namespace Sys2Proof.Machine

/-- A state after a meaning that answers one. -/
def after (i : State → Out) (s : State) : State :=
  match i s with
  | .next t => t
  | _ => s

/-! ### The checks at issue (R33) -/

/-- Class 0 admits every major but the vector and tensor majors, class 1 also the vector majors (R37). -/
def classAdmits (cls major : Nat) : Bool :=
  let vec := decide (0x14 ≤ major) && decide (major ≤ 0x19)
  let tensor := decide (0x28 ≤ major) && decide (major ≤ 0x32)
  decide (2 ≤ cls) || !tensor && (decide (cls = 1) || !vec)
/-- What an indivisible clause must not hold (R38). -/
def outward (major : Nat) (i : Instr) : Bool :=
  major == 0x22 || major == 0x2B || (decide (0x34 ≤ major) && decide (major ≤ 0x38)) ||
    (match i with | .launch _ _ => true | .freeze _ _ => true | _ => false)
/-- A named register lies inside the strand's granted share (R46). -/
def Strand.grants (t : Strand) : Reg → Bool
  | .v i => decide (i.toNat < t.vgrant)
  | .t i => decide (i.toNat < t.tgrant)
  | .acc i => decide (i.toNat < t.agrant)
  | _ => true
/-- Every register an instruction names is granted. -/
def Strand.grantsAll (t : Strand) (i : Instr) : Bool := (use i).reads.all t.grants && (use i).writes.all t.grants
/-- The checks of Table 2.3 on the word at a strand's pc, in their order: the instruction, or the fault. No chapter gives EINFO
of NOREG, and the model puts 0 (DESIGN CHOICE, log entry 48). -/
def Strand.check (t : Strand) : Except Trap Instr :=
  let w := t.curWord
  let major := w.toNat / 2 ^ 26
  let cl := fun (sub : Nat) => mkTrap cILLCL (sub + t.buf.addr.toNat * 65536)
  if isHeader w then .error (cl 1)
  else match decode w with
    | .error _ => .error ⟨cILLOP, w, 0⟩
    | .ok i =>
      if !operandsLegal i then .error ⟨cILLOP, w, 0⟩
      else if !classAdmits (hdrClass t.buf.hdr) major then .error (cl 5)
      else if hdrIndiv t.buf.hdr && outward major i then .error (cl 6)
      else if !t.grantsAll i then .error (mkTrap cNOREG 0)
      else .ok i

/-! ### Eligibility (R88, R93) -/

/-- No entry of a register is pending. -/
def Strand.clear (t : Strand) (r : Reg) : Bool := t.pend.all fun p => p.reg != r
/-- A register may be read: g0 and m0 never wait (R93). -/
def Strand.canRead (t : Strand) (r : Reg) : Bool := r == .g 0 || r == .m 0 || t.clear r
/-- An MMA chains on an accumulator that only MMAs keep pending (R216). -/
def chains : Instr → Option (BitVec 2)
  | .mma _ _ c _ _ _ _ => some c
  | .mmaZ _ _ c _ _ _ _ => some c
  | _ => none
/-- A register may be written by an instruction. -/
def Strand.canWrite (t : Strand) (i : Instr) (r : Reg) : Bool :=
  t.clear r || (match chains i with | some c => r == .acc c && t.pend.all fun p => p.reg != r || p.mma | none => false)
/-- A unit of the core accepts an instruction of slot k: a running GMMA keeps the array, and a DRAIN.M keeps its strand from
the data port until its writes are made (R233, R237). -/
def Core.accepts (c : Core) (k : BitVec 3) (u : FUnit) : Bool :=
  let x := c.units
  match u with
  | .divider => decide (x.divider ≤ c.cc)
  | .fdiv => decide (x.fdiv ≤ c.cc)
  | .vector => decide (x.vector ≤ c.cc)
  | .array => decide (x.array ≤ c.cc) && slots.all fun j => (c.strand j).hold != .gmma
  | .reblock => decide (x.reblock ≤ c.cc)
  | .drain => decide (x.drain ≤ c.cc)
  | .dport => c.portFree && c.drainM.all fun w => !(w.own && w.slot == k)
  | .sendPort => decide (x.sendPort ≤ c.cc)
  | .cfgPort => decide (x.cfgPort ≤ c.cc)
/-- A core's outstanding collectives (R328). -/
def Core.collsOut (c : Core) : Nat := (tagNums.filter fun k => (c.tag k).holder == .coll && (c.tag k).live).length
/-- An edge operation may issue: no earlier EFENCE of its strand stands, and fewer than 32 operations are outstanding
(R263, R299). -/
def State.edgeRoom (s : State) (l : Nat) (t : Strand) : Bool := t.fences == [] && decide (s.edgeCount l + (s.core l).collsOut < 32)
/-- The queues and limits that an instruction needs room in (R154, R181, R197, R263, R284, R299, R328, R382). -/
def State.room (s : State) (l : Nat) (k : BitVec 3) (i : Instr) : Bool :=
  let c := s.core l
  let t := c.strand k
  let bound := fun (n : BitVec 4) => (c.stream n).st != .binding
  match i with
  | .send _ _ _ _ => c.injectRoom 2
  | .trig _ _ => c.injectRoom 2
  | .sendv _ f _ => c.injectRoom (vecLen f + 1)
  | .sendt _ n => c.injectRoom (tileFlits (rd c.tiles (t.tIx n)).fmt)
  | .sendb _ _ _ _ => decide ((c.inject.filter Inject.isSendb).length < 4)
  | .copy _ _ _ _ => decide (c.copies.length < 4)
  | .copyB _ _ _ _ => decide (c.copies.length < 4)
  | .spbind _ a _ _ _ => bound a
  | .spfree a => bound a
  | .spset _ n _ => bound n
  | .sprun _ _ n _ => bound n && s.edgeRoom l t && decide ((c.stream n).rounds.length < 4)
  | .sprunW _ _ n _ => bound n && s.edgeRoom l t && decide ((c.stream n).rounds.length < 4)
  | .eld _ _ _ _ _ => s.edgeRoom l t
  | .eldB _ _ _ _ => s.edgeRoom l t
  | .est _ _ _ _ => s.edgeRoom l t
  | .estB _ _ _ _ _ => s.edgeRoom l t
  | .ewatch _ _ _ => s.edgeRoom l t
  | .eatom _ _ _ _ _ _ => s.edgeRoom l t
  | .eatomsc _ _ _ _ _ => s.edgeRoom l t
  | .coll _ => decide (c.collsOut < 4) && decide (s.edgeCount l + c.collsOut < 32)
  | .launch _ _ => t.edgeIds == []
  | _ => true
/-- How the execution in progress is covered once the instruction at pc issues (R340). One whose first instruction had to wait for a
gated unit was covered in the cycle in which it would have issued (R412; DEDUCED, log entry 30). -/
def Strand.begin (t : Strand) : Strand :=
  if t.cover = .claimed then { t with cover := .covered }
  else if t.cover ≠ .fresh then t
  else if hdrClass t.buf.hdr ≠ 3 then { t with cover := .plain }
  else if t.decl.st ≠ .none then { t with cover := .covered }
  else { t with cover := .uncovered, undecl := satInc t.undecl }
/-- A covered execution's array instructions wait until its declaration is active (R340). -/
def Strand.awaitsStart (t : Strand) : Bool := t.begin.cover == .covered && (t.decl.st == .requested || t.decl.st == .admitted)
/-- The strand could issue as far as its clause, holds and transfers go; on a frozen core only inside an indivisible clause
that has begun (R38, R88). -/
def Core.stands (c : Core) (k : BitVec 3) : Bool :=
  let t := c.strand k
  t.run == .ready && !t.frozen && t.fill.isNone && t.buf.valid && t.hold == .none && decide (t.notBefore ≤ c.cc) && (!c.frozen || t.indivisible)
/-- An instruction of slot k finds its registers, units and queues free (R88, R93). -/
def State.free_ (s : State) (l : Nat) (k : BitVec 3) (i : Instr) : Bool :=
  let c := s.core l
  let t := c.strand k
  let u := use i
  u.reads.all t.canRead && u.writes.all (t.canWrite i) && u.units.all (c.accepts k) && s.room l k i &&
    !(u.units.contains .array && t.awaitsStart)
/-- The strand of slot k is eligible in this core cycle (R88). -/
def State.eligible (s : State) (l : Nat) (k : BitVec 3) : Bool :=
  let t := (s.core l).strand k
  (s.core l).stands k &&
    (match decode t.curWord with
    | .ok i => !operandsLegal i || s.free_ l k i
    | .error _ => true)

/-! ### Selection (R89–R92) -/

/-- The occupancy score (R92). -/
def Core.score (c : Core) (t : Strand) : Nat :=
  bobNums.foldl (fun m n =>
    let b := c.bobbin n
    if !(t.inbind.getLsbD n.toNat && b.valid) then m
    else if b.st = .full ∨ b.st = .draining then Nat.max m 256
    else Nat.max m (256 * b.fill.toNat / b.size.toNat)) 0
/-- The slots that a measure puts highest. -/
def topBy (f : BitVec 3 → Nat) (l : List (BitVec 3)) : List (BitVec 3) := l.filter fun k => l.all fun j => decide (f j ≤ f k)
/-- The strand of slot k yielded in the core cycle before this one (R90). -/
def Core.yields (c : Core) (k : BitVec 3) : Bool := match c.yielded with | some (j, n) => j == k && n + 1 == c.cc | none => false
/-- Table 4.4 on the eligible slots. Where no strand of the core has issued yet, the spec names no last issuing slot, and the
round-robin scan starts at slot 0 (DESIGN CHOICE, log entry 48). -/
def Core.choose (c : Core) (es : List (BitVec 3)) : Option (BitVec 3) :=
  let stamp := fun k => (c.strand k).stamp
  let cls := fun k => (c.strand k).pri
  let aged := es.filter fun k => decide (stamp k + 256 ≤ c.cc)
  if c.pol = 1 then
    let last := match c.lastIssue with | some k => k.toNat | none => 7
    leastBy (fun k => (k.toNat + 7 - last) % 8) es
  else if aged ≠ [] then leastBy stamp aged
  else if c.pol = 2 then leastBy stamp (topBy (fun k => c.score (c.strand k)) (topBy cls es))
  else
    match c.lastIssue with
    | some k =>
      if !c.lastGone && !c.yields k && es.contains k && es.all fun j => decide (cls j ≤ cls k) then some k
      else leastBy stamp (topBy cls es)
    | none => leastBy stamp (topBy cls es)
/-- The selection passes over a strand that yielded in the core cycle before, unless it alone is eligible (R90). That also holds
where no other strand was eligible as the YIELD issued, for which R101 promises no effect (DESIGN CHOICE, log entry 48). -/
def Core.select (c : Core) (es : List (BitVec 3)) : Option (BitVec 3) :=
  if es.all c.yields then c.choose es else c.choose (es.filter fun k => !c.yields k)
/-- The gated unit that the instruction of slot k needs and does not find awake: the vector unit, or the tensor unit
(R341). -/
def Core.sleeping (c : Core) (k : BitVec 3) : Option Bool :=
  match (c.strand k).check with
  | .error _ => none
  | .ok i =>
    let u := (use i).units
    if u.contains .vector ∧ !c.vecOn then some true
    else if (u.contains .array || u.contains .reblock || u.contains .drain) ∧ !c.tenOn then some false
    else none
/-- The strand that issues in this cycle: a strand whose unit sleeps asks for its tokens, which an uncrowded pool grants in
this cycle, and the selection passes over it (R412). -/
def State.pick (s : State) (l : Nat) : Nat → State × Option (BitVec 3)
  | 0 => (s, none)
  | n + 1 =>
    match (s.core l).select (slots.filter fun k => s.eligible l k) with
    | none => (s, none)
    | some k => match (s.core l).sleeping k with
      | none => (s, some k)
      | some vec => (s.needUnit l k vec).pick l n

/-! ### Issue -/

/-- A GMMA's progress is kept only for an issue of that GMMA (R236). -/
def Strand.keepGmma (t : Strand) : Strand :=
  match t.gmma with
  | some q => if q.pc = t.pc then t else { t with gmma := none }
  | none => t
/-- The strand of slot k of core l is the one that issues (R89, R340). -/
def State.enter (s : State) (l : Nat) (k : BitVec 3) : State :=
  ({ s with cur := l, slot := k } : State).modCore l fun c =>
    { c.modStrand k fun t => { t.begin.keepGmma with stamp := c.cc } with lastIssue := some k, lastGone := false }
/-- The results of a vector instruction that has issued are due no later than this (R341): those entries of the scoreboard
behind the n that stood before it. -/
def State.noteVector (s : State) (l : Nat) (k : BitVec 3) (i : Instr) (n : Nat) : State :=
  if (use i).units.contains .vector then
    s.modCore l fun c =>
      { c with vecUntil := ((c.strand k).pend.drop n).foldl (fun m p => match p.due with | some n => Nat.max m n | none => m) (Nat.max c.vecUntil (c.cc + 1)) }
  else s
/-- The strand of slot k issues: its word is checked, then executed (R33). -/
def State.issue (s : State) (l : Nat) (k : BitVec 3) : Out :=
  let s := s.enter l k
  match s.st.check with
  | .error f => .next (s.trap f)
  | .ok i => match exec i s with
    | .next t => .next (t.noteVector l k i s.st.pend.length)
    | o => o

/-! ### What falls due in a core cycle -/

/-- Later effects whose cycle has come (R157, R170, R376). -/
def State.applyLater (s : State) (l : Nat) (o : Later) : State :=
  match o with
  | .bobbin n b => s.modWake l fun c => c.declare n b
  | .route ch v => s.modCore l fun c => { c with routes := wr c.routes ch v }
  | .csr o => s.performCsr l o
  | .resume k a h i => s.modCore l fun c => c.modStrand k fun t => if t.run = .stopped then t.resume c.cc a h i else t
  | .release k => if ((s.core l).strand k).run = .stopped then s.freeSlot l k ((s.core l).cc + 1) else s
/-- The later effects of a core that are due. -/
def State.laterDue (s : State) (l : Nat) : State :=
  let c := s.core l
  if c.later = [] then s
  else
    let due := c.later.filter fun x => decide (x.1 ≤ c.cc)
    due.foldl (fun s x => s.applyLater l x.2) (s.modCore l fun c => { c with later := c.later.filter fun x => !decide (x.1 ≤ c.cc) })
/-- The events of one strand slot that can be due. -/
def Core.slotEvents (c : Core) (l : Nat) (calm : Bool) (k : BitVec 3) : List (State → Out) :=
  let t := c.strand k
  let n := k.toNat
  let on := fun (b : Bool) (i : State → Out) => if b then [i] else []
  if !t.resident then []
  else
    on (t.pend != [] || t.flags != []) (execResultLatencyElapsed l n)
      ++ (match t.wait with | .sleep _ => [execSleepEnd l n] | .timew _ => [execTimewExpiry l n] | _ => [])
      ++ on (t.phases != []) (execPhaseReply l n) ++ on (t.decl.st == .admitted || t.phases != []) (execDeclarationStart l n)
      ++ on (t.decl.st == .active) (execDeclarationEnd l n)
      ++ on (t.handlerDue && calm) (execHandlerSpawn l n) ++ on (t.fences != []) (execEfenceClear l n) ++ on (t.rel != []) (execCjoinRelSend l n)
      ++ on (t.hold == .gmma) (execGmmaStep l n)
/-- The events of core l that can be due in its cycle, in their order; what is not due does nothing. -/
def State.dueEvents (s : State) (l : Nat) : List (State → Out) :=
  let c := s.core l
  let on := fun (b : Bool) (i : State → Out) => if b then [i] else []
  let calm := slots.all fun k => !(c.strand k).indivisible
  (c.drainM.map fun w => execDrainMWrite l w.slot.toNat) ++ (slots.map fun k => c.slotEvents l calm k).flatten ++ on (c.copies != []) (execCopyComplete l) ++ on (c.inject.any Inject.isSendb) (execSendbComplete l)
    ++ on (c.vecOn && decide (256 ≤ c.vecIdle)) (execUnitGate l 0) ++ on (c.tenOn && decide (1024 ≤ c.tenIdle)) (execUnitGate l 1)
    ++ on (c.stretchLeft == 1) (execStretchEnd l) ++ on (c.halfLeft / 2 == 1) (execHalvedWindowEnd l)
/-- Exits, held BSET.FULLs and offers that can go on (R105, R158, R361). -/
def State.settleCore (s : State) (l : Nat) : State :=
  let c := s.core l
  let s := (slots.foldl (fun s k => match (c.strand k).hold with | .exiting _ => s.tryExit l k | _ => s) s).settleBset l
  if c.reports == [] && slots.all fun k => !(c.strand k).offer then s else after (execFaultReoffer l) s
/-- The start of a core cycle of core l: what is due takes effect, and a need for a gated unit is asked for again. -/
def State.beginCycle (s : State) (l : Nat) : State :=
  let s := s.laterDue l
  (((s.dueEvents l).foldl (fun s i => after i s) s).settleCore l).askAgain l
/-- What follows the issue in a core cycle of core l (R85, R137): the deposit port, the data port, the copy engine and the
fill port take their banks in this order, and the spawn queue's head is considered. -/
def State.afterIssue (s : State) (l : Nat) : State :=
  let s := if (s.core l).copies = [] then s.modCore l Core.dataPort else s.modWake l fun c => c.dataPort.copyPort
  let s := match (s.core l).nextFill with
    | some k => after (execClauseFill l k.toNat) s
    | none => s
  if (s.core l).considersSpawns then after (execSpawnGrant l) s else s
/-- The core issues in this cycle: not in a stretched one, nor in the second of a pair of a halved window (R344). -/
def Core.issues (c : Core) : Bool := decide (c.stretchLeft ≤ 1) && (decide (c.halfLeft < 4) || c.halfLeft % 2 == 0)
/-- The tensor unit's gated sub-units are busy (R341). -/
def Core.tensorBusy (c : Core) : Bool :=
  decide (c.cc < c.units.array) || decide (c.cc < c.units.reblock) || decide (c.cc < c.units.drain) || slots.any fun k => (c.strand k).hold == .gmma
/-- A core's counts at the end of a clock period (R341, R344, R420): a stretched core cycle lasts a second one. -/
def Core.tick (c : Core) : Core :=
  if c.half then { c with half := false, cc := c.cc + 1 }
  else
    let slow := decide (1 < c.stretchLeft)
    { c with
      cc := if slow then c.cc else c.cc + 1, stretched := if slow then c.stretched + 1 else c.stretched, half := slow,
      grantHeld := false, banks := [], filled := false,
      stretchLeft := if slow then c.stretchLeft - 1 else c.stretchLeft,
      halfLeft := if 4 ≤ c.halfLeft then (if c.halfLeft % 2 = 0 then c.halfLeft - 1 else c.halfLeft - 3) else c.halfLeft,
      vecIdle := if !c.vecOn ∨ c.cc < c.vecUntil then 0 else c.vecIdle + 1,
      tenIdle := if !c.tenOn ∨ c.tensorBusy then 0 else c.tenIdle + 1 }
/-- The end of a core cycle of core l. -/
def State.endCycle (s : State) (l : Nat) : State := (s.afterIssue l).modCore l fun c => c.promote.tick
/-- One core cycle of core l. -/
def State.coreCycle (s : State) (l : Nat) : Out :=
  let s := s.beginCycle l
  if !(s.core l).issues then .next (s.endCycle l)
  else match s.pick l 9 with
    | (s, none) => .next (s.endCycle l)
    | (s, some k) => match s.issue l k with
      | .next t => .next (t.endCycle l)
      | .fault f => .fault f
      | .refused r => .refused r
/-- Core l takes its part in the present clock period of its row domain, once in each: a core cycle, or the second period of
a stretched one (R344, R420). -/
def State.coreTurn (s : State) (l : Nat) : Out :=
  if (s.core l).periods ≠ s.dcyc (domainOf l) then .next s
  else if (s.core l).half then .next (s.modCore l Core.tick)
  else s.coreCycle l
/-- The token requests that the pool covers are granted, oldest first (R342). -/
def State.grantTokens (s : State) (d : Nat) : State :=
  (s.domain d).tokenQ.foldl (fun s _ => after (execInrushTokenGrant d) s) s
/-- A clock period of a row domain in 1/66 ns: 1.2 GHz by the divider, or 1.32 GHz at boost (00 R4, R334). -/
def Domain.period (x : Domain) : Nat := if x.boost then 50 else 55 * (x.div.toNat + 1)
/-- When row domain d's present clock period began, in 1/66 ns. -/
def State.clock (s : State) (d : Nat) : Nat := ((s.clocks.find? fun e => e.1 == d).map (·.2)).getD (66 * s.time)
/-- The clock edge of row domain d that ends its present period, once every listed core has taken part in it (R420): the
requests for tokens made in it are served, tokens come back, and the arbiter ends a slot of 16 periods (R339, R341). The time
base takes the ticks whose edges have come by then (R336). -/
def State.clockEdge (s : State) (d : Nat) : State :=
  if s.periodOver d then
    let s := s.grantTokens d
    let x := s.domain d
    let n := s.clock d + x.period
    let s : State := { s with cycles := insert d (s.dcyc d + 1) s.cycles, clocks := insert d n s.clocks,
                              time := Nat.max s.time ((n + Config.tickPhase x.phase % 66) / 66) }
    after (execArbiterSlotEnd d) (after (execTokenReturn d) s)
  else s

/-! ### The rest of the module's work -/

/-- A number of an actual core or hub, not of a saved context. -/
def live (l : Nat) : Bool := decide (l < nobody)
/-- What can happen at core l outside its cycles. -/
def State.coreDuty (s : State) (l : Nat) (c : Core) : List (State → Out) :=
  let on := fun (b : Bool) (i : State → Out) => if b then [i] else []
  let bound := slots.filter fun u => (c.unit u).bound.isSome
  let waits := slots.any fun k => (c.strand k).run == .waiting
  on (c.cfgIn != [] || s.mgmt.cfgNet.any fun m => m.1 == l) (execConfigClassMessage l) ++ on (c.cfg != []) (execSpliceAccept l)
    ++ (match s.hubReps.find? fun r => r.1 == l with
      | some (_, _, .fire j _) => [execJoinFire l j.toNat]
      | some _ => [execHubReplyArrival l]
      | none => [])
    ++ (slots.filter fun k => s.mgmt.freezeAns.any fun f => f.1 == l && f.2.1 == k).map (fun k => execFreezeAnswer l k.toNat)
    ++ ((c.inputs.map fun m => (m.port, m.flit.chan.toNat)).eraseDups.map fun (p, ch) =>
      execHeadFlitArrival l p ch :: if bound = [] then [] else [execAddBlock l p ch, execOnRenorm l p ch, execOnSettle l p ch]).flatten
    ++ (bound.map fun u => execOnComplete l ((c.unit u).bound.getD 0).toNat)
    ++ ((c.emits.map fun e => e.msg.chan.toNat).eraseDups.map fun ch => execHeadFlitArrival l 5 ch)
    ++ ((c.locals.filter fun m => m.st != .stands || waits).map fun m => m.msg.chan.toNat).eraseDups.map (fun ch => execTriggerAction l ch)
    ++ ((c.owed.map fun e => e.1.1).eraseDups.map fun p => execIdleFlit l p) ++ on (c.inject != []) (execMessageInject l)
    ++ ((List.range 16).map fun n =>
      let t := c.stream (BitVec.ofNat 4 n)
      on (t.st == .binding) (execSpbindReply l n) ++ on (t.rounds != []) (execSpindleUnitRequest l n)).flatten
    ++ on (c.part.isSome && c.exitRep == .none && c.residents == []) (execExitReport l)
    ++ on (c.frozen && !c.drained) (execRouterDrained l) ++ on (c.frozen && !c.quiescent) (execCoreQuiescent l)
/-- What an edge request's next move is. -/
def State.reqDuty (s : State) (q : EdgeReq) : List (State → Out) :=
  match q.stage with
  | .toBrick | .unannounced => [execEdgeRequestArrival q.id]
  | .toHome => match q.op with
    | .ewatch _ _ => [execEwatchArm q.id]
    | _ => [execHomeAccess q.id]
  | .announced w => match s.home (q.pieces.headD ⟨0, 0, 0, []⟩).pa with
    | some b => [execWindowClose b w]
    | none => []
  | .back => match q.op with
    | .unit _ _ _ => [execUnitReply q.id]
    | .eld _ _ _ _ _ _ => [execEldReturn q.id]
    | .est _ => [execEstComplete q.id]
    | .ewatch _ _ => [execEwatchArm q.id]
    | .atomic _ _ _ _ _ _ _ _ => [execAtomicReply q.id]
    | .launch _ _ _ _ => [execAtomicReply q.id]
  | .armed => []
  | .held => []
/-- What a hub does with its oldest request. -/
def hubDuty (q : HubReq) : State → Out :=
  let h := hubOf q.core
  match q.op with
  | .catom _ _ _ _ _ _ => execCatomPerform h
  | .join _ _ _ => execJoinArrival h
  | .offer _ _ _ => execFaultOffer h
  | _ => execHubRequestArrival h
/-- What a brick and its ports do. -/
def Brick.duty (k : Brick) (b : Nat) : List (State → Out) :=
  (k.lines.map fun x => execAtomicLineWriteback b (x.pa / 64)) ++ (if k.held = [] then [] else [execFaultRecordWrite (8192 + b)])
    ++ ((List.range 6).map fun p =>
      let x := k.ports.toList.getD p Nirber.reset
      if x.st = 3 then [execRetrainTimeout b p] else if x.replayBuf = [] then [] else [execNirberReplayTimeout b p, execNirberRetrain b p]).flatten
/-- What a collective does next. -/
def Coll.duty (c : Coll) : List (State → Out) :=
  match c.st with
  | .matching | .matched | .waiting => [execCollMatch c.id]
  | .running =>
    if c.bricks.all c.brickDone then (c.parts.filter fun p => !p.done).map fun p => execCollComplete c.id p.core
    else (c.bricks.filter fun b => !c.brickDone b && b.halted.isNone).map fun b => execCollChunkStep c.id b.brick
  | .aborting => [execCollAbortDone c.id]
  | .failed => [execCollMatch c.id]
  | .complete => []
/-- What the management plane does: a command that is written runs until its answer stands (R385). -/
def State.mgmtDuty (s : State) : List (State → Out) :=
  let m := s.mgmt
  let on := fun (b : Bool) (i : State → Out) => if b then [i] else []
  on (m.held != []) (execFaultRecordWrite 8224) ++ on m.takeover execHeartbeat
    ++ (if m.busy then [execEtinv, execRetry, execMapcommit, execAbort, execRelease] else []) ++ (m.ocHolds.map fun o => execOcHoldEnd o.1)
    ++ (m.recovered.map fun e => execTransientError e.1 e.2) ++ (m.failures.take 1).map (fun f => execLastingFailure f.1 f.2)
    ++ (if m.loading.isSome then [execLaunchLoad] else on (m.bootProg.getLsbD 4 && (m.sentinels != [] || m.parts.any fun p => p.remap)) execDealerSelection)
    ++ (m.parts.map fun p => match p.st with
      | .running => [execDrainProbe p.part]
      | .freezing | .saving =>
        (p.hubs.map fun h => if (s.hub h).frozen then execContextSave h else execFreezeWave h) ++ [execFreezeComplete p.part]
      | _ => []).flatten
/-- What every agent of the module would do on what stands before it. -/
def State.duty (s : State) : List (State → Out) :=
  let cores := s.cores.filter fun e => live e.1
  (cores.map fun e => s.coreDuty e.1 e.2).flatten ++ (s.reqs.map s.reqDuty).flatten ++ s.hubReqs.map hubDuty
    ++ ((s.hubs.filter fun e => live e.1 && e.2.buf != []).map fun e => execFaultRecordWrite e.1)
    ++ (s.bricks.map fun e => e.2.duty e.1).flatten
    ++ (s.domains.map fun e => if e.2.settling then [execBoostSupplySettled e.1] else if e.2.want.isSome then [execGrantChange e.1] else []).flatten
    ++ (s.colls.map Coll.duty).flatten ++ s.mgmtDuty
/-- What remains of a row domain's present clock period but its last edge: the turns of the listed cores that have not taken part
in it. -/
def State.turns (s : State) (d : Nat) : List Turn :=
  (s.cores.filter fun e => live e.1 && domainOf e.1 == d && e.2.periods == s.dcyc d).map fun e => Turn.cycle e.1
/-- The row domains of the grid whose present clock periods end first. -/
def State.nextDomains (s : State) : List Nat :=
  let ds := s.mgmt.domainNums.map fun d => (d, s.clock d + (s.domain d).period)
  (ds.filter fun e => ds.all fun f => decide (e.2 ≤ f.2)).map (·.1)
/-- The agenda is empty, and a round of the whole module begins: every agent acts once, and then the clocks of the row domains whose
periods end first take their period. -/
def State.round (s : State) : State :=
  let s := s.duty.foldl (fun s f => after f s) s
  let ds := s.nextDomains
  { s with agenda := (ds.map s.turns).flatten ++ ds.map Turn.edge }

/-! ### Placing one instruction -/

/-- The header of a clause of one instruction of class 2. -/
def oneHeader : Word := 0xF8080000
/-- A ready strand in slot 0 with full grants, the clause of one word at 0x0400 in its buffer, and its units awake. -/
def Core.placed (c : Core) (w : Word) : Core :=
  let e : Entry := ⟨0x400, 16, 8, 4, 0, none, false⟩
  { c.setStrand 0 { newStrand c.cc 0 e 0 0 0 0 0 0 with
      pc := 0x404, buf := ⟨true, 0x400, oneHeader, [w]⟩, fill := none, notBefore := c.cc } with
    sram := Memory.write c.sram 0x400 (toBytes 4 oneHeader.toNat ++ toBytes 4 w.toNat), vecOn := true, tenOn := true }
/-- The word stands where core 0's next core cycle issues it. -/
def State.place (s : State) (w : Word) : State :=
  { s.modCore 0 fun c => c.placed w with power := true, agenda := [.cycle 0] }

end Sys2Proof.Machine
end

