-- ==== Sys2Proof/Machine/Step.lean ====
section
/-! DEFINITION. The step: the agenda in the state says what acts next (an event, a core's part in a clock period, or a clock edge); an empty
agenda begins a round of the whole module. -/

namespace Sys2Proof.Machine

/-- One step of the module. -/
def step (s : State) : Host.Outcome State Fault Refusal :=
  match s.agenda with
  | .event e :: rest => exec e { s with agenda := rest }
  | .cycle l :: rest => if s.power then { s with agenda := rest }.coreTurn l else .next { s with agenda := rest }
  | .edge d :: rest => .next (if s.power then { s with agenda := rest }.clockEdge d else { s with agenda := rest })
  | [] => if s.power then .next s.round else .fault .noPower

/-- The state with one instruction word placed where the next step issues it (log entry 3: how a program comes to run). -/
def State.withFetchWord (s : State) (_nbits w : Nat) : State := s.place (BitVec.ofNat 32 w)

end Sys2Proof.Machine
end

