-- ==== Sys2Proof/Safety.lean ====
section
/-! DEFINITION. The words the statements are written in: what an instruction leaves alone, what it means to pass an
instruction, to write a register, to stop on a fault, and the invariant of the edge memory. -/

namespace Sys2Proof.Machine

/-! ### What stays as it was -/

/-- Every byte of every core's SRAM, of every hub's SRAM and of edge memory reads as before. -/
def State.sameMemory (s t : State) : Prop :=
  (∀ l a, Memory.get (t.core l).sram a = Memory.get (s.core l).sram a) ∧
    (∀ h a, Memory.get (t.hub h).sram a = Memory.get (s.hub h).sram a) ∧ ∀ a, Memory.get t.edge a = Memory.get s.edge a
/-- Every byte of memory reads as before but the executing core's SRAM bytes at addresses of which `stored` holds. -/
def State.sameMemoryBut (s t : State) (stored : Nat → Prop) : Prop :=
  (∀ l a, ¬ (l = s.cur ∧ stored a) → Memory.get (t.core l).sram a = Memory.get (s.core l).sram a) ∧
    (∀ h a, Memory.get (t.hub h).sram a = Memory.get (s.hub h).sram a) ∧ ∀ a, Memory.get t.edge a = Memory.get s.edge a
/-- The n bytes from address p of a core's SRAM, wrapping at 65,536 (R149). -/
def inSpan (p n a : Nat) : Prop := ∃ i, i < n ∧ a = (p + i) % 65536
/-- Only the executing core differs: every other core, and all of the module outside its cores, is as before. -/
def State.otherCoresSame (s t : State) : Prop :=
  t = { s with cores := t.cores } ∧ ∀ l, l ≠ s.cur → t.core l = s.core l
/-- The other seven strand slots of the executing core are as before. -/
def State.otherStrandsSame (s t : State) : Prop := ∀ k, k ≠ s.slot → t.me.strand k = s.me.strand k
/-- The executing core is `c` but for its strands, of which only the executing one differs; no other core and nothing
outside the cores differs. -/
def State.ownCoreIs (s t : State) (c : Core) : Prop :=
  s.otherCoresSame t ∧ s.otherStrandsSame t ∧ t.me = { c with strands := t.me.strands }
/-- The core with its units' occupancies changed. -/
def Core.withUnits (c : Core) (f : Units → Units) : Core := { c with units := f c.units }
/-- Only the executing strand's own state differs; every byte of memory reads as before. -/
def State.strandOnly (s t : State) : Prop := s.ownCoreIs t s.me ∧ s.sameMemory t

/-! ### Passing an instruction -/

/-- The strand y has moved past the instruction at x's pc: to the next word, or behind the last word of its clause asking for
the fall-through fill from the core cycle after the issue on (R36, R41). -/
def Strand.passed (x y : Strand) : Prop :=
  y.pc = x.pc + 4 ∧ y.fill = if x.atEnd then some ⟨x.pc + 4, .fall, x.stamp + 1, none, 0, []⟩ else x.fill
/-- As `passed`, where the fall-through fill is asked for in core cycle r. -/
def Strand.passedFrom (x y : Strand) (r : Nat) : Prop :=
  y.pc = x.pc + 4 ∧ y.fill = if x.atEnd then some ⟨x.pc + 4, .fall, r, none, 0, []⟩ else x.fill.map fun f => { f with asked := r }
/-- As `passed`, by an instruction that has not ended: where it stands is kept for its faults (R357). -/
def Strand.left (x y : Strand) : Prop := x.passed y ∧ y.here = ⟨x.pc, x.buf.addr, x.idx, hdrIndiv x.buf.hdr⟩
/-- Two strands differ at most in general registers, in the scoreboard and in where they stand. -/
def Strand.sameButG (x y : Strand) : Prop := y = { x with g := y.g, pend := y.pend, pc := y.pc, fill := y.fill }
/-- Two strands differ at most in the scoreboard and in where they stand. -/
def Strand.sameButPend (x y : Strand) : Prop := y = { x with pend := y.pend, pc := y.pc, fill := y.fill }
/-- Every general register but g[d] is as before; g[d] holds v, or still reads zero if it is g0 (R44, R45). -/
def State.holdsG (s t : State) (d : BitVec 4) (v : Word) : Prop :=
  t.g d = (if d = 0 then 0 else v) ∧ ∀ r, r ≠ d → t.g r = s.g r
/-- The scoreboard has gained exactly one entry: the register, pending for `lat` core cycles (R93). -/
def State.pends (s t : State) (r : Reg) (lat : Nat) : Prop := t.st.pend = s.st.pend ++ [⟨r, some (s.cc + lat), false⟩]
/-- From s to t the executing strand passes its instruction, which writes g[d] with a result latency and changes nothing
else. -/
def State.writesG (s t : State) (d : BitVec 4) (v : Word) (lat : Nat) : Prop :=
  s.holdsG t d v ∧ s.pends t (.g d) lat ∧ s.st.passed t.st ∧ s.st.sameButG t.st ∧ s.strandOnly t
/-- As writesG, and the instruction raises ASTAT bits with its result (R115): ASTAT is pending with g[d], and the executing
core is `c` but for its strands. -/
def State.writesGFlags (s t : State) (d : BitVec 4) (v : Word) (lat : Nat) (bits : BitVec 7) (fp : Bool) (c : Core) : Prop :=
  s.holdsG t d v ∧
    t.st.pend = s.st.pend ++ [⟨.g d, some (s.cc + lat), false⟩, ⟨.astat, some (s.cc + lat), false⟩] ∧
    t.st.flags = s.st.flags ++ [⟨s.cc + lat, bits, fp, s.st.pc⟩] ∧ s.st.passed t.st ∧
    t.st = { s.st with g := t.st.g, pend := t.st.pend, flags := t.st.flags, pc := t.st.pc, fill := t.st.fill } ∧
    s.ownCoreIs t c ∧ s.sameMemory t
/-- From s to t the executing strand passes its instruction, which writes the vector register v[d] with a result latency; the
executing core is `c` but for its strands and that register, and no byte of memory changes. -/
def State.writesV (s t : State) (d : BitVec 4) (x : VReg) (lat : Nat) (c : Core) : Prop :=
  t.v d = x ∧ (∀ j, j ≠ s.st.vIx d → rd t.me.vregs j = rd s.me.vregs j) ∧ s.pends t (.v d) lat ∧ s.st.passed t.st ∧
    s.st.sameButPend t.st ∧ s.ownCoreIs t { c with vregs := t.me.vregs } ∧ s.sameMemory t
/-- As writesV, for the tile t[d]. -/
def State.writesT (s t : State) (d : BitVec 3) (x : Tile) (lat : Nat) (c : Core) : Prop :=
  t.t d = x ∧ (∀ j, j ≠ s.st.tIx d → rd t.me.tiles j = rd s.me.tiles j) ∧ s.pends t (.t d) lat ∧ s.st.passed t.st ∧
    s.st.sameButPend t.st ∧ s.ownCoreIs t { c with tiles := t.me.tiles } ∧ s.sameMemory t
/-- Every accumulator of the core but acc[c] is as before; acc[c] holds x. -/
def State.holdsA (s t : State) (c : BitVec 2) (x : Acc) : Prop :=
  t.acc c = x ∧ ∀ j, j ≠ s.st.aIx c → rd t.me.accs j = rd s.me.accs j
/-- From s to t the executing strand passes its instruction with these new scoreboard entries; of the strand nothing else
differs, the executing core is `c` but for its strands, and no byte of memory changes. -/
def State.passesPend (s t : State) (new : List Pend) (c : Core) : Prop :=
  t.st.pend = s.st.pend ++ new ∧ s.st.passed t.st ∧ s.st.sameButPend t.st ∧ s.ownCoreIs t c ∧ s.sameMemory t
/-- From s to t the executing strand passes its instruction, which changes nothing else. -/
def State.passesOnly (s t : State) : Prop := s.st.passed t.st ∧ t.st.pend = s.st.pend ∧ s.st.sameButPend t.st ∧ s.strandOnly t

/-- As writesG, and the executing core is `c` but for its strands. -/
def State.writesGIn (s t : State) (d : BitVec 4) (v : Word) (lat : Nat) (c : Core) : Prop :=
  s.holdsG t d v ∧ s.pends t (.g d) lat ∧ s.st.passed t.st ∧ s.st.sameButG t.st ∧ s.ownCoreIs t c ∧ s.sameMemory t
/-- From s to t the executing strand passes its instruction, waiting for w there, and nothing else changes. -/
def State.waitsFor (s t : State) (w : Wait) : Prop :=
  s.st.left t.st ∧
    t.st = { s.st with run := .waiting, wait := w, waitFrom := s.time, pc := t.st.pc, fill := t.st.fill, here := t.st.here } ∧
    s.strandOnly t
/-- The executing strand has passed its instruction, whose condition held as it issued, and is ready again (R103, R202, R205): nothing of
the strand but registers, with their scoreboard entries, and where it stands differs. -/
def State.goesOn (s t : State) : Prop :=
  s.st.left t.st ∧ t.st = { s.st with
    g := t.st.g, pend := t.st.pend, pc := t.st.pc, fill := t.st.fill, here := t.st.here, waitFrom := s.time, run := .ready, wait := .idle,
    notBefore := Nat.max s.st.notBefore s.cc }
/-- From s to t the executing strand passes its instruction, which holds it for h, and nothing else changes. -/
def State.heldFor (s t : State) (h : Hold) : Prop :=
  s.st.left t.st ∧ t.st = { s.st with hold := h, pc := t.st.pc, fill := t.st.fill, here := t.st.here } ∧ s.strandOnly t
/-- From s to t the executing strand passes its instruction, which writes no register of the strand; the executing core is `c`
but for its strands, and no byte of memory changes. -/
def State.passesBut (s t : State) (c : Core) : Prop :=
  s.st.passed t.st ∧ t.st.pend = s.st.pend ∧ s.st.sameButPend t.st ∧ s.ownCoreIs t c ∧ s.sameMemory t
/-- The strand y has transferred to the header at `target`, the transfer resolving in core cycle r: a loop-resident clause in
the buffer is reused, any other arrival asks for a fill (R39, R95). Nothing but where it stands, and a link register with its
scoreboard entry, differs. -/
def Strand.arrives (x y : Strand) (target : Addr) (r : Nat) : Prop :=
  y.notBefore = r + 1 ∧
    (if x.buf.valid ∧ x.buf.addr = target ∧ hdrLoop x.buf.hdr then y.pc = target + 4 ∧ y.fill = x.fill
     else y.pc = target ∧ y.fill = some ⟨target, .jump ⟨x.pc, x.buf.addr, x.idx, hdrIndiv x.buf.hdr⟩, r + 1, none, 0, []⟩) ∧
    y = { x with g := y.g, pend := y.pend, pc := y.pc, fill := y.fill, notBefore := y.notBefore, cover := y.cover }
/-- ILLCL subcode 3, a transfer to a word that is no clause header (Table 2.5). -/
def noHeader (target : Addr) : Trap := ⟨0x02, target ++ 3#16, 0⟩

/-! ### Stopping on a fault (R356, R357) -/

/-- The strand y is x stopped on fault f of the instruction that stands at p, and is there again: the frame of Table 14.2 is
written, the registers, the scoreboard and the grants are as they were. -/
def Strand.stoppedAt (x y : Strand) (f : Trap) (p : Place) : Prop :=
  y.run = .stopped ∧ y.frame = ⟨f.cause, p.indiv, false, p.epc, p.eclb, BitVec.ofNat 6 p.idx, f.einfo, f.eaddr⟩ ∧
    y.g = x.g ∧ y.m = x.m ∧ y.pend = x.pend ∧ y.pc = p.epc ∧ y.buf = x.buf ∧ y.status = x.status ∧ y.decl = x.decl
/-- The strand y is x stopped on fault f at the instruction at its pc. -/
def Strand.stoppedOn (x y : Strand) (f : Trap) : Prop := x.stoppedAt y f ⟨x.pc, x.buf.addr, x.idx, hdrIndiv x.buf.hdr⟩
/-- From s to t the executing instruction stops its strand on fault f and has no effect. -/
def State.stopsOn (s t : State) (f : Trap) : Prop := s.st.stoppedOn t.st f ∧ s.strandOnly t

/-! ### Outside the strands -/

/-- What stands at a core's inputs once the oldest flit of channel k at port p has left: the flit that takes the fourth place behind it
reaches this router only now, under the present entry (R168–R170). -/
def Core.inputsPast (x : Core) (p : Nat) (k : BitVec 6) : List InFlit := reEntry p k (x.route k) 3 (dropInput p k x.inputs)
/-- From s to t router l has discarded the message whose head m stands at its input port p, with the payload flits that follow it,
and its core reports f (R361). -/
def State.discards (s t : State) (l p : Nat) (m : Msg) (f : Trap) : Prop :=
  (t.core l).inputs = (s.core l).inputsPast p m.chan ∧
    (t.core l).ways = (s.core l).ways ++ (if m.len = 0 then [] else [⟨m.chan, p, [], m.len⟩]) ∧
    (t.core l).reports = (s.core l).reports ++ [mkRec (s.coreSource l) (frameOf f) true 0 s.time] ∧
    (∀ j, j ≠ l → t.core j = s.core j) ∧ t = { s with cores := t.cores } ∧ s.sameMemory t

/-! ### Invariants -/

/-- Edge memory keeps its canonical form. -/
def State.edgeWf (s : State) : Prop := Memory.wf s.edge = true

end Sys2Proof.Machine
end

