-- ==== Sys2Proof/Certificates/Slice0/Obligations.lean ====
section
/-! DEFINITION. The statements about the machine. -/

open Sys2Proof Sys2Proof.Machine

/-- With an event at the head of the agenda, step is exec of that event on the state with the agenda's rest. With a core's turn
in the present clock period of its row domain at its head, on a module with power, a core that has already taken part in the
period does nothing, the second period of a stretched core cycle only counts, and else a core cycle runs: what is due in it
takes effect first; if the core issues in this cycle and a slot is picked, and the word at its pc decodes to an instruction that
passes the checks of R33, step is exec of that instruction on the state in which that strand is the issuing one, followed by the
end of the cycle; a word that fails a check stops the strand on that fault, and a cycle in which nothing issues only ends. At a
clock edge the domain's period ends. With an empty agenda a round of the module begins. Without power a turn or an edge does
nothing and an empty agenda stops on the fault noPower. (Where the spec leaves a choice: log entries 4, 5, 7, 45 and 46.)
[02_assembly_encoding.md R33; 04_strands_control.md R88; 04_strands_control.md R89; 04_strands_control.md R93; 13_power_time.md
R340; 13_power_time.md R344; 15_wafer_boot.md R401] -/
def Obligations.StepRunsTheDecodedInstruction : Prop :=
  ∀ (s : State) (rest : List Turn),
    let r : State := { s with agenda := rest }
    (∀ e, s.agenda = .event e :: rest → step s = exec e r) ∧
    (s.power = true → s.agenda = [] → step s = .next s.round) ∧ (s.power = false → s.agenda = [] → step s = .fault .noPower) ∧
    (∀ d, s.agenda = .edge d :: rest → step s = .next (if s.power then r.clockEdge d else r)) ∧
    ∀ l, s.agenda = .cycle l :: rest → (s.power = false ∨ (r.core l).periods ≠ r.dcyc (domainOf l) → step s = .next r) ∧
     (s.power = true → (r.core l).periods = r.dcyc (domainOf l) →
      ((r.core l).half = true → step s = .next (r.modCore l Core.tick)) ∧ ((r.core l).half = false →
      let b := r.beginCycle l
      ((b.core l).issues = false → step s = .next (b.endCycle l)) ∧
      ((b.core l).issues = true → ∀ u,
        (b.pick l 9 = (u, none) → step s = .next (u.endCycle l)) ∧
        ∀ k, b.pick l 9 = (u, some k) →
          let n := u.enter l k
          (∀ f, n.st.check = .error f → step s = .next ((n.trap f).endCycle l)) ∧
          ∀ i, n.st.check = .ok i → decode n.st.curWord = .ok i ∧ operandsLegal i = true ∧
            ∀ t, exec i n = .next t → step s = .next ((t.noteVector l k i n.st.pend.length).endCycle l))))

/-- Eleven words, one of each of eleven families and each written from the fields of its encoding, decode to the instruction
they stand for: LOOP g3 back by 2, ADD g4 g4 g1, ADDI g3 g3 -1, MUL, VADD.I8, LD.W, SENDV, SIGH, CATOM.ADD.W, COLLW and CSRR of
CSR 0x015; a word of a reserved major is refused. [02_assembly_encoding.md R30; 04_strands_control.md R98; 05_scalar_vector.md
R108; 05_scalar_vector.md R109; 05_scalar_vector.md R111; 05_scalar_vector.md R123; 06_local_memory.md R150; 07_messages.md
R199; 09_signature.md R250; 11_ordering_atomics.md R310; 12_collectives.md R329; 14_system_traps.md R383] -/
def Obligations.SampleWords : Prop :=
  decode 0x0C230002 = .ok (.loop 3 2) ∧ decode 0x21104000 = .ok (.add 4 4 1) ∧ decode 0x24CCFFFF = .ok (.addi 3 3 0xFFFF) ∧
    decode 0x3A19C000 = .ok (.mul 8 6 7) ∧ decode 0x5108C0A0 = .ok (.vadd 4 2 3 0 0 5) ∧ decode 0x70C20800 = .ok (.ld 3 0 2 0x800) ∧
    decode 0x88301014 = .ok (.sendv 3 1 4) ∧ decode 0xC0001060 = .ok (.sigh 0 1 3 0) ∧ decode 0xDC045000 = .ok (.catom 4 5 0 0) ∧
    decode 0xE0350007 = .ok (.collw 5 7) ∧ decode 0xF4030015 = .ok (.csrr 3 0x15) ∧ ∃ r, decode 0x14000000 = .error r

/-- For every instruction that has a word, with every operand at every value its fields allow, decode of that word is the
instruction; and every word that decodes is the word of the instruction it decodes to, so no bit of a word is dropped.
[02_assembly_encoding.md R28; 02_assembly_encoding.md R29; 02_assembly_encoding.md R30; 02_assembly_encoding.md R31;
02_assembly_encoding.md R32; 02_assembly_encoding.md R33] -/
def Obligations.DecodeUndoesEncode : Prop :=
  (∀ (i : Instr) (w : Word), encode i = some w → decode w = .ok i) ∧ ∀ (i : Instr) (w : Word), decode w = .ok i → encode i = some w

/-- Whatever the state, every instruction of the machine and every event of its agents answers a next state: what the manual
calls a fault is the state in which the strand, the tag, the record or the report holds it, never a stop of the module. (Where
the spec leaves a choice: log entry 8.) [02_assembly_encoding.md R33; 14_system_traps.md R356; 14_system_traps.md R357;
14_system_traps.md R361; 14_system_traps.md R367; 15_wafer_boot.md R404] -/
def Obligations.NoInstructionStops : Prop :=
  ∀ (i : Instr) (s : State), ∃ t, exec i s = .next t

/-- At reset the module has no power, every memory is empty and in its canonical form, every strand slot is free, no bobbin is
declared, every tag is idle, every trigger entry and route is 0, every join has N = 128 and nothing counted, a tile is B8 of 16
rows and columns with fields of 0 and side pairs of E = 0 and ply 0xFF, an accumulator is 0 with X = -2,048 and no step counted,
every domain has divider 7 and 64 tokens, and every brick the threshold 12. An empty memory is one of which every byte reads as
an unlisted one does. (Registers for which the manual gives no reset value read 0: the model's choice, log entry 1, of which
this statement says nothing. What an unlisted byte reads as is the model's choice, log entry 2.) [10_edge_memory.md Table 10.7;
13_power_time.md Table 13.1; 11_ordering_atomics.md R311; 13_power_time.md R342; 07_messages.md R175; 08_tensor.md R212;
08_tensor.md R222; 04_strands_control.md R84; 15_wafer_boot.md R401] -/
def Obligations.ResetState : Prop :=
  let s := State.reset
  s.power = false ∧ Memory.wf s.edge = true ∧ (∀ a, Memory.get s.edge a = Memory.get [] a) ∧
    (∀ l, Memory.wf (s.core l).sram = true ∧ (∀ a, Memory.get (s.core l).sram a = Memory.get [] a) ∧ (∀ k, ((s.core l).strand k).run = .free) ∧ (∀ n, ((s.core l).bobbin n).valid = false) ∧
      (∀ k, (s.core l).tag k = ⟨.idle, .none, false, 0, 0, 0⟩) ∧ (∀ c, (s.core l).route c = 0) ∧ (∀ c : BitVec 6, rd (s.core l).trigs c = 0) ∧
      (∀ n : BitVec 3, (rd (s.core l).tiles n).fmt = 1 ∧ (rd (s.core l).tiles n).rows = 15 ∧ (rd (s.core l).tiles n).cols = 15 ∧
        ∀ r : Fin 16, (rd (s.core l).tiles n).side[r] = 0xFF00 ∧ ∀ j : Fin 16, ((rd (s.core l).tiles n).el[r])[j] = 0) ∧
      ∀ n : BitVec 2, (rd (s.core l).accs n).x = 0x800 ∧ (rd (s.core l).accs n).steps = 0 ∧ ∀ j : Fin 256, (rd (s.core l).accs n).a[j] = 0) ∧
    (∀ h, Memory.wf (s.hub h).sram = true ∧ (∀ a, Memory.get (s.hub h).sram a = Memory.get [] a) ∧ ∀ j : BitVec 5, rd (s.hub h).joins j = ⟨128, 0, 0, false⟩) ∧
    (∀ d, (s.domain d).div = 7 ∧ (s.domain d).tokens = 64 ∧ (s.domain d).boost = false) ∧ ∀ b, (s.brick b).th = 12

/-- In every state whose edge memory lists its bytes at strictly rising addresses and lists no byte that reads as an unlisted
one, every step that answers a next state, whatever instruction, event, core cycle or round it runs, leaves edge memory in that
form, so that edge memories with the same contents are the same data. (What an unlisted byte reads as is the model's choice, log
entry 2.) [10_edge_memory.md R261; 10_edge_memory.md R421; 11_ordering_atomics.md R295; 11_ordering_atomics.md R304] -/
def Obligations.EdgeMemoryCanonical : Prop :=
  ∀ (s t : State), Memory.wf s.edge = true → step s = .next t → Memory.wf t.edge = true

/-- In every state in which the SRAM of every core and of every hub lists its bytes at strictly rising addresses and lists no
byte that reads as an unlisted one, every step that answers a next state leaves every one of them in that form. (What an
unlisted byte reads as is the model's choice, log entry 2.) [06_local_memory.md R137; 06_local_memory.md R138;
06_local_memory.md R149; 11_ordering_atomics.md R309] -/
def Obligations.LocalMemoriesCanonical : Prop :=
  ∀ (s t : State), (∀ l, Memory.wf (s.core l).sram = true) → (∀ h, Memory.wf (s.hub h).sram = true) → step s = .next t →
    (∀ l, Memory.wf (t.core l).sram = true) ∧ ∀ h, Memory.wf (t.hub h).sram = true

/-- The target is the instruction's address plus 4 times the offset modulo 65,536 (BRA, BAL), or g[a] plus the offset modulo
65,536 with the old g[a] (JMP, JAL); LOOP counts g[d] down, goes back 4 times its distance while the count is not zero, and else
writes 0 and passes. At a word-aligned clause header the transfer completes and resolves in its issue cycle: the strand arrives
there and the link (g15 or g[d]) holds the next address; so it does at the loop-resident clause in its buffer. At any other
target the strand stops on ILLCL subcode 3 with no link write and no change of the counter. Nothing else changes. The eight
branches of Table 4.5 complete in every state. Taken, to a word-aligned clause header or to the loop-resident clause in the
buffer, the strand arrives there with the transfer resolving one core cycle after issue; taken to any other word, it stops on
ILLCL subcode 3; not taken, it passes the branch and issues nothing before two core cycles after it. No register, flag, special
register or byte of memory changes. (Where the spec leaves a choice: log entry 10.) [04_strands_control.md R95;
04_strands_control.md R96 (its Effect); 04_strands_control.md R98 (its Effect); 02_assembly_encoding.md R30;
02_assembly_encoding.md R39; 04_strands_control.md R97 (its Effect); 04_strands_control.md Table 4.5] -/
def Obligations.ControlTransfers : Prop :=
  (∀ (s : State) (d a : BitVec 4) (o : BitVec 22) (imm : BitVec 12) (target : Addr),
    let link : Word := (s.st.pc + 4).zeroExtend 32
    let header := (s.st.buf.valid = true ∧ s.st.buf.addr = target ∧ hdrLoop s.st.buf.hdr = true) ∨ s.me.isTarget target = true
    (∀ i, (i = .bra o ∧ (target.toNat : Int) = ((s.st.pc.toNat : Int) + 4 * o.toInt) % 65536) ∨
        (i = .jmp a imm ∧ target.toNat = ((s.g a).toNat + imm.toNat) % 65536) →
      (header → ∃ t, exec i s = .next t ∧ s.st.arrives t.st target s.cc ∧ t.st.g = s.st.g ∧
        t.st.pend = s.st.pend ∧ s.strandOnly t) ∧
      (¬ header → ∃ t, exec i s = .next t ∧ s.stopsOn t (noHeader target))) ∧
    (∀ i r v, (i = .bal o ∧ r = 15 ∧ v = link ∧ (target.toNat : Int) = ((s.st.pc.toNat : Int) + 4 * o.toInt) % 65536) ∨
        (i = .jal d a imm ∧ r = d ∧ v = link ∧ target.toNat = ((s.g a).toNat + imm.toNat) % 65536) ∨
        (i = .loop d imm ∧ d ≠ 0 ∧ r = d ∧ v = s.g d - 1 ∧ s.g d ≠ 1 ∧
          (target.toNat : Int) = ((s.st.pc.toNat : Int) - 4 * (imm.toNat : Int)) % 65536) →
      (header → ∃ t, exec i s = .next t ∧ s.st.arrives t.st target s.cc ∧ s.holdsG t r v ∧
        s.pends t (.g r) 1 ∧ s.strandOnly t) ∧
      (¬ header → ∃ t, exec i s = .next t ∧ s.stopsOn t (noHeader target))) ∧
    (d ≠ 0 → s.g d = 1 → ∃ t, exec (.loop d imm) s = .next t ∧ s.writesG t d 0 1)) ∧
    (∀ (s : State) (a b : BitVec 4) (o : BitVec 14) (target : Addr) (i : Instr) (c : Bool),
    (target.toNat : Int) = ((s.st.pc.toNat : Int) + 4 * o.toInt) % 65536 →
    let header := (s.st.buf.valid = true ∧ s.st.buf.addr = target ∧ hdrLoop s.st.buf.hdr = true) ∨ s.me.isTarget target = true
    (i, c) ∈ ([(.beq a b o, decide (s.g a = s.g b)), (.bne a b o, decide (s.g a ≠ s.g b)),
      (.blt a b o, decide ((s.g a).toInt < (s.g b).toInt)), (.bge a b o, decide ((s.g b).toInt ≤ (s.g a).toInt)),
      (.blo a b o, decide ((s.g a).toNat < (s.g b).toNat)), (.bhs a b o, decide ((s.g b).toNat ≤ (s.g a).toNat)),
      (.bz a o, decide (s.g a = 0)), (.bnz a o, decide (s.g a ≠ 0))] : List (Instr × Bool)) →
    (c = true → header → ∃ t, exec i s = .next t ∧ s.st.arrives t.st target (s.cc + 1) ∧
      t.st.g = s.st.g ∧ t.st.pend = s.st.pend ∧ s.strandOnly t) ∧
    (c = true → ¬ header → ∃ t, exec i s = .next t ∧ s.stopsOn t (noHeader target)) ∧
    (c = false → ∃ t, exec i s = .next t ∧ s.st.passedFrom t.st (s.cc + 2) ∧
      t.st = { s.st with pc := t.st.pc, fill := t.st.fill, notBefore := s.cc + 2 } ∧ s.strandOnly t))

/-- YIELD passes and only makes its slot the one that yielded in this core cycle. SLEEP with a count of 0 passes; with another
count n its strand waits until core cycle issue + n, and SLEEP_END in that cycle or later makes a strand that is not frozen
ready, and before it does nothing. WAITM with an empty mask writes 64 to g[d]; with a message standing on wake channels of its
mask it writes the number of the lowest one, pending one core cycle; with none its strand waits. Nothing else changes. NOP
completes in every state: the strand passes it, and no register, flag, special register, scoreboard entry or byte of memory
changes. (Where the spec leaves a choice: log entry 9.) [04_strands_control.md R101; 04_strands_control.md R102;
04_strands_control.md R103; 04_strands_control.md R100] -/
def Obligations.NopAndWaitingInstructions : Prop :=
  (∀ (s : State) (d a : BitVec 4) (imm : BitVec 12),
    (∃ t, exec .yield s = .next t ∧ s.st.passed t.st ∧ s.st.sameButPend t.st ∧ t.st.pend = s.st.pend ∧
      s.ownCoreIs t { s.me with yielded := some (s.slot, s.cc) } ∧ s.sameMemory t) ∧
    (s.g a + imm.zeroExtend 32 = 0 → ∃ t, exec (.sleep a imm) s = .next t ∧ s.passesOnly t) ∧
    (s.g a + imm.zeroExtend 32 ≠ 0 → ∃ t, exec (.sleep a imm) s = .next t ∧
      s.waitsFor t (.sleep (s.cc + (s.g a + imm.zeroExtend 32).toNat))) ∧
    (∀ n, s.st.run = .waiting → s.st.frozen = false → s.st.wait = .sleep n →
      (n ≤ s.cc → ∃ t, exec (.sleepEnd s.cur s.slot.toNat) s = .next t ∧ t.st = { s.st with
        run := .ready, wait := .idle, notBefore := Nat.max s.st.notBefore s.cc } ∧ s.strandOnly t) ∧
      (s.cc < n → ∃ t, exec (.sleepEnd s.cur s.slot.toNat) s = .next t ∧ t.st = s.st ∧ s.strandOnly t)) ∧
    (s.p a = 0 → ∃ t, exec (.waitm d a) s = .next t ∧ s.writesG t d 64 1) ∧
    (s.p a ≠ 0 → s.st.frozen = false →
      (∀ ch : BitVec 6, (s.p a).getLsbD ch.toNat = true → s.me.trigAct ch = 3 → (s.me.standing ch).isSome = true →
        (∀ j : BitVec 6, j.toNat < ch.toNat → (s.p a).getLsbD j.toNat = false ∨ s.me.trigAct j ≠ 3 ∨ s.me.standing j = none) →
        ∃ t, exec (.waitm d a) s = .next t ∧ s.holdsG t d (ch.zeroExtend 32) ∧ s.pends t (.g d) 1 ∧ s.goesOn t ∧
          s.strandOnly t) ∧
      ((∀ ch : BitVec 6, (s.p a).getLsbD ch.toNat = false ∨ s.me.trigAct ch ≠ 3 ∨ s.me.standing ch = none) →
        ∃ t, exec (.waitm d a) s = .next t ∧ s.waitsFor t (.waitm d (s.p a))))) ∧
    (∀ (s : State), ∃ t, exec .nop s = .next t ∧ s.passesOnly t)

/-- SPAWN of an undeclared entry stops on NOENT with the entry in EINFO. With no request in the queue, no grant made in this
cycle and the entry's grants free, it completes: a new ready strand stands in the granted slot at the entry's address with g1
the argument, g2 = 64 + the spawner's slot and its other general registers zero, and g[d] holds the slot. Where that is not so,
SPAWN.NW writes 0xFFFFFFFF to g[d], and SPAWN enters the queue as its last, or waits for room while 16 requests stand in it, its
strand waiting. SPAWN_GRANT gives the queue's head its strand in the same way, and a waiting SPAWN's strand is ready with the
slot in g[d]. Of the requests that wait to enter a queue with one place, the one of the earliest core cycle enters, and of those
of one core cycle a SPAWN before a trigger action's, and these by ascending channel; a message whose request enters is taken.
EXIT and EXIT.SPLICE complete. With no pending scoreboard entry and no held join arrival the slot is free, for a spawn from the
next core cycle on, its registers keeping their values, its declaration withdrawn and, for EXIT.SPLICE, the core's splice flag
set; else the strand issues no more and waits for its entries to clear. Other strands, core memory, bobbins, tags, tiles and
accumulators are as before, and the strand's own registers too while it waits. (Where the spec leaves a choice: log entries 9
and 48.) [04_strands_control.md R85; 04_strands_control.md R86; 04_strands_control.md R104; 04_strands_control.md R105;
13_power_time.md R338; 07_messages.md R177] -/
def Obligations.SpawnAndExit : Prop :=
  (∀ (s : State) (d a : BitVec 4) (n : BitVec 1) (e : BitVec 4),
    (s.me.entry e = none → ∃ t, exec (.spawn d a n e) s = .next t ∧ s.stopsOn t ⟨0x05, e.zeroExtend 32, 0⟩) ∧
    ∀ ent, s.me.entry e = some ent →
      (∀ g, s.me.spawnQ = [] → s.me.grantHeld = false → s.me.grant ent = some g → s.st.run ≠ .free →
        ∃ t, exec (.spawn d a n e) s = .next t ∧ s.holdsG t d (g.1.zeroExtend 32) ∧ s.pends t (.g d) 1 ∧ s.st.passed t.st ∧
          s.st.sameButG t.st ∧ s.otherCoresSame t ∧ t.me = { s.me with strands := t.me.strands, grantHeld := true, exitRep := .none } ∧
          (∀ k, k ≠ s.slot → k ≠ g.1 → t.me.strand k = s.me.strand k) ∧ (t.me.strand g.1).run = .ready ∧
          (t.me.strand g.1).pc = ent.addr ∧ (t.me.strand g.1).fill = some ⟨ent.addr, .enter, s.cc + 1, none, 0, []⟩ ∧
          (t.me.strand g.1).status = mkStatus g.2.2.2 g.2.2.1 g.2.1 ent e g.1 ∧
          ∀ r, (t.me.strand g.1).getG r = if r = 1 then s.g a else if r = 2 then 64 + s.slot.zeroExtend 32 else 0) ∧
      ((s.me.spawnQ ≠ [] ∨ s.me.grantHeld = true ∨ s.me.grant ent = none) →
        (n = 1 → ∃ t, exec (.spawn d a n e) s = .next t ∧ s.writesG t d 0xFFFFFFFF 1) ∧
        (n = 0 → s.me.spawnQ.length < 16 → ∃ t, exec (.spawn d a n e) s = .next t ∧ s.st.left t.st ∧
          t.st = { s.st with run := .waiting, wait := .spawnGrant d, waitFrom := s.time, pc := t.st.pc, fill := t.st.fill, here := t.st.here } ∧
          s.sameMemory t ∧
          s.ownCoreIs t { s.me with spawnQ := s.me.spawnQ ++ [⟨e, s.g a, 64 + s.slot.zeroExtend 32, some (s.slot, d)⟩] }) ∧
        (n = 0 → 16 ≤ s.me.spawnQ.length → ∃ t, exec (.spawn d a n e) s = .next t ∧ s.waitsFor t (.spawnRoom d e (s.g a)))) ∧
      (∀ q rest g, s.me.spawnQ = q :: rest → q.entry = e → s.me.grantHeld = false → s.me.grant ent = some g → s.me.spawnAsks = [] →
        (∀ k b, q.waiter = some (k, b) → (s.me.strand k).run ≠ .free) →
        ∃ t, exec (.spawnGrant s.cur) s = .next t ∧ t.me.spawnQ = rest ∧ t.me.grantHeld = true ∧ s.otherCoresSame t ∧
          s.sameMemory t ∧ (∀ k, k ≠ g.1 → (∀ b, q.waiter ≠ some (k, b)) → t.me.strand k = s.me.strand k) ∧
          (∀ k b, q.waiter = some (k, b) → (t.me.strand k).run = .ready ∧ (t.me.strand k).getG b = (if b = 0 then 0 else g.1.zeroExtend 32) ∧
            ∀ r, r ≠ b → (t.me.strand k).getG r = (s.me.strand k).getG r) ∧ (t.me.strand g.1).run = .ready ∧
          (t.me.strand g.1).pc = ent.addr ∧ (t.me.strand g.1).fill = some ⟨ent.addr, .enter, s.cc + 1, none, 0, []⟩ ∧
          ∀ r, (t.me.strand g.1).getG r = if r = 1 then q.g1 else if r = 2 then q.g2 else 0)) ∧
    (∀ (s : State) (a : SpawnAsk), s.me.grantHeld = true → s.me.spawnQ.length = 15 → a ∈ s.me.spawnAsks →
      (∀ b, b ∈ s.me.spawnAsks → b = a ∨ a.cycle < b.cycle ∨ (a.cycle = b.cycle ∧ a.rank < b.rank)) →
      (∀ d e v, a.rank = 0 → (s.me.strand a.slot).wait = .spawnRoom d e v → ∃ t, exec (.spawnGrant s.cur) s = .next t ∧
        t.me.spawnQ = s.me.spawnQ ++ [⟨e, v, 64 + a.slot.zeroExtend 32, some (a.slot, d)⟩] ∧
        t.me.strand a.slot = { s.me.strand a.slot with wait := .spawnGrant d } ∧
        (∀ k, k ≠ a.slot → t.me.strand k = s.me.strand k) ∧ s.otherCoresSame t ∧ s.sameMemory t) ∧
      (∀ (ch : BitVec 6) m e n, a.rank = ch.toNat + 1 → s.me.localAt ch = some m → m.st = .queue e n →
        ∃ t, exec (.spawnGrant s.cur) s = .next t ∧ t.me.spawnQ = s.me.spawnQ ++ [⟨e, m.word0, ch.zeroExtend 32, none⟩] ∧
          t.me.locals = (s.me.takeLocal ch).locals ∧ t.me.strands = s.me.strands ∧ s.sameMemory t)) ∧
    (∀ (s : State) (i : Instr) (b : Bool), (i, b) ∈ ([(.exit, false), (.exitSplice, true)] : List (Instr × Bool)) →
    (s.st.pend = [] → s.st.rel = [] → ∃ t, exec i s = .next t ∧
      t.st = { Strand.reset with
        g := s.st.g, m := s.st.m, pc := s.st.pc, status := s.st.status, stamp := s.st.stamp, frame := s.st.frame, fsel := s.st.fsel,
        inbind := s.st.inbind, astat := s.st.astat, undecl := s.st.undecl, tpr := s.st.tpr, proj := s.st.proj, map := s.st.map,
        notBefore := s.cc + 1 } ∧ t.me.splice = (s.me.splice || b) ∧
      s.otherStrandsSame t ∧ t.me = { s.me with
        strands := t.me.strands, splice := t.me.splice, lastGone := t.me.lastGone,
        drainM := s.me.drainM.map fun w => if w.slot = s.slot then { w with own := false } else w } ∧
      (∀ l, l ≠ s.cur → t.core l = s.core l) ∧ t = { s with cores := t.cores, domains := t.domains } ∧ s.sameMemory t) ∧
    (s.st.pend ≠ [] ∨ s.st.rel ≠ [] → ∃ t, exec i s = .next t ∧ t.st = { s.st with hold := .exiting b } ∧ s.strandOnly t))

/-- In every state, each register and immediate integer instruction of Tables 5.1 and 5.2 (but CLZ, CTZ and POPC, stated apart)
and SEL completes: g[d] takes the table's result (g0 keeps reading zero), pending for one core cycle; the strand passes the
instruction; every other register, flag, special register, core and byte of memory is as before. [05_scalar_vector.md Table 5.1;
05_scalar_vector.md Table 5.2; 04_strands_control.md R107; 02_assembly_encoding.md Table 2.6] -/
def Obligations.ScalarResults : Prop :=
  ∀ (s : State) (d a b c : BitVec 4) (imm : BitVec 16) (n : BitVec 5) (i : Instr) (v : Word),
    (i, v) ∈ ([(.add d a b, s.g a + s.g b), (.sub d a b, s.g a - s.g b), (.and d a b, s.g a &&& s.g b),
      (.or d a b, s.g a ||| s.g b), (.xor d a b, s.g a ^^^ s.g b), (.andn d a b, s.g a &&& ~~~(s.g b)),
      (.shl d a b, s.g a <<< ((s.g b).toNat % 32)), (.shr d a b, s.g a >>> ((s.g b).toNat % 32)),
      (.sar d a b, (s.g a).sshiftRight ((s.g b).toNat % 32)), (.rol d a b, (s.g a).rotateLeft ((s.g b).toNat % 32)),
      (.slt d a b, if (s.g a).toInt < (s.g b).toInt then 1 else 0),
      (.sltu d a b, if (s.g a).toNat < (s.g b).toNat then 1 else 0),
      (.min d a b, if (s.g a).toInt ≤ (s.g b).toInt then s.g a else s.g b),
      (.max d a b, if (s.g a).toInt ≤ (s.g b).toInt then s.g b else s.g a),
      (.minu d a b, if (s.g a).toNat ≤ (s.g b).toNat then s.g a else s.g b),
      (.maxu d a b, if (s.g a).toNat ≤ (s.g b).toNat then s.g b else s.g a),
      (.addi d a imm, s.g a + imm.signExtend 32), (.slti d a imm, if (s.g a).toInt < imm.toInt then 1 else 0),
      (.andi d a imm, s.g a &&& imm.signExtend 32), (.ori d a imm, s.g a ||| imm.zeroExtend 32),
      (.xori d a imm, s.g a ^^^ imm.zeroExtend 32), (.shli d a n, s.g a <<< n.toNat), (.shri d a n, s.g a >>> n.toNat),
      (.sari d a n, (s.g a).sshiftRight n.toNat), (.lui d imm, imm ++ 0#16),
      (.sel d a b c, if s.g c ≠ 0 then s.g a else s.g b)] : List (Instr × Word)) →
    ∃ t, exec i s = .next t ∧ s.writesG t d v 1

/-- In every state CLZ, CTZ and POPC complete and write to g[d] a count n of at most 32: for CLZ the n top bits of g[a] are zero
and the bit below them, if there is one, is one; for CTZ the n bottom bits are zero and the bit above them, if there is one, is
one; for POPC n is the number of bits of g[a] that are one. Nothing else changes. For a field of w bits at position p with p + w
at most 32 (the width field holds w - 1), BFX and BFX.S complete and write to g[d] the word whose low w bits are bits p+w-1:p of
g[a] and whose other bits are zero, or with sx = 1 copies of bit p+w-1; BFI writes to g[d] the old g[d] with bits p+w-1:p
replaced by the low w bits of g[a]. Nothing else changes. [05_scalar_vector.md Table 5.1; 05_scalar_vector.md R112 (its Effect)]
-/
def Obligations.BitCountsAndFields : Prop :=
  (∀ (s : State) (d a : BitVec 4),
    (∃ t n, exec (.clz d a) s = .next t ∧ s.writesG t d (BitVec.ofNat 32 n) 1 ∧ n ≤ 32 ∧
      (∀ k, k < n → (s.g a).getLsbD (31 - k) = false) ∧ (n < 32 → (s.g a).getLsbD (31 - n) = true)) ∧
    (∃ t n, exec (.ctz d a) s = .next t ∧ s.writesG t d (BitVec.ofNat 32 n) 1 ∧ n ≤ 32 ∧
      (∀ k, k < n → (s.g a).getLsbD k = false) ∧ (n < 32 → (s.g a).getLsbD n = true)) ∧
    (∃ t, exec (.popc d a) s = .next t ∧
      s.writesG t d (BitVec.ofNat 32 ((List.range 32).countP fun k => (s.g a).getLsbD k)) 1)) ∧
    (∀ (s : State) (d a : BitVec 4) (sx : BitVec 1) (p w : BitVec 5), p.toNat + (w.toNat + 1) ≤ 32 →
    (∃ t v, exec (.bfx d a sx p w) s = .next t ∧ s.writesG t d v 1 ∧ ∀ j, j < 32 → v.getLsbD j =
      if j ≤ w.toNat then (s.g a).getLsbD (p.toNat + j) else sx == 1 && (s.g a).getLsbD (p.toNat + w.toNat)) ∧
    (∃ t v, exec (.bfi d a p w) s = .next t ∧ s.writesG t d v 1 ∧ ∀ j, j < 32 → v.getLsbD j =
      if p.toNat ≤ j ∧ j ≤ p.toNat + w.toNat then (s.g a).getLsbD (j - p.toNat) else (s.g d).getLsbD j))

/-- For an even d, ADD64, ADDI64 and LEA (both forms) complete: P(d) = g[d+1] : g[d] takes the sum of Table 5.3 modulo 2^64
(with d = 0 the low half is discarded and g1 takes the high half), both halves pending for one core cycle; every other register,
special register, core and byte of memory is as before. MUL, MULH and MULHU complete: g[d] takes bits 31:0 of the product, bits
63:32 of the product of the sign-extended operands, and bits 63:32 of the product of the zero-extended operands, pending for
three core cycles; nothing else changes. [05_scalar_vector.md Table 5.3; 02_assembly_encoding.md Table 2.6; 05_scalar_vector.md
Table 5.4] -/
def Obligations.PairsAndProducts : Prop :=
  (∀ (s : State) (d a b ih : BitVec 4) (il : BitVec 8) (sx : BitVec 1) (n : BitVec 3) (i : Instr) (v : Dword),
    d.toNat % 2 = 0 →
    (i, v) ∈ ([(.add64 d a b, s.p a + s.p b), (.addi64 d a ih il, s.p a + (ih ++ il : BitVec 12).signExtend 64),
      (.lea d a b sx n, s.p a + ((if sx = 1 then (s.g b).signExtend 64 else (s.g b).zeroExtend 64) <<< n.toNat))] :
      List (Instr × Dword)) →
    ∃ t, exec i s = .next t ∧ t.g d = (if d = 0 then 0 else v.truncate 32) ∧ t.g (d + 1) = (v >>> 32).truncate 32 ∧
      (∀ r, r ≠ d → r ≠ d + 1 → t.g r = s.g r) ∧
      t.st.pend = s.st.pend ++ [⟨.g d, some (s.cc + 1), false⟩, ⟨.g (d + 1), some (s.cc + 1), false⟩] ∧
      s.st.passed t.st ∧ s.st.sameButG t.st ∧ s.strandOnly t) ∧
    (∀ (s : State) (d a b : BitVec 4) (i : Instr) (v : Word),
    (i, v) ∈ ([(.mul d a b, ((s.g a).zeroExtend 64 * (s.g b).zeroExtend 64).truncate 32),
      (.mulh d a b, (((s.g a).signExtend 64 * (s.g b).signExtend 64) >>> 32).truncate 32),
      (.mulhu d a b, (((s.g a).zeroExtend 64 * (s.g b).zeroExtend 64) >>> 32).truncate 32)] : List (Instr × Word)) →
    ∃ t, exec i s = .next t ∧ s.writesG t d v 3)

/-- DIV, DIVU, REM and REMU complete for all operands. With a non-zero divisor and no signed overflow the quotient is truncated
toward zero and the remainder has the dividend's sign; a zero divisor gives 0x7FFFFFFF or 0x80000000 by the dividend's sign
(DIV), 0xFFFFFFFF (DIVU), the dividend (REM, REMU) and raises ASTAT.IDZ; 0x80000000 / -1 gives 0x7FFFFFFF and 0 and raises
ASTAT.IOV. Result and flag take effect 34 core cycles after issue, the divider is taken for 32, and nothing else changes.
[05_scalar_vector.md Table 5.4; 05_scalar_vector.md Table 5.6] -/
def Obligations.DivisionResults : Prop :=
  ∀ (s : State) (d a b : BitVec 4) (i : Instr), i ∈ ([.div d a b, .divu d a b, .rem d a b, .remu d a b] : List Instr) →
    let x := s.g a
    let y := s.g b
    let signed := i = .div d a b ∨ i = .rem d a b
    let ovf := x = 0x80000000 ∧ y = 0xFFFFFFFF
    ∃ t v bits, exec i s = .next t ∧
      s.writesGFlags t d v 34 bits false (s.me.withUnits fun u => { u with divider := s.cc + 32 }) ∧
      (y ≠ 0 → ¬ ovf → (i = .div d a b → v.toInt = x.toInt.tdiv y.toInt) ∧ (i = .rem d a b → v.toInt = x.toInt.tmod y.toInt)) ∧
      (y ≠ 0 → (i = .divu d a b → v.toNat = x.toNat / y.toNat) ∧ (i = .remu d a b → v.toNat = x.toNat % y.toNat)) ∧
      (y = 0 → (i = .div d a b → v = if x.toInt < 0 then 0x80000000 else 0x7FFFFFFF) ∧ (i = .divu d a b → v = 0xFFFFFFFF) ∧
        (i = .rem d a b ∨ i = .remu d a b → v = x)) ∧
      (ovf → (i = .div d a b → v = 0x7FFFFFFF) ∧ (i = .rem d a b → v = 0)) ∧
      bits = if y = 0 then 0b0100000 else if signed ∧ ovf then 0b1000000 else 0

/-- A result that an instruction writes to g0 or to m0 with any latency leaves every general register, every mask register and
all memory reading as before, while the register's scoreboard entry is made as for any other register. [R45] -/
def Obligations.DiscardedWrites : Prop :=
  ∀ (s : State) (v : Word) (lat : Nat),
    ((∀ r, (s.setG 0 v lat).g r = s.g r) ∧ (∀ r, (s.setG 0 v lat).m r = s.m r) ∧ s.pends (s.setG 0 v lat) (.g 0) lat ∧
      s.strandOnly (s.setG 0 v lat)) ∧
    ((∀ r, (s.setM 0 v lat).g r = s.g r) ∧ (∀ r, (s.setM 0 v lat).m r = s.m r) ∧ s.pends (s.setM 0 v lat) (.m 0) lat ∧
      s.strandOnly (s.setM 0 v lat))

/-- FADD, FSUB, FMUL, FMA, FMIN, FMAX, FABS, FNEG, FCMP and FCVT complete on all operands. g[d] takes the value of Table 5.5 on
the operands' exact values, rounded once by the mode field; the flags the rounding raises, and IV for a signalling NaN operand
or for a NaN made from operands that are not NaN, are raised in ASTAT when the latency of Table 5.5 elapses. Nothing else
changes. FDIV and FSQRT complete on all operands. g[d] takes the quotient or square root of the operands' exact values, rounded
once, after 14 and 16 core cycles; the divide unit is taken for 11 and 13; a finite non-zero dividend over a zero raises DZ, a
signalling NaN or a NaN made from operands that are not NaN raises IV, and the rounding its own flags. Nothing else changes.
(Where the spec leaves a choice: log entry 17.) [05_scalar_vector.md Table 5.5; 05_scalar_vector.md R114 (predicate table);
05_scalar_vector.md Table 5.6] -/
def Obligations.FloatResults : Prop :=
  (∀ (s : State) (d a b : BitVec 4) (m p sx ty : BitVec 3) (i : Instr) (v : Word) (fl : FFlags) (lat : Nat),
    let x := decFp32 (s.g a)
    let y := decFp32 (s.g b)
    let z := decFp32 (s.g d)
    let md := Mode.ofCode m
    let sn := isSnan (s.g a) || isSnan (s.g b)
    let made := fun (r : Val) (ops : List Val) => r.isNan && ops.all fun o => !o.isNan
    let iv := fun (c : Bool) => if c then (0b00001 : FFlags) else 0
    (i, v, fl, lat) ∈ ([
      (.fadd d a b m, (encFp32F (x.add y md) md 0).1, (encFp32F (x.add y md) md 0).2 ||| iv (made (x.add y md) [x, y] || sn), 4),
      (.fsub d a b m, (encFp32F (x.add y.neg md) md 0).1,
        (encFp32F (x.add y.neg md) md 0).2 ||| iv (made (x.add y.neg md) [x, y] || sn), 4),
      (.fmul d a b m, (encFp32F (x.mul y) md 0).1, (encFp32F (x.mul y) md 0).2 ||| iv (made (x.mul y) [x, y] || sn), 4),
      (.fma d a b m, (encFp32F ((x.mul y).add z md) md 0).1, (encFp32F ((x.mul y).add z md) md 0).2 |||
        iv (made (x.mul y) [x, y] || made ((x.mul y).add z md) [x, y, z] || sn || isSnan (s.g d)), 4),
      (.fmin d a b, encFp32 (x.min y) .rne 0, iv sn, 2), (.fmax d a b, encFp32 (x.max y) .rne 0, iv sn, 2),
      (.fabs d a, s.g a &&& 0x7FFFFFFF, 0, 2), (.fneg d a, s.g a ^^^ 0x80000000, 0, 2),
      (.fcmp d a b p, if fcmpHolds p x y then 1 else 0, iv ((p = 1 || p = 2) && (x.isNan || y.isNan) || sn), 2),
      (.fcvt d a sx ty m, (fcvtEncode ty (fcvtValue sx (s.g a)) md).1,
        (fcvtEncode ty (fcvtValue sx (s.g a)) md).2 ||| iv (fcvtSnan sx (s.g a)), 3)] :
      List (Instr × Word × FFlags × Nat)) →
    ∃ t, exec i s = .next t ∧ s.writesGFlags t d v lat (fl.zeroExtend 7) true s.me) ∧
    (∀ (s : State) (d a b : BitVec 4) (m : BitVec 3),
    let x := decFp32 (s.g a)
    let y := decFp32 (s.g b)
    let q := encFp32F (x.div y) (Mode.ofCode m) 0
    let r := encFp32F x.sqrt (Mode.ofCode m) 0
    let iv := fun (c : Bool) => if c then (0b00001 : FFlags) else 0
    let dz : FFlags := if y.isZero && !x.isZero && !x.isNan && !x.isInf then 0b00010 else 0
    (∃ t, exec (.fdiv d a b m) s = .next t ∧ s.writesGFlags t d q.1 14
      ((q.2 ||| (iv ((x.div y).isNan && !x.isNan && !y.isNan || isSnan (s.g a) || isSnan (s.g b)) ||| dz)).zeroExtend 7) true
      (s.me.withUnits fun u => { u with fdiv := s.cc + 11 })) ∧
    (∃ t, exec (.fsqrt d a m) s = .next t ∧ s.writesGFlags t d r.1 16
      ((r.2 ||| iv (x.sqrt.isNan && !x.isNan || isSnan (s.g a))).zeroExtend 7) true
      (s.me.withUnits fun u => { u with fdiv := s.cc + 13 })))

/-- For a strand that is not exiting, RESULT_LATENCY_ELAPSED completes: exactly the scoreboard entries due later than the core's
cycle, or awaiting a reply, remain; the flag raises that are due have been taken into ASTAT in order and the others remain; no
sticky bit of ASTAT is lost; g, m, the pc, the run state and all the rest of the module are as before. (Where the spec leaves a
choice: log entry 7.) [04_strands_control.md R93; 05_scalar_vector.md R115] -/
def Obligations.LatencyElapsed : Prop :=
  ∀ (s : State) (k : Nat), let j := BitVec.ofNat 3 k
    (∀ b, (s.me.strand j).hold ≠ .exiting b) →
    ∃ t, exec (.resultLatencyElapsed s.cur k) s = .next t ∧
      (∀ p, p ∈ (t.me.strand j).pend ↔ p ∈ (s.me.strand j).pend ∧ ∀ n, p.due = some n → s.me.cc < n) ∧
      (t.me.strand j).astat = ((s.me.strand j).flags.filter fun f => decide (f.due ≤ s.me.cc)).foldl raise (s.me.strand j).astat ∧
      (t.me.strand j).flags = ((s.me.strand j).flags.filter fun f => decide (s.me.cc < f.due)) ∧
      (∀ b, b < 7 → (s.me.strand j).astat.getLsbD b = true → (t.me.strand j).astat.getLsbD b = true) ∧
      t.me.strand j = { s.me.strand j with pend := (t.me.strand j).pend, flags := (t.me.strand j).flags,
                                           astat := (t.me.strand j).astat } ∧
      s.otherCoresSame t ∧ (∀ i, i ≠ j → t.me.strand i = s.me.strand i) ∧ t.me = { s.me with strands := t.me.strands } ∧
      s.sameMemory t

/-- VADD, VSUB, VMUL, VFMA, VMIN, VMAX, VBLK, VSCL, VRCP, VRSQ, VSEL, VSHUF, VCVT without SR and VRED complete on all operands:
v[d] takes the value result of R120 on the lanes' exact values (for VSEL and VSHUF in other than B formats the lanes
themselves), pending for the latency of Table 5.9; the vector unit is taken for one core cycle, two for VRED; nothing else
changes. VCVT with SR uses the draws of the advanced VCVT generator and leaves it advanced by one step. In a value result with a
format other than the B formats, lane i holds the encoding of the new value where mask bit i is 1 and vd's old lane where it is
0, and the side band is vd's. With a B format a block no lane of which is selected keeps all its lanes and its side pair,
whatever the new values are. (Where the spec leaves a choice: log entries 17 and 18.) [05_scalar_vector.md R120;
05_scalar_vector.md R123; 05_scalar_vector.md R126; 05_scalar_vector.md R127; 05_scalar_vector.md R128; 05_scalar_vector.md
R129; 05_scalar_vector.md R130; 05_scalar_vector.md R132; 05_scalar_vector.md R133; 05_scalar_vector.md Table 5.9;
05_scalar_vector.md R119] -/
def Obligations.VectorValueResults : Prop :=
  (∀ (s : State) (d a b c : BitVec 4) (sx h : BitVec 1) (m : BitVec 3) (o k : BitVec 2) (f sf : BitVec 3) (imm : BitVec 8)
      (i : Instr) (x : VReg) (lat occ : Nat),
    let x1 := (s.v a).vals f
    let y1 := (s.v b).vals f
    let z1 := (s.v c).vals f
    let ie : IntEnc := if sx = 1 then .clamp else .wrap
    let val := fun (vs : List Val) (ie : IntEnc) (md : Mode) => (s.v d).valueResult f (s.m k) vs ie md []
    let n := lanesOf f
    let src := (s.v a).vals sf
    let cv := if lanesOf sf = 32 ∧ lanesOf f = 16 then src.drop (16 * h.toNat)
      else if lanesOf sf = 16 ∧ lanesOf f = 32 then List.replicate (16 * h.toNat) .nan ++ src ++ List.replicate 16 .nan else src
    let cm := if lanesOf sf = 16 ∧ lanesOf f = 32 then s.m k &&& (0xFFFF <<< (16 * h.toNat)) else s.m k
    ((i, x, lat, occ) ∈ ([
      (.vadd d a b sx k f, val (x1.zipWith (fun u v => u.add v .rne) y1) ie .rne, vecLat f 2 4 5, 1),
      (.vsub d a b sx k f, val (x1.zipWith (fun u v => u.add v.neg .rne) y1) ie .rne, vecLat f 2 4 5, 1),
      (.vmul d a b sx k f, val (x1.zipWith Val.mul y1) ie .rne, vecLat f 3 4 6, 1),
      (.vfma d a b c k f, val ((x1.zipWith Val.mul y1).zipWith (fun u v => u.add v .rne) z1) .wrap .rne, vecLat f 3 4 6, 1),
      (.vmin d a b k f, val (x1.zipWith Val.min y1) .wrap .rne, vecLat f 2 4 5, 1),
      (.vmax d a b k f, val (x1.zipWith Val.max y1) .wrap .rne, vecLat f 2 4 5, 1),
      (.vblk d a m k f, val x1 .wrap (Mode.ofCode m), 4, 1),
      (.vscl d a imm k f, val (x1.map fun v => v.scale imm.toInt) .wrap .rne, vecLat f 2 4 5, 1),
      (.vrcp d a k f, val (x1.map rcpVal) .wrap .rne, 6, 1), (.vrsq d a k f, val (x1.map rsqVal) .wrap .rne, 6, 1),
      (.vsel d a b k f, if isB f then (s.v d).valueResult f 0xFFFFFFFF
          ((List.range n).map fun j => if (s.m k).getLsbD j then x1.getD j .nan else y1.getD j .nan) .wrap .rne []
        else (s.v d).withLanes f ((List.range n).map fun j => if (s.m k).getLsbD j then (s.v a).lane f j else (s.v b).lane f j),
        vecLat f 2 4 5, 1),
      (.vshuf d a b k f, if isB f then val ((List.range n).map fun j => x1.getD (((s.v b).lane f j).toNat % n) .nan) .wrap .rne
        else (s.v d).rawResult f (s.m k) ((List.range n).map fun j => (s.v a).lane f (((s.v b).lane f j).toNat % n)) 0,
        vecLat f 3 4 6, 1),
      (.vred d a sx o k f, if isB f then
          let r := (pack f (vredVal o f (s.m k) x1 :: List.replicate 15 (Val.ofInt 0)) .rne []).row
          ⟨Vector.ofFn fun j : Fin 32 => r.1.getD j.val 0, 0xFF00#16 ++ r.2⟩
        else (s.v d).withLanes f [encLane f ie .rne 0 (vredVal o f (s.m k) x1)], vecLat f 6 8 8, 2)] :
      List (Instr × VReg × Nat × Nat)) →
      ∃ t, exec i s = .next t ∧ s.writesV t d x lat (s.me.withUnits fun u => { u with vector := s.cc + occ })) ∧
    (m ≠ 4 → ∃ t, exec (.vcvt d a h m k f sf) s = .next t ∧
      s.writesV t d ((s.v d).valueResult f cm cv .conv (Mode.ofCode m) []) 5 (s.me.withUnits fun u => { u with vector := s.cc + 1 })) ∧
    (∃ t, exec (.vcvt d a h 4 k f sf) s = .next t ∧
      s.writesV t d ((s.v d).valueResult f cm cv .conv .sr ((List.range 32).map (srdraw (xs32 s.me.srVcvt)))) 5
        { s.me.withUnits (fun u => { u with vector := s.cc + 1 }) with srVcvt := xs32 s.me.srVcvt })) ∧
    (∀ (old : VReg) (f : BitVec 3) (m : Word) (x : List Val) (ie : IntEnc) (md : Mode) (rnd : List Nat),
    (isB f = false → (old.valueResult f m x ie md rnd).side = old.side ∧ ∀ i, i < lanesOf f →
      (old.valueResult f m x ie md rnd).lane f i = if m.getLsbD i = true then
        (if lanesOf f = 16 then encLane f ie md (rnd.getD i 0) (x.getD i .nan)
         else ((encLane f ie md (rnd.getD i 0) (x.getD i .nan)).truncate 16 : BitVec 16).zeroExtend 32)
      else old.lane f i) ∧
    (isB f = true → ∀ b, b < 2 → (∀ i, i < 16 → m.getLsbD (16 * b + i) = false) →
      (old.valueResult f m x ie md rnd).sideOf b = old.sideOf b ∧
        ∀ i, i < 16 → (old.valueResult f m x ie md rnd).lane16 (16 * b + i) = old.lane16 (16 * b + i)))

/-- VAND, VOR, VXOR, VMOV, VSHL, VSHR, VBCAST and VINS complete on all operands (W16 is no vector format) with a latency of two
core cycles. In every format, a selected lane of v[d] holds the operation on va's and vb's lanes (for a shift by s the low n
bits are the shifted element, all zero or all sign fill when s is at least n), an unselected one its old contents; in a B format
the side pair of a block with a selected lane comes from va (VBCAST: from g[a]), every other side pair, and the side band in
other formats, is kept. VINS writes one lane, or with L = 32 the side band alone. Nothing else changes. [05_scalar_vector.md
R119; 05_scalar_vector.md R120; 05_scalar_vector.md R124; 05_scalar_vector.md R131; 05_scalar_vector.md Table 5.9] -/
def Obligations.VectorLaneResults : Prop :=
  ∀ (s : State) (d a b : BitVec 4) (k : BitVec 2) (f : BitVec 3) (l : BitVec 8), f ≠ 7 →
    let unit := s.me.withUnits fun u => { u with vector := s.cc + 1 }
    let sel := fun i => (s.m k).getLsbD i
    let n := shiftWidth f
    let sides := fun (r : VReg) (src : Word) => ∀ p, p < 2 → r.sideOf p =
      if isB f = true ∧ ∃ j, j < 16 ∧ sel (16 * p + j) = true then BitVec.ofNat 16 (src.toNat / 65536 ^ p) else (s.v d).sideOf p
    (∀ i op, (i, op) ∈ ([(.vand d a b k f, fun u v => u &&& v), (.vor d a b k f, fun u v => u ||| v),
        (.vxor d a b k f, fun u v => u ^^^ v), (.vmov d a k f, fun u _ => u)] : List (Instr × (Word → Word → Word))) →
      ∃ t r, exec i s = .next t ∧ s.writesV t d r 2 unit ∧ sides r (s.v a).side ∧ ∀ j, j < lanesOf f →
        r.lane f j = if sel j = true then op ((s.v a).lane f j) ((s.v b).lane f j) else (s.v d).lane f j) ∧
    (∀ i op, (i, op) ∈ ([(.vshl d a b k f, fun e sh => if n ≤ sh then 0 else e * 2 ^ sh % 2 ^ n),
        (.vshr d a b 0 k f, fun e sh => e % 2 ^ n / 2 ^ sh),
        (.vshr d a b 1 k f, fun e sh => (sext e n / 2 ^ sh % 2 ^ n).toNat)] : List (Instr × (Nat → Nat → Nat))) →
      ∃ t r, exec i s = .next t ∧ s.writesV t d r 2 unit ∧ sides r (s.v a).side ∧ ∀ j, j < lanesOf f →
        if sel j = true then (r.lane f j).toNat % 2 ^ n = op ((s.v a).lane f j).toNat (((s.v b).lane f j).toNat % 256)
        else r.lane f j = (s.v d).lane f j) ∧
    (∃ t r, exec (.vbcast d a k f) s = .next t ∧ s.writesV t d r 2 unit ∧
      sides r (((s.g a) >>> 16) ||| (s.g a &&& 0xFFFF0000)) ∧ ∀ j, j < lanesOf f →
      if sel j = true then (r.lane f j).toNat % 2 ^ n = (s.g a).toNat % 2 ^ n else r.lane f j = (s.v d).lane f j) ∧
    (l.toNat < lanesOf f → ∃ t r, exec (.vins d a l f) s = .next t ∧ s.writesV t d r 2 unit ∧ r.side = (s.v d).side ∧
      (r.lane f l.toNat).toNat % 2 ^ n = (s.g a).toNat % 2 ^ n ∧
      ∀ j, j < lanesOf f → j ≠ l.toNat → r.lane f j = (s.v d).lane f j) ∧
    (∃ t, exec (.vins d a 32 f) s = .next t ∧ s.writesV t d { s.v d with side := s.g a } 2 unit)

/-- VABS and VNEG complete on all operands with a latency of two core cycles. On BF16 and FP32 each selected lane's sign bit
alone is cleared or inverted; on integers it holds the magnitude or the negative, wrapped or, with sat, clamped; on a B format
each block is treated in one of the three ways of R123. Nothing else changes. VCMP completes and writes m[d] with the predicate
on the lanes' exact values in selected lanes and 0 in all others, pending three core cycles; VMOV.MG writes g[a] to m[d]; a
write to m0 is discarded. VEXT writes a lane (the side band for L = 32 in a B format) to g[d] after three core cycles, VMOV.GM a
mask register (m0 reads as all ones) after two. The vector unit is taken for one cycle; every other register and all memory are
as before. [05_scalar_vector.md R123; 05_scalar_vector.md Table 5.9; 05_scalar_vector.md R125; 05_scalar_vector.md R131;
02_assembly_encoding.md R45] -/
def Obligations.VectorSignsAndMoves : Prop :=
  (∀ (s : State) (d a : BitVec 4) (sx : BitVec 1) (k : BitVec 2) (f : BitVec 3) (i : Instr) (neg : Bool),
    let unit := s.me.withUnits fun u => { u with vector := s.cc + 1 }
    let sign : Word := if f = 3 then 0x8000 else 0x80000000
    let op := fun z : Int => if neg then -z else (z.natAbs : Int)
    let blk := signBlock f (s.m k) (s.v a) (s.v d) (d == a) op
    (i, neg) ∈ ([(.vabs d a sx k f, false), (.vneg d a sx k f, true)] : List (Instr × Bool)) →
    (f = 3 ∨ f = 4 → ∃ t, exec i s = .next t ∧ s.writesV t d ((s.v d).rawResult f (s.m k) ((List.range (lanesOf f)).map fun j =>
      if neg then (s.v a).lane f j ^^^ sign else (s.v a).lane f j &&& ~~~sign) 0) 2 unit) ∧
    (f = 5 ∨ f = 6 → ∃ t, exec i s = .next t ∧ s.writesV t d ((s.v d).valueResult f (s.m k) (((s.v a).vals f).map fun v =>
      if neg then v.neg else v.abs) (if sx = 1 then .clamp else .wrap) .rne []) 2 unit) ∧
    (isB f = true → ∃ t, exec i s = .next t ∧ s.writesV t d ⟨Vector.ofFn fun j : Fin 32 =>
      ((blk 0).1 ++ (blk 1).1).getD j.val 0, (blk 1).2 ++ (blk 0).2⟩ 2 unit)) ∧
    (∀ (s : State) (d a b p : BitVec 4) (md k ma : BitVec 2) (f : BitVec 3) (l : BitVec 8),
    let unit := s.me.withUnits fun u => { u with vector := s.cc + 1 }
    let writesM := fun (t : State) (v : Word) (lat : Nat) => t.m md = (if md = 0 then 0xFFFFFFFF else v) ∧
      (∀ r, r ≠ md → t.m r = s.m r) ∧ s.pends t (.m md) lat ∧ s.st.passed t.st ∧
      t.st = { s.st with m := t.st.m, pend := t.st.pend, pc := t.st.pc, fill := t.st.fill } ∧ s.ownCoreIs t unit ∧ s.sameMemory t
    let writesGU := fun (t : State) (v : Word) (lat : Nat) => s.holdsG t d v ∧ s.pends t (.g d) lat ∧ s.st.passed t.st ∧
      s.st.sameButG t.st ∧ s.ownCoreIs t unit ∧ s.sameMemory t
    (∃ t v, exec (.vcmp md a b p k f) s = .next t ∧ writesM t v 3 ∧ ∀ j, j < 32 → v.getLsbD j =
      (decide (j < lanesOf f) && (s.m k).getLsbD j &&
        vcmpHolds p (((s.v a).vals f).getD j .nan) (((s.v b).vals f).getD j .nan))) ∧
    (∃ t, exec (.vmovMg md a) s = .next t ∧ writesM t (s.g a) 2) ∧
    (∃ t, exec (.vmovGm d ma) s = .next t ∧ writesGU t (if ma = 0 then 0xFFFFFFFF else s.m ma) 2) ∧
    (∃ t, exec (.vext d a 32 f) s = .next t ∧ writesGU t (s.v a).side 3) ∧
    (l.toNat < lanesOf f → ∃ t, exec (.vext d a l f) s = .next t ∧ writesGU t
      (if f = 3 ∨ f = 4 ∨ f = 6 then (s.v a).lane f l.toNat
       else (((s.v a).lane f l.toNat).truncate 16 : BitVec 16).signExtend 32) 3))

/-- With p = (g[a] + offset) mod 65,536 and a width of 1, 2, 4 or 8 bytes: LD at a multiple of the width whose bytes raise no
bobbin or memory fault completes. g[d] (for a doubleword P(d), d even) takes the bytes in little-endian order, zero-extended,
pending three core cycles; the word stands last before the data port; of the rest of the module only the count of corrected
errors may change, and no memory. A misaligned address stops the strand on MISAL with the address and the log of the width; a
bobbin or memory fault of the access stops it on that fault. [06_local_memory.md R150; 06_local_memory.md R149;
06_local_memory.md R142; 06_local_memory.md R138; 00_scope.md R2] -/
def Obligations.ScalarLoads : Prop :=
  ∀ (s : State) (d a : BitVec 4) (sx : BitVec 2) (o : BitVec 16),
    let n := 2 ^ sx.toNat
    let p := ((s.g a).toNat + o.toNat) % 65536
    let v : Dword := BitVec.ofNat 64 (ofBytes ((List.range n).map fun i => Memory.get s.me.sram ((p + i) % 65536)))
    (p % n = 0 → s.me.readFault p n = none → (sx = 3 → d.toNat % 2 = 0) → ∃ t, exec (.ld d a sx o) s = .next t ∧
      t.g d = (if d = 0 then 0 else v.truncate 32) ∧ (sx = 3 → t.g (d + 1) = (v >>> 32).truncate 32) ∧
      (∀ r, r ≠ d → (sx = 3 → r ≠ d + 1) → t.g r = s.g r) ∧
      t.st.pend = s.st.pend ++ (⟨.g d, some (s.cc + 3), false⟩ :: if sx = 3 then [⟨.g (d + 1), some (s.cc + 3), false⟩] else []) ∧
      s.st.passed t.st ∧ s.st.sameButG t.st ∧
      s.ownCoreIs t { s.me with dataQ := s.me.dataQ ++ [[p / 8]], sramce := t.me.sramce } ∧ s.sameMemory t) ∧
    (p % n ≠ 0 → ∃ t, exec (.ld d a sx o) s = .next t ∧ s.stopsOn t ⟨0x08, BitVec.ofNat 16 p ++ sx.zeroExtend 16, 0⟩) ∧
    (p % n = 0 → ∀ f, s.me.readFault p n = some f → ∃ t, exec (.ld d a sx o) s = .next t ∧ s.stopsOn t f)

/-- ST at an address p = (g[a] + offset) mod 65,536 that is a multiple of its width, whose bytes raise no bobbin or memory
fault, completes: with the core's SRAM in its canonical form, byte i of the width at p takes byte i of g[d] (of P(d) for a
doubleword); every other byte of memory, every register and the scoreboard are as before, and the word stands last before the
data port. A misaligned address stops the strand on MISAL, a bobbin or memory fault on that fault, and then nothing is stored.
[06_local_memory.md R150; 06_local_memory.md R149; 06_local_memory.md R142; 06_local_memory.md R138; 00_scope.md R2] -/
def Obligations.ScalarStores : Prop :=
  ∀ (s : State) (d a : BitVec 4) (sx : BitVec 2) (o : BitVec 16),
    let n := 2 ^ sx.toNat
    let p := ((s.g a).toNat + o.toNat) % 65536
    (p % n = 0 → s.me.writeFault p n = none → ∃ t, exec (.st d a sx o) s = .next t ∧ s.st.passed t.st ∧
      t.st.pend = s.st.pend ∧ s.st.sameButPend t.st ∧
      s.ownCoreIs t { s.me with dataQ := s.me.dataQ ++ [[p / 8]], sram := t.me.sram, ue := t.me.ue, ce := t.me.ce, sramce := t.me.sramce } ∧
      s.sameMemoryBut t (inSpan p n) ∧
      (Memory.wf s.me.sram = true → ∀ i, i < n → Memory.get t.me.sram (p + i) = ((s.p d).extractLsb' (8 * i) 8))) ∧
    (p % n ≠ 0 → ∃ t, exec (.st d a sx o) s = .next t ∧ s.stopsOn t ⟨0x08, BitVec.ofNat 16 p ++ sx.zeroExtend 16, 0⟩) ∧
    (p % n = 0 → ∀ f, s.me.writeFault p n = some f → ∃ t, exec (.st d a sx o) s = .next t ∧ s.stopsOn t f)

/-- With the mantissa address m = (g[a] + offset x V) mod 65,536 a multiple of 8 and, for B formats, the side address x =
(g[a+1] + 4 x offset) mod 65,536 a multiple of 2, and no bobbin or memory fault: LDV completes with v[d] holding the lanes of
the image at m and, for a B format, the side band at x (else v[d]'s own), pending four core cycles; STV completes and stores
exactly the V bytes of v[d]'s image at m and, for a B format, the four side bytes at x; every other byte of memory is as before.
A misaligned address stops the strand on MISAL, a bobbin or memory fault on that fault. [06_local_memory.md R151;
06_local_memory.md R142; 06_local_memory.md R138; 05_scalar_vector.md Table 5.7] -/
def Obligations.VectorLoadsAndStores : Prop :=
  ∀ (s : State) (d a : BitVec 4) (o : BitVec 13) (f : BitVec 3),
    let w := vecBytes f
    let m := (s.g a + BitVec.ofInt 32 (o.toInt * (w : Int))).toNat % 65536
    let x := (s.g (a + 1) + BitVec.ofInt 32 (o.toInt * 4)).toNat % 65536
    let side := isB f
    let rs := (m, w) :: if side then [(x, 4)] else []
    let bad : Option Trap := if m % 8 ≠ 0 then some ⟨0x08, BitVec.ofNat 16 m ++ 3#16, 0⟩
      else if side = true ∧ x % 2 ≠ 0 then some ⟨0x08, BitVec.ofNat 16 x ++ 1#16, 0⟩ else none
    let port := { s.me with dataQ := s.me.dataQ ++ [wordsIn rs] }
    (bad = none → s.me.readFaults rs = none → ∃ t, exec (.ldv d a o f) s = .next t ∧
      s.writesV t d ⟨lanesOfImage f (Memory.bytes s.me.sram m w),
        if side then BitVec.ofNat 32 (ofBytes (Memory.bytes s.me.sram x 4)) else (s.v d).side⟩ 4 { port with sramce := t.me.sramce }) ∧
    (bad = none → s.me.writeFaults rs = none → ∃ t, exec (.stv d a o f) s = .next t ∧ s.st.passed t.st ∧
      t.st.pend = s.st.pend ∧ s.st.sameButPend t.st ∧
      s.ownCoreIs t { port with sram := t.me.sram, ue := t.me.ue, ce := t.me.ce, sramce := t.me.sramce } ∧
      s.sameMemoryBut t (fun q => inSpan m w q ∨ side = true ∧ inSpan x 4 q) ∧
      (Memory.wf s.me.sram = true → (∀ q, side = true → inSpan m w q → ¬ inSpan x 4 q) →
        (∀ i, i < w → Memory.get t.me.sram ((m + i) % 65536) = ((s.v d).image f).getD i 0) ∧
        (side = true → ∀ i, i < 4 → Memory.get t.me.sram ((x + i) % 65536) = ((s.v d).side.extractLsb' (8 * i) 8)))) ∧
    (∀ tr, bad = some tr → (∃ t, exec (.ldv d a o f) s = .next t ∧ s.stopsOn t tr) ∧
      ∃ t, exec (.stv d a o f) s = .next t ∧ s.stopsOn t tr) ∧
    (∀ tr, bad = none → s.me.readFaults rs = some tr → ∃ t, exec (.ldv d a o f) s = .next t ∧ s.stopsOn t tr) ∧
    (∀ tr, bad = none → s.me.writeFaults rs = some tr → ∃ t, exec (.stv d a o f) s = .next t ∧ s.stopsOn t tr)

/-- With the header at ha = (g[a] + offset) mod 65,536: a misaligned ha stops the strand on MISAL and any faulty header on its
OPHDR reason. LDT, when the header, its ranges and the bobbins' swizzles raise no fault, completes with t[d] in the header's
format holding the image's rows (its columns re-blocked for XP = 1), shape kept, pending for the transfer's occupancy + 3; no
memory changes. STT with the tile's format completes and stores exactly the cells of the header's layout, the rows' bytes and
side pairs; a format that differs stops it on OPHDR reason 5. A range outside its bobbins' readable or writable bytes stops
either on BOBST, one with an uncorrectable error on MEMUE, and LDT under another swizzle than the bobbins' on SWZ. (Where the
spec leaves a choice: log entry 16.) [06_local_memory.md R152; 06_local_memory.md R153; 06_local_memory.md R139;
06_local_memory.md R144; 06_local_memory.md Table 6.4] -/
def Obligations.TileLoadsAndStores : Prop :=
  ∀ (s : State) (d : BitVec 3) (a : BitVec 4) (o : BitVec 16),
    let ha := ((s.g a).toNat + o.toNat) % 65536
    let h := Hdr.ofNat (s.me.load ha 8)
    let lay := h.layout s.me
    let img := s.me.readImage lay (s.t d).side.toList
    let rows := if lay.xp then (transposeRows lay.fmt img).zipIdx.map fun (r, j) =>
      if isB lay.fmt then r else (r.1, (s.t d).side.toList.getD j 0) else img
    let port := fun (x : Hdr) => { s.me with dataQ := s.me.dataQ ++ [ha / 8] :: x.groups }
    let out := if h.xp then transposeRows h.fmt (s.t d).rowList else (s.t d).rowList
    let cells := h.cells (out.map fun r => (rowBytes h.fmt r.1, r.2))
    (s.me.headerFault ha 3 = none → s.me.readFaults lay.ranges = none → h.swzFault s.me lay.ranges ha = none →
      ∃ t, exec (.ldt d a o) s = .next t ∧ s.writesT t d ((s.t d).withRows lay.fmt rows) (lay.cost + 4)
        { port lay with sramce := t.me.sramce }) ∧
    (s.me.headerFault ha 3 = none → h.fmt = (s.t d).fmt → s.me.writeFaults h.ranges = none →
      ∃ t, exec (.stt d a o) s = .next t ∧ s.st.passed t.st ∧ t.st.pend = s.st.pend ∧ s.st.sameButPend t.st ∧
        s.ownCoreIs t { port h with sram := t.me.sram, ue := t.me.ue, ce := t.me.ce, sramce := t.me.sramce } ∧
        s.sameMemoryBut t (fun q => ∃ v, (q, v) ∈ cells) ∧
        (Memory.wf s.me.sram = true → (cells.map Prod.fst).Nodup → ∀ q v, (q, v) ∈ cells → Memory.get t.me.sram q = v)) ∧
    (∀ tr, s.me.headerFault ha 3 = none → s.me.readFaults lay.ranges = some tr ∨
        s.me.readFaults lay.ranges = none ∧ h.swzFault s.me lay.ranges ha = some tr → ∃ t, exec (.ldt d a o) s = .next t ∧ s.stopsOn t tr) ∧
    (∀ tr, s.me.headerFault ha 3 = none → h.fmt = (s.t d).fmt → s.me.writeFaults h.ranges = some tr →
      ∃ t, exec (.stt d a o) s = .next t ∧ s.stopsOn t tr) ∧
    (ha % 8 ≠ 0 → ∀ i, i = .ldt d a o ∨ i = .stt d a o →
      ∃ t, exec i s = .next t ∧ s.stopsOn t ⟨0x08, BitVec.ofNat 16 ha ++ 3#16, 0⟩) ∧
    (∀ tr, s.me.headerFault ha 3 = some tr → ∀ i, i = .ldt d a o ∨ i = .stt d a o → ∃ t, exec i s = .next t ∧ s.stopsOn t tr) ∧
    (s.me.headerFault ha 3 = none → h.fmt ≠ (s.t d).fmt →
      ∃ t, exec (.stt d a o) s = .next t ∧ s.stopsOn t ⟨0x0B, BitVec.ofNat 16 ha ++ 5#16, 0⟩)

/-- For a width of 4 or 8 bytes at a multiple of the width, in no bobbin and with no uncorrectable error, each of the ten
operations of LATOM completes: the memory value becomes the table's new value, g[d] (P(d)) takes the old value, pending four
core cycles, its bank is taken for the two accesses, and every other byte of memory and every other register is as before. A
misaligned address stops the strand on MISAL, one inside a bobbin on BOBST and a word with an uncorrectable error on MEMUE, with
nothing written. [06_local_memory.md R155; 06_local_memory.md R149; 06_local_memory.md R138] -/
def Obligations.LocalAtomics : Prop :=
  ∀ (s : State) (d a b o : BitVec 4) (w : BitVec 2) (n : Nat), (w = 2 ∧ n = 4 ∨ w = 3 ∧ n = 8 ∧ d.toNat % 2 = 0) →
    let p := (s.g a).toNat % 65536
    let old : Dword := BitVec.ofNat 64 (ofBytes ((List.range n).map fun i => Memory.get s.me.sram ((p + i) % 65536)))
    let v : Dword := if w = 3 then s.p b else (s.g b).zeroExtend 64
    let cmp : Dword := if w = 3 then s.p d else (s.g d).zeroExtend 64
    let lt := if w = 3 then decide (old.toInt < v.toInt) else decide ((old.truncate 32 : Word).toInt < (v.truncate 32 : Word).toInt)
    let new : Dword := match o.toNat with
      | 0 => old + v | 1 => old &&& v | 2 => old ||| v | 3 => old ^^^ v | 4 => if lt then old else v | 5 => if lt then v else old
      | 6 => v | 7 => if old = cmp then v else old | 8 => if old.toNat < v.toNat then old else v
      | _ => if old.toNat < v.toNat then v else old
    (p % n = 0 → s.me.checkWrite p n = none → s.me.ueAt p n = none → ∃ t, exec (.latom d a b o w) s = .next t ∧
      t.g d = (if d = 0 then 0 else old.truncate 32) ∧ (w = 3 → t.g (d + 1) = (old >>> 32).truncate 32) ∧
      (∀ r, r ≠ d → (w = 3 → r ≠ d + 1) → t.g r = s.g r) ∧ s.st.passed t.st ∧ s.st.sameButG t.st ∧
      t.st.pend = s.st.pend ++ ⟨.g d, some (s.cc + 4), false⟩ :: (if w = 3 then [⟨.g (d + 1), some (s.cc + 4), false⟩] else []) ∧
      s.ownCoreIs t { s.me with
        dataQ := s.me.dataQ ++ [[p / 8]], latom := some (p / 8, false), sram := t.me.sram, ue := t.me.ue, ce := t.me.ce, sramce := t.me.sramce } ∧
      s.sameMemoryBut t (inSpan p n) ∧
      (Memory.wf s.me.sram = true → ∀ i, i < n → Memory.get t.me.sram (p + i) = new.extractLsb' (8 * i) 8)) ∧
    (p % n ≠ 0 → ∃ t, exec (.latom d a b o w) s = .next t ∧ s.stopsOn t ⟨0x08, BitVec.ofNat 16 p ++ w.zeroExtend 16, 0⟩) ∧
    (∀ f, p % n = 0 → s.me.checkWrite p n = some f → ∃ t, exec (.latom d a b o w) s = .next t ∧ s.stopsOn t f) ∧
    (∀ q, p % n = 0 → s.me.checkWrite p n = none → s.me.ueAt p n = some q →
      ∃ t, exec (.latom d a b o w) s = .next t ∧ s.stopsOn t ⟨0x0D, BitVec.ofNat 32 (65536 * q), 0⟩)

/-- COPY whose count is a multiple of 8 up to 65,536, whose addresses are multiples of 8 and pass the bobbin checks, and whose
tag is free completes: the tag is busy and the copy stands last in the queue; a bad count stops it on MISAL and a tag that is
not free on TAGBSY. COPY.B into a declared unbound bobbin of other than a B format that is empty or filling and has room does
the same. The accesses that the engine makes for a plain copy on an error-free core, two for each doubleword, leave, where its
ranges do not overlap, the destination bytes equal to the source bytes and no other byte changed. COPY_COMPLETE in a core cycle
after the last access ends the copy: its tag is set, and a COPY.B's bobbin has gained its bytes and is full. (Where the spec
leaves a choice: log entries 16 and 48.) [06_local_memory.md R154; 06_local_memory.md R146; 06_local_memory.md R143;
06_local_memory.md Table 6.4] -/
def Obligations.CopyEngine : Prop :=
  ∀ (s : State) (d a b : BitVec 4) (k : BitVec 6),
    let n := (s.g b).toNat
    let src := (s.g a).toNat % 65536
    let dst := (s.g d).toNat % 65536
    let bn := BitVec.ofNat 5 (s.g d).toNat
    let bob := s.me.bobbin bn
    let queued := fun (t : State) (p : Copy) => s.passesBut t
      { s.me with tags := wr s.me.tags k ⟨.busy, .copy, true, 0, 0, 0⟩, copies := s.me.copies ++ [p] }
    (n % 8 = 0 → n ≤ 65536 → src % 8 = 0 → dst % 8 = 0 → s.me.checkRead src n = none → s.me.checkWrite dst n = none →
      (s.me.tagFree k = true → ∃ t, exec (.copy d a b k) s = .next t ∧
        queued t ⟨BitVec.ofNat 16 src, 0, BitVec.ofNat 16 dst, n, k, none, s.cc, 0, 0, [], none⟩) ∧
      (s.me.tagFree k = false → ∃ t, exec (.copy d a b k) s = .next t ∧ s.stopsOn t ⟨0x0C, k.zeroExtend 32, 0⟩)) ∧
    (n % 8 ≠ 0 ∨ 65536 < n → ∃ t, exec (.copy d a b k) s = .next t ∧
      s.stopsOn t ⟨0x08, ((s.g b).truncate 16 : BitVec 16) ++ 15#16, 0⟩) ∧
    (n % 8 = 0 → n ≤ 65536 → src % 8 = 0 → bob.valid = true → isBTag bob.fmt = false → bob.bkind = 0 →
      (bob.st = .empty ∨ bob.st = .filling) → bob.fill.toNat + n ≤ bob.size.toNat → s.me.checkRead src n = none →
      s.me.tagFree k = true → ∃ t, exec (.copyB d a b k) s = .next t ∧
        queued t ⟨BitVec.ofNat 16 src, BitVec.ofNat 16 ((s.g (a + 1)).toNat % 65536), 0, n, k, some bn, s.cc, 0, 0, [], none⟩) ∧
    (∀ p rest, s.me.copies = p :: rest →
      let access := fun (c : Core) => match c.copyNow with
        | some x => c.copyOne x
        | none => c
      let c := Nat.repeat access (p.n / 4) s.me
      (p.bob = none → p.pos = 0 → p.last = none → p.n % 8 = 0 → 0 < p.n → p.n ≤ 65536 → (∀ q, q ∈ rest → q.tag ≠ p.tag) →
        s.me.ue = [] → Memory.wf s.me.sram = true → (∀ q, inSpan p.src.toNat p.n q → ¬ inSpan p.dst.toNat p.n q) →
        (∃ x, c.copies = x :: rest ∧ x.tag = p.tag ∧ x.last = some s.cc) ∧
          (∀ q, ¬ inSpan p.dst.toNat p.n q → Memory.get c.sram q = Memory.get s.me.sram q) ∧
          ∀ i, i < p.n → Memory.get c.sram ((p.dst.toNat + i) % 65536) = Memory.get s.me.sram ((p.src.toNat + i) % 65536)) ∧
      ((∃ n, p.last = some n ∧ n < s.cc) ∨ (p.last = none ∧ p.n = 0 ∧ p.issued < s.cc) →
        (∀ q, q ∈ rest → q.last = none ∧ q.n ≠ 0) → (∀ j, (s.me.strand j).run ≠ .waiting) →
        ∃ t, exec (.copyComplete s.cur) s = .next t ∧ t.me.copies = rest ∧ t.me.tag p.tag = ⟨.set, .none, false, 0, 0, 0⟩ ∧
          s.sameMemory t ∧ (∀ m, p.bob ≠ some m → t.me.bobbin m = s.me.bobbin m) ∧
          ∀ m, p.bob = some m → ((s.me.bobbin m).st = .empty ∨ (s.me.bobbin m).st = .filling) →
            (t.me.bobbin m).st = .full ∧ (t.me.bobbin m).fill.toNat = ((s.me.bobbin m).fill.toNat + p.n) % 65536))

/-- BDECL of a legal descriptor for a bobbin that is undeclared or empty, overlapping no other, a declaration in flight counting
as made, and whose tag if FTEN = 1 is free for it, completes: the bobbins are unchanged now and the descriptor is due two core
cycles later; when it takes effect the bobbin is declared with the fields of Table 6.1, empty, with FILL = HEAD = 0, the tag of
FTEN is busy and the one of the old descriptor idle. A misaligned address stops it on MISAL, and on BOBST a bad descriptor (5),
a bobbin that is not empty (3) and an overlap (6); a tag that is taken on TAGBSY. Each BSET of Table 6.5 on a declared bobbin
completes with the table's new state, FILL and HEAD where the table has one, the bound tag following, and stops on BOBST subcode
3 where it says BOBST; EMPTY, REL and UNDECL of a bobbin that an outstanding copy uses stop on subcode 8. BSET.FULL and BSET.REL
with a count that is no multiple of 8 stop on MISAL; an undeclared bobbin stops each on subcode 7. Memory does not change.
(Where the spec leaves a choice: log entries 13 and 16.) [06_local_memory.md R157; 06_local_memory.md R158; 06_local_memory.md
Table 6.5; 06_local_memory.md R146; 06_local_memory.md R154; 06_local_memory.md Table 6.1] -/
def Obligations.BobbinInstructions : Prop :=
  ∀ (s : State) (a : BitVec 4) (n : BitVec 5), s.st.run ≠ .waiting →
    let b := s.me.bobbin n
    let cnt := (s.g a).toNat
    let info := fun (c : Core) (sub : Nat) => (⟨0x09, BitVec.ofNat 32 (n.toNat * 256 + (c.bobbin n).st.code * 64 + sub), 0⟩ : Trap)
    let p := (s.g a).toNat % 65536
    let w0 := s.me.load p 8
    let w1 := s.me.load (p + 8) 8
    let new := Bobbin.ofWords w0 w1
    let z := s.me.withDecls
    let passes := fun (t : State) => s.st.passed t.st ∧ t.st.pend = s.st.pend ∧ s.st.sameButPend t.st ∧ s.sameMemory t ∧
      ∀ j, j ≠ n → t.me.bobbin j = s.me.bobbin j
    let becomes := fun (i : Instr) (st : BobSt) (fill head : BitVec 16) (tag : Option TagSt) => ∃ t, exec i s = .next t ∧
      t.me.bobbin n = { b with st := st, fill := fill, head := head, mixed := (t.me.bobbin n).mixed } ∧ passes t ∧
      ((∀ j d k, (s.me.strand j).wait ≠ .collw d k) → b.ften = true → t.me.tag b.ftag =
        match tag with | some x => ⟨x, .none, false, 0, 0, 0⟩ | none => s.me.tag b.ftag)
    let stops := fun (i : Instr) (f : Trap) => ∃ t, exec i s = .next t ∧ s.stopsOn t f
    let refused := fun (i : Instr) => stops i (info s.me 3)
    let clash := ∃ j, j ≠ n ∧ (z.bobbin j).valid = true ∧ ∃ x, x ∈ new.ranges ∧ ∃ y, y ∈ (z.bobbin j).ranges ∧ overlap x y = true
    let tagTaken := new.ften = true ∧ ((∃ i, z.boundTo new.ftag = some i ∧ i ≠ n) ∨
      z.boundTo new.ftag = none ∧ ((z.tag new.ftag).st = .busy ∨ (z.tag new.ftag).st = .faulted))
    (p % 8 ≠ 0 → stops (.bdecl a n) ⟨0x08, BitVec.ofNat 16 p ++ 3#16, 0⟩) ∧
    (p % 8 = 0 → s.me.readFault p 16 = none →
      (badDescriptor w0 w1 = true → stops (.bdecl a n) (info z 5)) ∧
      (badDescriptor w0 w1 = false →
        ((z.bobbin n).valid = true → (z.bobbin n).st ≠ .empty → stops (.bdecl a n) (info z 3)) ∧
        (((z.bobbin n).valid = true → (z.bobbin n).st = .empty) →
          (clash → stops (.bdecl a n) (info z 6)) ∧
          (¬ clash → tagTaken → stops (.bdecl a n) ⟨0x0C, new.ftag.zeroExtend 32, 0⟩) ∧
          (¬ clash → ¬ tagTaken → ∃ t, exec (.bdecl a n) s = .next t ∧ s.passesBut t { s.me with
            later := s.me.later ++ [(s.cc + 2, .bobbin n new)], dataQ := s.me.dataQ ++ [wordsOf p 16], sramce := t.me.sramce })))) ∧
    (let t := s.applyLater s.cur (.bobbin n new)
     t.me.bobbin n = {
       base := BitVec.ofNat 16 w0, size := BitVec.ofNat 16 (w0 / 2 ^ 16), fmt := BitVec.ofNat 3 (w0 / 2 ^ 32),
       swz := BitVec.ofNat 3 (w0 / 2 ^ 35), eom := w0.testBit 38, bkind := BitVec.ofNat 2 (w0 / 2 ^ 39),
       bind := BitVec.ofNat 6 (w0 / 2 ^ 41), ften := w0.testBit 47, ftag := BitVec.ofNat 6 (w0 / 2 ^ 48),
       sbase := BitVec.ofNat 16 w1, fill := 0, head := 0, st := .empty, mixed := false, valid := true } ∧
     (∀ j, j ≠ n → t.me.bobbin j = s.me.bobbin j) ∧
     (new.ften = true → t.me.tag new.ftag = ⟨.busy, .none, false, 0, 0, 0⟩) ∧
     (b.valid = true → b.ften = true → ¬ (new.ften = true ∧ new.ftag = b.ftag) → t.me.tag b.ftag = ⟨.idle, .none, false, 0, 0, 0⟩)) ∧
    (b.valid = false → (∀ i, i ∈ ([.bsetEmpty a n, .bsetDrain a n, .bsetUndecl a n] : List Instr) → stops i (info s.me 7)) ∧
      (cnt % 8 = 0 → stops (.bsetFull a n) (info s.me 7) ∧ stops (.bsetRel a n) (info s.me 7))) ∧
    (cnt % 8 ≠ 0 → ∀ i, i ∈ ([.bsetFull a n, .bsetRel a n] : List Instr) →
      stops i ⟨0x08, ((s.g a).truncate 16 : BitVec 16) ++ 15#16, 0⟩) ∧
    (b.valid = true → s.me.copyUses n = true → stops (.bsetEmpty a n) (info s.me 8) ∧ stops (.bsetUndecl a n) (info s.me 8) ∧
      (cnt % 8 = 0 → stops (.bsetRel a n) (info s.me 8))) ∧
    (b.valid = true → b.st = .empty → refused (.bsetDrain a n) ∧
      (cnt % 8 = 0 → cnt ≤ b.size.toNat → becomes (.bsetFull a n) .full (BitVec.ofNat 16 cnt) 0 (some .set)) ∧
      (cnt % 8 = 0 → b.size.toNat < cnt → refused (.bsetFull a n)) ∧
      (s.me.copyUses n = false → becomes (.bsetEmpty a n) .empty b.fill b.head none ∧ (cnt % 8 = 0 → refused (.bsetRel a n)) ∧
        ∃ t, exec (.bsetUndecl a n) s = .next t ∧ t.me.bobbin n = { b with valid := false } ∧ passes t ∧
          (b.ften = true → t.me.tag b.ftag = ⟨.idle, .none, false, 0, 0, 0⟩))) ∧
    (b.valid = true → b.st = .filling → refused (.bsetDrain a n) ∧
      (cnt % 8 = 0 → s.depositing s.cur n = false → becomes (.bsetFull a n) .full b.fill b.head (some .set)) ∧
      (cnt % 8 = 0 → s.depositing s.cur n = true → ∃ t, exec (.bsetFull a n) s = .next t ∧ s.heldFor t (.bsetFull n)) ∧
      (s.me.copyUses n = false → refused (.bsetEmpty a n) ∧ refused (.bsetUndecl a n) ∧ (cnt % 8 = 0 → refused (.bsetRel a n)))) ∧
    (b.valid = true → b.st = .full → becomes (.bsetDrain a n) .draining b.fill b.head (some .set) ∧
      (cnt % 8 = 0 → refused (.bsetFull a n)) ∧
      (s.me.copyUses n = false → becomes (.bsetEmpty a n) .empty 0 0 (some .busy) ∧ refused (.bsetUndecl a n) ∧
        (cnt % 8 = 0 → refused (.bsetRel a n)))) ∧
    (b.valid = true → b.st = .draining → becomes (.bsetDrain a n) .draining b.fill b.head (some .set) ∧
      (cnt % 8 = 0 → refused (.bsetFull a n)) ∧
      (s.me.copyUses n = false → becomes (.bsetEmpty a n) .empty 0 0 (some .busy) ∧ refused (.bsetUndecl a n) ∧
        (cnt % 8 = 0 → b.fill.toNat < b.head.toNat + cnt → refused (.bsetRel a n)) ∧
        (cnt % 8 = 0 → b.head.toNat + cnt < b.fill.toNat →
          becomes (.bsetRel a n) .draining b.fill (b.head + BitVec.ofNat 16 cnt) none) ∧
        (cnt % 8 = 0 → b.head.toNat + cnt = b.fill.toNat → becomes (.bsetRel a n) .empty 0 0 (some .busy))))

/-- BQRY writes a snapshot, taken at issue, into g[d], with a result latency of 2 core cycles: for h = 0 FILL, STATE, MIXED,
VALID, SWZ, BKIND, EOM and BIND from the top bits down, for h = 1 HEAD and SIZE. An undeclared bobbin returns 0 and does not
fault. Nothing else changes. [R159] -/
def Obligations.BobbinQuery : Prop :=
  ∀ (s : State) (d : BitVec 4) (n : BitVec 5),
    let b := s.me.bobbin n
    (∃ t, exec (.bqry d 0 n) s = .next t ∧ s.writesG t d (if b.valid then b.fill ++ BitVec.ofNat 2 b.st.code ++
      BitVec.ofBool b.mixed ++ 1#1 ++ b.swz ++ b.bkind ++ BitVec.ofBool b.eom ++ b.bind else 0) 2) ∧
    (∃ t, exec (.bqry d 1 n) s = .next t ∧ s.writesG t d (if b.valid then b.head ++ b.size else 0) 2)

/-- On the tags of the mask P(a): if one is faulted, TWANY (mask not empty), TWALL and TFF stop the strand on the lowest one's
cause, EINFO and EADDR. If none is, TFF writes the lowest set tag or 64; TWANY writes the lowest set tag, or 64 for an empty
mask, pending one core cycle, else waits; TWALL passes when all are set, else waits. The clear forms return exactly the tags
they report to idle unless bound. TCLR never stops: set and ended-faulted unbound tags of the mask become idle, every other tag
is unchanged. No other state changes. [06_local_memory.md R147; 06_local_memory.md R160] -/
def Obligations.TagInstructions : Prop :=
  ∀ (s : State) (d a : BitVec 4) (c : BitVec 1), s.st.frozen = false →
    let mask := s.p a
    let inM := fun (k : BitVec 6) => mask.getLsbD k.toNat = true
    let clean := ∀ k, inM k → (s.me.tag k).st ≠ .faulted
    let lowest := fun (st : TagSt) (k : BitVec 6) => inM k ∧ (s.me.tag k).st = st ∧
      ∀ j : BitVec 6, j.toNat < k.toNat → inM j → (s.me.tag j).st ≠ st
    let tagsAre := fun (t : State) (f : BitVec 6 → Tag) => (∀ k, t.me.tag k = f k) ∧ s.otherCoresSame t ∧ s.otherStrandsSame t ∧
      t.me = { s.me with strands := t.me.strands, tags := t.me.tags } ∧ s.sameMemory t
    (∀ k, lowest .faulted k → ∀ i, (i = .twany d a c ∧ mask ≠ 0) ∨ i = .twall a c ∨ i = .tff d a → ∃ t, exec i s = .next t ∧
      s.stopsOn t ⟨(s.me.tag k).cause, (s.me.tag k).einfo, (s.me.tag k).eaddr⟩) ∧
    (clean → (∀ k, lowest .set k → (∃ t, exec (.tff d a) s = .next t ∧ s.writesG t d (k.zeroExtend 32) 1) ∧
        ∃ t, exec (.twany d a c) s = .next t ∧ s.holdsG t d (k.zeroExtend 32) ∧ s.pends t (.g d) 1 ∧ s.goesOn t ∧
          tagsAre t fun j => if j = k ∧ c = 1 ∧ s.me.isBound k = false then Tag.reset else s.me.tag j) ∧
      ((∀ k, inM k → (s.me.tag k).st ≠ .set) → (∃ t, exec (.tff d a) s = .next t ∧ s.writesG t d 64 1) ∧
        (mask = 0 → ∃ t, exec (.twany d a c) s = .next t ∧ s.writesG t d 64 1) ∧
        (mask ≠ 0 → ∃ t, exec (.twany d a c) s = .next t ∧ s.waitsFor t (.twany d mask (c == 1)))) ∧
      ((∀ k, inM k → (s.me.tag k).st = .set) → ∃ t, exec (.twall a c) s = .next t ∧ t.st.g = s.st.g ∧ t.st.pend = s.st.pend ∧ s.goesOn t ∧
        tagsAre t fun j => if inM j ∧ c = 1 ∧ s.me.isBound j = false then Tag.reset else s.me.tag j) ∧
      ((∃ k, inM k ∧ (s.me.tag k).st ≠ .set) → ∃ t, exec (.twall a c) s = .next t ∧ s.waitsFor t (.twall mask (c == 1)))) ∧
    (∃ t, exec (.tclr a) s = .next t ∧ s.st.passed t.st ∧ s.st.sameButPend t.st ∧ t.st.pend = s.st.pend ∧ tagsAre t fun j =>
      if inM j ∧ s.me.isBound j = false ∧ ((s.me.tag j).st = .set ∨ (s.me.tag j).st = .faulted ∧ (s.me.tag j).live = false)
      then Tag.reset else s.me.tag j)

/-- On a channel whose entry is valid with local input and no RED bit, SEND (16 bytes of g[s] to g[s+3]), SEND.H (8 bytes),
SENDV (the image of v[s] and its side band), TRIG (an INT32 trigger message of g[s] and a zero word) and SENDT (one message of
16 rows, or two of 8 rows for B16 and BF16) complete: the messages, numbered from the channel's counter, stand last in the
injection buffer, from which their heads can enter the router two core cycles later, the counter has moved past them, and the
send port is taken for one cycle (SENDT: four). (Where the spec leaves a choice: log entry 6.) No register and no byte of memory
changes. An entry that is not valid or lacks local input stops each on CHERR 1, a reduce channel without a bound unit on CHERR
5. On a reduce channel with a bound unit of S blocks, SENDV sends in format B8 or B4 if S = 2 and SENDT if S = 16; each of the
five stops on CHERR 2 otherwise. [07_messages.md R197; 07_messages.md R198; 07_messages.md R199; 07_messages.md R200;
07_messages.md R165; 07_messages.md R187; 07_messages.md Table 7.1; 07_messages.md Table 7.2] -/
def Obligations.Sends : Prop :=
  ∀ (s : State) (c : BitVec 6) (sx : BitVec 4) (f : BitVec 3) (v : BitVec 4) (tl : BitVec 3),
    let e := s.me.routeNow c
    let q := rd s.me.sendCtr c
    let sideBytes := if isB f then [((s.v v).side.truncate 16 : BitVec 16), ((s.v v).side >>> 16).truncate 16] else []
    let tms := tileMsgs (s.t tl).fmt (s.t tl).rowList
    let rows : List (Instr × BitVec 3 × BitVec 3 × Nat × List (List Byte × List (BitVec 16)) × Nat) :=
      [(.send c sx f 0, f, 0, 1, [(s.regBytes sx 4, [])], 0), (.send c sx f 1, f, 0, 1, [(s.regBytes sx 2, [])], 0),
        (.trig c sx, 6, 1, 1, [(s.regBytes sx 1 ++ [0, 0, 0, 0], [])], 0), (.sendv c f v, f, 0, 1, [((s.v v).image f, sideBytes)], 2),
        (.sendt c tl, (s.t tl).fmt, 0, 4, tms, 16)]
    ∀ i fmt kind n ms blocks, (i, fmt, kind, n, ms, blocks) ∈ rows →
      let msgs := ms.zipIdx.map fun (m, j) => Inject.msg
        ⟨mkHdr c (q + BitVec.ofNat 16 j) fmt 0 ((m.1.length + 15) / 16) (m.1.length % 16 == 8) kind, mkFlits fmt m.1 m.2⟩ 0 (s.cc + 2)
      let sent := ∃ t, exec i s = .next t ∧ s.passesBut t { s.me.withUnits (fun u => { u with sendPort := s.cc + n }) with
        sendCtr := wr s.me.sendCtr c (q + BitVec.ofNat 16 ms.length), inject := s.me.inject ++ msgs }
      let stops := fun (sub : Nat) => ∃ t, exec i s = .next t ∧ s.stopsOn t ⟨0x10, BitVec.ofNat 32 (sub + 256 * c.toNat), 0⟩
      (routeValid e = true → routeIn e 4 = true → routeRed e = false → sent) ∧
      (routeValid e = false ∨ routeIn e 4 = false → stops 1) ∧
      (routeValid e = true → routeIn e 4 = true → routeRed e = true →
        (s.me.unitOf c = none → stops 5) ∧
        ∀ u, s.me.unitOf c = some u → (s.me.unit u).s ≠ 0 →
          (0 < blocks → (fmt = 1 ∨ fmt = 2) → (s.me.unit u).s = blocks → sent) ∧
          (blocks = 0 ∨ (fmt ≠ 1 ∧ fmt ≠ 2) ∨ (s.me.unit u).s ≠ blocks → stops 2))

/-- SENDB of n bytes (at most 65,528, whole blocks, or 8-byte multiples of other formats) from aligned addresses that pass the
bobbin checks, on a plain channel with local input and with a free tag, completes: the tag is busy and the transfer stands last
in the injection buffer. A count that is no multiple of 8 or too large stops it on MISAL, a tag that is not free on TAGBSY. Its
messages take their numbers then. MESSAGE_INJECT passes the next flit of the injection buffer's head, once its time has come and
with credit, to the local input. Of a SENDB with bytes left it reads, over a free data port, the next message, of at most 496
bytes (B16: 480), and queues it; of the side pairs' 8-byte words the one that the message before has read comes from that
reading. An uncorrectable error in those bytes faults the tag, and what stands behind on the channel takes the numbers that are
left. SENDB_COMPLETE removes a SENDB with nothing left, one of no bytes in a core cycle after its issue, and sets its tag; while
a message of its channel stands ahead it does nothing. On a frozen core MESSAGE_INJECT does nothing. (Where the spec leaves a
choice: log entries 6, 16 and 20.) [07_messages.md R201; 07_messages.md R181; 07_messages.md R183; 07_messages.md R168;
07_messages.md R165; 06_local_memory.md R146; 06_local_memory.md R137; 14_system_traps.md R372] -/
def Obligations.BlockSends : Prop :=
  ∀ (s : State) (c : BitVec 6) (sx : BitVec 4) (f : BitVec 3) (k : BitVec 6) (l : Nat),
    let e := s.me.routeNow c
    let n := (s.g (sx + 1)).toNat
    let ma := (s.g sx).toNat % 65536
    let sa := (s.g sx).toNat / 65536
    let legal := n % 8 = 0 ∧ n ≤ 65528 ∧ (isB f = true → n % (2 * mw f) = 0)
    let x := s.core l
    let messages := fun (n : Nat) (f : BitVec 3) => BitVec.ofNat 16 (let most := if f = 0 then 480 else 496; (n + most - 1) / most)
    (routeValid e = true → routeIn e 4 = true → routeRed e = false → ma % 8 = 0 → sa % 2 = 0 →
      (legal → s.me.checkRead ma n = none → (isB f = true → s.me.checkRead sa (n / mw f) = none) →
        (s.me.tagFree k = true → ∃ t, exec (.sendb c sx f k) s = .next t ∧ s.passesBut t { s.me with
          tags := wr s.me.tags k ⟨.busy, .sendb, true, 0, 0, 0⟩,
          sendCtr := wr s.me.sendCtr c (rd s.me.sendCtr c + messages n f),
          inject := s.me.inject ++ [.sendb ⟨c, BitVec.ofNat 16 ma, BitVec.ofNat 16 sa, n, n, f, k, rd s.me.sendCtr c, s.cc, none⟩] }) ∧
        (s.me.tagFree k = false → ∃ t, exec (.sendb c sx f k) s = .next t ∧ s.stopsOn t ⟨0x0C, k.zeroExtend 32, 0⟩)) ∧
      (¬ legal → ∃ t, exec (.sendb c sx f k) s = .next t ∧
        s.stopsOn t ⟨0x08, ((s.g (sx + 1)).truncate 16 : BitVec 16) ++ 15#16, 0⟩)) ∧
    (x.frozen = true → exec (.messageInject l) s = .next s) ∧
    (x.frozen = false →
      (∀ m j r rest, x.inject = .msg m j r :: rest → (∀ y, y ∈ rest → y.isSendb = false) → r ≤ x.cc →
        countOf (5, m.chan.toNat) x.used < 4 → exec (.messageInject l) s = .next ((s.setCore l { x with
          inject := if j = m.len then rest else .msg m (j + 1) r :: rest, used := addCount (5, m.chan.toNat) 1 x.used,
          inputs := x.inputs ++ [⟨4, m.flit j, x.route m.chan, false⟩] }).wakeCore l)) ∧
      ∀ b rest, x.inject = .sendb b :: rest → b.left ≠ 0 → x.dataQ = [] → x.latom = none →
        let p := min b.left (if b.fmt = 0 then 480 else 496)
        let ps := if isB b.fmt then p / mw b.fmt else 0
        let ws := wordsOf b.side.toNat ps
        let new := ws.filter fun w => match b.sideWord with | some (k, _) => k != w | none => true
        let word := fun (w : Nat) => match b.sideWord with
          | some (k, l) => if k = w then l else Memory.bytes x.sram (8 * w) 8
          | none => Memory.bytes x.sram (8 * w) 8
        let sides := (ws.map word).flatten.drop (b.side.toNat % 8)
        let msg : Msg := mkMsg b.ch b.seq b.fmt 0 (Memory.bytes x.sram b.src.toNat p)
          ((List.range (ps / 2)).map fun i => BitVec.ofNat 16 (ofBytes ((sides.drop (2 * i)).take 2)))
        (injectFlits x.inject + ((p + 15) / 16 + 1) ≤ 64 →
          (x.ue = [] → countOf (5, b.ch.toNat) x.used < 4 → b.issued + 2 ≤ x.cc → exec (.messageInject l) s =
            .next ((s.setCore l { new.foldl (fun c w => c.countCe (8 * w) 8) (x.countCe b.src.toNat p) with
              inject := .msg msg 1 (b.issued + 2) :: .sendb { b with
                src := b.src + BitVec.ofNat 16 p, side := b.side + BitVec.ofNat 16 ps, left := b.left - p, seq := b.seq + 1,
                sideWord := match ws.getLast? with | some w => some (w, word w) | none => b.sideWord } :: rest,
              dataQ := [wordsOf b.src.toNat p ++ new],
              used := addCount (5, b.ch.toNat) 1 x.used, inputs := x.inputs ++ [⟨4, msg.flit 0, x.route b.ch, false⟩] }).wakeCore l)) ∧
          ∀ a, x.ueAt b.src.toNat p = some a → (∀ y, y ∈ rest → ∃ m j r, y = .msg m j r ∧ x.cc < r) → exec (.messageInject l) s =
            .next ((s.setCore l { x.setTag b.tag { x.tag b.tag with
                st := .faulted, live := false, cause := 0x0D, einfo := BitVec.ofNat 32 (65536 * a), eaddr := 0 } with
              sendCtr := wr x.sendCtr b.ch (rd x.sendCtr b.ch - messages b.left b.fmt),
              inject := rest.map fun y => match y with
                | .msg m j r => .msg (if m.chan = b.ch then
                    { m with hdr := mkHdr m.chan (m.seq - messages b.left b.fmt) m.fmt m.swz m.len m.half m.kind } else m) j r
                | y => y }).wakeCore l))) ∧
    (∀ b rest, x.inject = .sendb b :: rest → b.left = 0 → (b.n = 0 → b.issued < x.cc) →
      (∀ y, y ∈ rest → y.isSendb = false) → exec (.sendbComplete l) s =
        .next ((s.setCore l { x.setTag b.tag ⟨.set, .none, false, 0, 0, 0⟩ with inject := rest }).wakeCore l)) ∧
    (∀ m j r b rest, x.inject = .msg m j r :: .sendb b :: rest → m.chan = b.ch → b.n ≠ 0 → (∀ y, y ∈ rest → y.isSendb = false) →
      exec (.sendbComplete l) s = .next s)

/-- On a channel with a wake entry and a standing message for which no other strand waits, RECV, once the first payload flit has
arrived, writes its first two words to g[d] and g[d+1], WAITCH its summary to g[d], and RECV.V, if format and length are those
of a SENDV, once the message is whole, its lanes and side band to v[d] (any other message stops it on CHERR 6 and stays): each
passes, the message is taken, its buffer space is owed and the channel's next message stands. With none standing, or not enough
of it arrived, the strand waits. Without a wake entry each stops on CHERR 6. JOIN stops on CHERR 6 for the lowest channel of its
mask whose entry is a fault or spawn entry; else it passes when every wake channel of the mask has a standing message and every
deposit channel's bobbin is full or draining, taking nothing, and waits otherwise. [07_messages.md R202; 07_messages.md R203;
07_messages.md R204; 07_messages.md R205; 07_messages.md R178; 07_messages.md R195; 07_messages.md R168] -/
def Obligations.Receives : Prop :=
  ∀ (s : State) (c : BitVec 6) (d : BitVec 4), s.st.frozen = false →
    let three : List (Instr × Wait) := [(.recv c d, .recv c d), (.recvV c d, .recvV c d), (.waitch c d, .waitch c d)]
    let taken := fun (t : State) (c' : Core) => s.goesOn t ∧ s.otherStrandsSame t ∧ t.me = { c' with strands := t.me.strands } ∧
      (∀ l, l ≠ s.cur → t.core l = s.core l) ∧ t = { s with cores := t.cores, hubs := t.hubs } ∧
      (∀ h, t.hub h = { s.hub h with monitors := (t.hub h).monitors }) ∧ s.sameMemory t
    let mask := s.p d
    let inM := fun (k : BitVec 6) => mask.getLsbD k.toNat = true
    let bad := fun (k : BitVec 6) => s.me.trigAct k = 0 ∨ s.me.trigAct k = 2
    let met := fun (k : BitVec 6) => (s.me.trigAct k = 3 ∧ (s.me.standing k).isSome = true) ∨ (s.me.trigAct k = 1 ∧
      ((s.me.bobbin (s.me.trigBob k)).st = .full ∨ (s.me.bobbin (s.me.trigBob k)).st = .draining))
    (s.me.trigAct c ≠ 3 → ∀ i w, (i, w) ∈ three → ∃ t, exec i s = .next t ∧ s.stopsOn t ⟨0x10, BitVec.ofNat 32 (6 + 256 * c.toNat), 0⟩) ∧
    (s.me.trigAct c = 3 → s.me.standing c = none → ∀ i w, (i, w) ∈ three → ∃ t, exec i s = .next t ∧ s.waitsFor t w) ∧
    (s.me.trigAct c = 3 → ∀ m, s.me.standing c = some m → (∀ j, j ≠ s.slot → (s.me.strand j).takes c = false) →
      (d.toNat % 2 = 0 → (m.came ≠ 0 ∨ m.msg.len = 0) → ∃ t, exec (.recv c d) s = .next t ∧ taken t (s.me.takeLocal c) ∧
        t.st.pend = s.st.pend ++ [⟨.g (d + 1), some (s.cc + 1), false⟩, ⟨.g d, some (s.cc + 1), false⟩] ∧
        t.g d = (if d = 0 then 0 else m.msg.word 0) ∧ t.g (d + 1) = m.msg.word 1 ∧ ∀ r, r ≠ d → r ≠ d + 1 → t.g r = s.g r) ∧
      (m.came = 0 → m.msg.len ≠ 0 → ∃ t, exec (.recv c d) s = .next t ∧ s.waitsFor t (.recv c d)) ∧
      (∃ t, exec (.waitch c d) s = .next t ∧ taken t (s.me.takeLocal c) ∧ s.pends t (.g d) 1 ∧
        s.holdsG t d m.msg.summary) ∧
      (m.msg.vecOk = true → m.whole = true → ∃ t, exec (.recvV c d) s = .next t ∧ t.v d = m.msg.toVReg (s.v d) ∧
        (∀ j, j ≠ s.st.vIx d → rd t.me.vregs j = rd s.me.vregs j) ∧ taken t { s.me.takeLocal c with vregs := t.me.vregs } ∧
        s.pends t (.v d) 2 ∧ t.st.g = s.st.g) ∧
      (m.msg.vecOk = true → m.whole = false → ∃ t, exec (.recvV c d) s = .next t ∧ s.waitsFor t (.recvV c d)) ∧
      (m.msg.vecOk = false → ∃ t, exec (.recvV c d) s = .next t ∧ s.stopsOn t ⟨0x10, BitVec.ofNat 32 (6 + 256 * c.toNat), 0⟩)) ∧
    (∀ k, inM k → bad k → (∀ j : BitVec 6, j.toNat < k.toNat → inM j → ¬ bad j) →
      ∃ t, exec (.join d) s = .next t ∧ s.stopsOn t ⟨0x10, BitVec.ofNat 32 (6 + 256 * k.toNat), 0⟩) ∧
    ((∀ k, inM k → met k) → ∃ t, exec (.join d) s = .next t ∧ s.goesOn t ∧ t.st.g = s.st.g ∧ t.st.pend = s.st.pend ∧ s.strandOnly t) ∧
    ((∀ k, inM k → ¬ bad k) → (∃ k, inM k ∧ ¬ met k) → ∃ t, exec (.join d) s = .next t ∧ s.waitsFor t (.join mask))

/-- RCFG.R of a legal entry whose outputs lie in the partition, on a channel whose unit is idle or absent, completes: the routes
are unchanged now and the entry is due two core cycles later; its three faults are CHERR 7, 4 and 3 in that order. RCFG.T of a
legal entry completes: the trigger entry is replaced, the old deposit entry's bobbin unbound and the new one's bound to the
channel; otherwise CHERR 7. RCFG.QR, RCFG.QT, RNQ and NBRQ write the entry, the trigger entry, the unit's word (0 without a unit
or slot) and the neighbour word. RRED of a legal block binds the channel's unit, or the lowest free one, with the block's
fields, sums of zero and nothing received, or with S = 0 releases the unit it has. CHFLUSH drops the channel's queued messages
of which no flit has entered the router (no SENDB) and its oldest local message unless a part of it has been handled, and writes
how many went. No memory changes; each takes the configuration port. (Where the spec leaves a choice: log entry 13.)
[07_messages.md R206; 07_messages.md R207; 07_messages.md R208; 07_messages.md R209; 07_messages.md R210; 07_messages.md R211;
07_messages.md R170; 07_messages.md R175; 07_messages.md R195] -/
def Obligations.ChannelConfiguration : Prop :=
  ∀ (s : State) (c : BitVec 6) (sx k : BitVec 4) (dir : BitVec 2),
    let e : BitVec 16 := (s.g sx).truncate 16
    let v := s.g sx
    let cfg := fun (n : Nat) => s.me.withUnits fun u => { u with cfgPort := s.cc + n }
    let stops := fun (i : Instr) (sub : Nat) => ∃ t, exec i s = .next t ∧ s.stopsOn t ⟨0x10, BitVec.ofNat 32 (sub + 256 * c.toNat), 0⟩
    let legalR := e.toNat < 4096 ∧ (routeRed e = true → (outPorts e).length = 1)
    let old := rd s.me.trigs c
    let bobOf := fun (x : Word) => BitVec.ofNat 5 (x.toNat / 4)
    let legalT := v.toNat < 4096 ∧ (trigDeposits v = true → (s.me.bobbin (bobOf v)).valid = true ∧ (s.me.bobbin (bobOf v)).st = .empty ∧
      ((s.me.bobbin (bobOf v)).bkind ≠ 2) ∧ ((s.me.bobbin (bobOf v)).bkind = 1 → (s.me.bobbin (bobOf v)).bind = c))
    let p := (s.g sx).toNat % 65536
    let w := ofBytes ((Memory.bytes s.me.sram p 24).drop 16)
    let unit := match s.me.unitOf c with | some u => some u | none => slots.find? fun u => (s.me.unit u).bound.isNone
    let others := slots.all fun u => (s.me.unit u).bound.isNone || (s.me.unit u).bound == some c || (s.me.unit u).ctl != BitVec.ofNat 6 (w / 256)
    let r := s.me.routeNow c
    let legalB := routeValid r = true ∧ routeRed r = true ∧ routeOut r 4 = w.testBit 7 ∧
      (Memory.bytes s.me.sram p 24).getD 15 0 = 0 ∧ w < 2 ^ 14 ∧ w / 16 % 8 ≤ 2 ∧ others = true
    let port := { cfg 3 with dataQ := s.me.dataQ ++ [wordsOf p 24] }
    let here := match s.me.localAt c with | some l => l.held | none => false
    let kept : Core := { s.me with inject := s.me.inject.filter fun y => !y.waits c }
    (legalR → s.badOut s.cur e = false → s.me.unitBusy c = false → ∃ t, exec (.rcfgR c sx) s = .next t ∧
      s.passesBut t { cfg 1 with later := s.me.later ++ [(s.cc + 2, .route c e)] }) ∧
    ((s.applyLater s.cur (.route c e)).me.route c = e) ∧
    (¬ legalR → stops (.rcfgR c sx) 7) ∧ (legalR → s.badOut s.cur e = true → stops (.rcfgR c sx) 4) ∧
    (legalR → s.badOut s.cur e = false → s.me.unitBusy c = true → stops (.rcfgR c sx) 3) ∧
    (s.st.run ≠ .waiting → legalT → ∃ t, exec (.rcfgT c sx) s = .next t ∧ t.me.trigs = wr s.me.trigs c v ∧
      (trigDeposits v = true → (t.me.bobbin (bobOf v)).bkind = 1 ∧ (t.me.bobbin (bobOf v)).bind = c) ∧
      (trigDeposits old = true → ¬ (trigDeposits v = true ∧ bobOf v = bobOf old) → (t.me.bobbin (bobOf old)).bkind = 0) ∧
      (∀ j, (trigDeposits v = true → j ≠ bobOf v) → (trigDeposits old = true → j ≠ bobOf old) → t.me.bobbin j = s.me.bobbin j) ∧
      t.me.units.cfgPort = s.cc + 1 ∧ s.st.passed t.st ∧ t.st.pend = s.st.pend ∧ s.st.sameButPend t.st ∧ s.sameMemory t) ∧
    (¬ legalT → stops (.rcfgT c sx) 7) ∧
    (∃ t, exec (.rcfgQr c sx) s = .next t ∧ s.writesGIn t sx (r.zeroExtend 32) 2 (cfg 1)) ∧
    (∃ t, exec (.rcfgQt c sx) s = .next t ∧ s.writesGIn t sx (rd s.me.trigs c) 2 (cfg 1)) ∧
    (∃ t, exec (.rnq c sx k) s = .next t ∧ s.writesGIn t sx (match s.me.unitOf c with
      | some u => if k.toNat < (s.me.unit u).s then BitVec.ofNat 32 ((s.me.unit u).query k.toNat) else 0
      | none => 0) 2 (cfg 1)) ∧
    (∃ t, exec (.nbrq sx dir) s = .next t ∧ s.writesGIn t sx (BitVec.ofNat 32 (s.nbr s.cur dir.toNat)) 2 (cfg 1)) ∧
    (p % 8 = 0 → s.me.readFault p 24 = none →
      (legalB → s.me.unitBusy c = false →
        (∀ u, w % 16 = 0 → s.me.unitOf c = some u → ∃ t, exec (.rred c sx) s = .next t ∧
          s.passesBut t { port with tricks := wr s.me.tricks u Trick.reset, sramce := t.me.sramce }) ∧
        (w % 16 = 0 → s.me.unitOf c = none → ∃ t, exec (.rred c sx) s = .next t ∧ s.passesBut t { port with sramce := t.me.sramce }) ∧
        (∀ u, w % 16 ≠ 0 → unit = some u → ∃ t, exec (.rred c sx) s = .next t ∧
          s.passesBut t { port with tricks := t.me.tricks, sramce := t.me.sramce } ∧ (∀ j, j ≠ u → t.me.unit j = s.me.unit j) ∧
          (t.me.unit u).bound = some c ∧ (t.me.unit u).s = w % 16 ∧ (t.me.unit u).ofmt = BitVec.ofNat 3 (w / 16) ∧
          (t.me.unit u).root = w.testBit 7 ∧ (t.me.unit u).ctl = BitVec.ofNat 6 (w / 256) ∧ (t.me.unit u).st = .idle ∧
          (t.me.unit u).got = 0 ∧ (t.me.unit u).count = 0 ∧ (t.me.unit u).a = List.replicate (w % 16) (List.replicate 16 (some 0))) ∧
        (w % 16 ≠ 0 → unit = none → stops (.rred c sx) 5)) ∧
      (legalB → s.me.unitBusy c = true → stops (.rred c sx) 3) ∧ (¬ legalB → stops (.rred c sx) 7)) ∧
    (p % 8 ≠ 0 → ∃ t, exec (.rred c sx) s = .next t ∧ s.stopsOn t ⟨0x08, BitVec.ofNat 16 p ++ 3#16, 0⟩) ∧
    ((∀ j, (s.me.strand j).run ≠ .waiting) → ∃ t, exec (.chflush c sx) s = .next t ∧ s.st.passed t.st ∧ s.sameMemory t ∧
      s.holdsG t sx (BitVec.ofNat 32 ((s.me.inject.filter fun y => y.waits c).length + bit here)) ∧ s.pends t (.g sx) 2 ∧
      s.st.sameButG t.st ∧ s.otherStrandsSame t ∧ (∀ l, l ≠ s.cur → t.core l = s.core l) ∧
      t.me = { (if here then kept.takeLocal c else kept).withUnits (fun u => { u with cfgPort := s.cc + 1 }) with
        strands := t.me.strands, streams := t.me.streams } ∧
      t = { s with cores := t.cores, hubs := t.hubs } ∧ ∀ h, t.hub h = { s.hub h with monitors := (t.hub h).monitors })

/-- IDLE_FLIT carries up to three credits of each channel held for a link back to its sender. HEAD_FLIT_ARRIVAL moves the oldest
flit of a channel at an input. A malformed head is discarded with CHERR 9, one that the entry it arrived under does not accept
with CHERR 1, a reduce or renorm head without a unit with CHERR 5, while the report buffer has room, and its payload with it; a
head that is granted and has credit and a free way at every output leaves the input and reaches every neighbour of its set, or
the core; without a grant nothing changes, and without credit the scan stays at it. A payload flit follows its head's way, with
credit at every output. A frozen router keeps what arrives in its freeze buffer. TRIGGER_ACTION handles the oldest message of
the channel at the core: a fault entry discards it with NOTRIG; a deposit entry appends its data bytes, and for a B format its
side bytes, flit by flit as they arrive and the deposit port is free, and behind the last one the message is taken, the bobbin
full where FILL has reached SIZE or EOM = 1; it seals the bobbin for lack of room, holds the message at a full or draining
bobbin, ends the stream for a trigger message, or refuses it with BOBST 7 or 9 or CHERR 8; a spawn entry, its payload deposited
first if BV = 1, lets it stand for its place in the spawn queue, or discards it with NOENT; a message that stands there keeps
its entry, whatever the trigger entry has become; a wake entry lets it stand. The core's waiting strands are then re-examined.
(Where the spec leaves a choice: log entries 14 and 48.) [07_messages.md R161; 07_messages.md R163; 07_messages.md R167;
07_messages.md R168; 07_messages.md R175; 07_messages.md R176; 07_messages.md R177; 07_messages.md R178; 07_messages.md R179;
07_messages.md R180; 07_messages.md R185; 07_messages.md R207] -/
def Obligations.RoutersAndTriggers : Prop :=
  ∀ (s : State) (c p ch : Nat) (k : BitVec 6), k = BitVec.ofNat 6 ch →
    let x := s.core c
    let giver := if p < 4 then (s.mgmt.torus c p).1 else c
    let key := if p < 4 then opposite p else 9 - p
    let back := fun n => min 3 (countOf (p, n) x.owed)
    let err := fun (sub : Nat) => (⟨0x10, BitVec.ofNat 32 (sub + 256 * k.toNat), 0⟩ : Trap)
    let head := fun (t : State) => exec (.headFlitArrival c p ch) s = .next t
    let passes := fun (t : State) (f : Flit) (outs : List Nat) => s.sameMemory t ∧
      (∀ o n, o ∈ outs → o < 4 → s.neighbour c o = some n → (⟨opposite o, f, (s.core n).route k, false⟩ : InFlit) ∈ (t.core n).inputs) ∧
      (4 ∈ outs → (t.core c).locals = arriveLocal s.time f x.locals) ∧ (4 ∉ outs → (t.core c).locals = x.locals) ∧
      ((∀ o, o ∈ outs → s.neighbour c o ≠ some c) → (t.core c).inputs = x.inputsPast p k)
    (p ≤ 5 → (x.owed.map Prod.fst).Nodup → ((s.core giver).used.map Prod.fst).Nodup →
      (∀ e, e ∈ x.owed ∨ e ∈ (s.core giver).used → e.1.2 < 67) →
      ∃ t, exec (.idleFlit c p) s = .next t ∧ s.sameMemory t ∧
        (∀ n, n < 67 → countOf (p, n) (t.core c).owed = countOf (p, n) x.owed - back n ∧
          countOf (key, n) (t.core giver).used = countOf (key, n) (s.core giver).used - back n) ∧
        (∀ q n, q ≠ p → countOf (q, n) (t.core c).owed = countOf (q, n) x.owed) ∧
        ∀ q n, q ≠ key → countOf (q, n) (t.core giver).used = countOf (q, n) (s.core giver).used) ∧
    (p < 5 → x.flitAt p k = none → head s) ∧
    (∀ i, p < 5 → x.flitAt p k = some i →
      let m := i.flit.headMsg
      let v := i.entry
      let outs := (outPorts v).filter fun o => o != p && (o == 4 || (s.neighbour c o).isSome)
      let ready := ∀ o, o ∈ outs → s.credit c o k.toNat = true ∧ ∀ w, w ∈ x.ways → w.ch = k → o ∉ w.outs
      let lost := fun (sub : Nat) => (x.reports.length < 4 → ∃ t, head t ∧ s.discards t c p m (err sub)) ∧ (4 ≤ x.reports.length → head s)
      (x.frozen = true → ∃ t, head t ∧ s.sameMemory t ∧ (t.core c).inputs = x.inputsPast p k ∧
        (t.core c).freezeBuf = x.freezeBuf ++ [(p, i.flit)]) ∧
      (x.frozen = false → ∀ w, x.wayAt p k = some w →
        ((∃ o, o ∈ w.outs ∧ s.credit c o k.toNat = false) → head s) ∧
        (w.outs.Nodup → (∀ o, o ∈ w.outs → s.credit c o k.toNat = true) → ∃ t, head t ∧ passes t i.flit w.outs ∧
          (t.core c).ways = (x.passWay w).ways)) ∧
      (x.frozen = false → x.wayAt p k = none → i.flit.type ≠ 1 → head s) ∧
      (x.frozen = false → x.wayAt p k = none → i.flit.type = 1 → m.chan = k →
        (m.malformed = true → lost 9) ∧
        (m.malformed = false → m.kind = 2 → (x.unitOfCtl k = none → lost 5) ∧ (x.unitOfCtl k ≠ none → head s)) ∧
        (m.malformed = false → m.kind ≠ 2 →
          (routeValid v = false ∨ routeIn v p = false → lost 1) ∧
          (routeValid v = true → routeIn v p = true →
            (routeRed v = true → (x.unitOf k = none → lost 5) ∧ (x.unitOf k ≠ none → head s)) ∧
            (routeRed v = false → (x.granted k ≠ some p → head s) ∧
              (x.granted k = some p → ¬ ready → head (s.setCore c { x with picks := (k, p) :: x.picks.filter fun e => e.1 != k })) ∧
              (x.granted k = some p → ready → ∃ t, head t ∧ passes t i.flit outs ∧
                (t.core c).ways = x.ways ++ if m.len = 0 then [] else [⟨k, p, outs, m.len⟩])))))) ∧
    (x.frozen = true → exec (.triggerAction c ch) s = .next s) ∧
    (x.frozen = false → x.localAt k = none → exec (.triggerAction c ch) s = .next (s.wakeCore c)) ∧
    ∀ m before rest, x.locals = before ++ m :: rest → m.msg.chan = k → (∀ l, l ∈ before → l.msg.chan ≠ k) →
      (∀ l, l ∈ rest → l.msg.chan = k → l.st = .fresh) → x.frozen = false →
      let act := x.trigAct k
      let n := x.trigBob k
      let b := x.bobbin n
      let size := m.msg.size
      let done := fun (u : State) => exec (.triggerAction c ch) s = .next (u.wakeCore c)
      let taken := fun (y : Core) => (s.setCore c (y.takeLocal k)).sample c 1 k (s.time - m.arrived)
      let lost := fun (f : Trap) => (x.reports.length < 4 → done ((taken x).report c f)) ∧ (4 ≤ x.reports.length → done s)
      let opened := b.st = .empty ∨ b.st = .filling
      let fits := (isB m.msg.fmt = true ∨ isB b.fmt = true) → m.msg.fmt = b.fmt
      let room := opened ∧ size ≤ b.size.toNat ∧ size ≤ b.size.toNat - b.fill.toNat
      let queues := done (s.setCore c (x.setLoc k (.queue (x.trigEnt k) x.cc)))
      let writes := fun (n : BitVec 5) (ent : Option (BitVec 4)) => ∀ (f : BitVec 128 × BitVec 32) more, m.msg.flits = f :: more → x.depQ = [] →
        let b := x.bobbin n
        let last := more = [] ∧ m.came = m.msg.len
        let i := m.came - m.msg.flits.length
        let count := if m.msg.half = true ∧ i + 1 = m.msg.len then 8 else 16
        let sides := if isB b.fmt = false then 0 else if m.msg.fmt = 1 then 2 else if m.msg.fmt = 2 then count / 4
          else if m.msg.fmt = 0 ∧ i % 2 = 0 then 2 else 0
        let at_ := b.base.toNat + b.fill.toNat
        let sideAt := b.sbase.toNat + b.fill.toNat / mw b.fmt
        ∃ t, exec (.triggerAction c ch) s = .next t ∧ (t.core c).bobbins = (wr x.bobbins n ((t.core c).bobbin n)) ∧
          ((t.core c).bobbin n).fill = b.fill + BitVec.ofNat 16 count ∧
          ((t.core c).bobbin n).st = (if b.fill.toNat + count = b.size.toNat ∨ (last ∧ b.eom = true) then .full else .filling) ∧
          ((t.core c).bobbin n).swz = (if b.st = .empty then m.msg.swz else b.swz) ∧
          (∀ q, ¬ inSpan at_ count q → ¬ inSpan sideAt sides q → Memory.get (t.core c).sram q = Memory.get x.sram q) ∧
          (Memory.wf x.sram = true → (∀ q, inSpan at_ count q → ¬ inSpan sideAt sides q) →
            (∀ j, j < count → Memory.get (t.core c).sram ((at_ + j) % 65536) = (toBytes 16 f.1.toNat).getD j 0) ∧
            ∀ j, j < sides → Memory.get (t.core c).sram ((sideAt + j) % 65536) = (toBytes 4 f.2.toNat).getD j 0) ∧
          (¬ last → ∃ h, (t.core c).localAt k = some { m with msg := { m.msg with flits := more }, head := h, st := .deposit n ent }) ∧
          (last → ent = none → act ≠ 3 → (t.core c).localAt k = rest.find? fun l => l.msg.chan == k) ∧
          ∀ e, last → ent = some e → ∃ h, (t.core c).localAt k = some { m with msg := { m.msg with flits := [] }, head := h, st := .queue e x.cc }
      let starts := fun (ent : Option (BitVec 4)) => (m.msg.flits = [] → m.msg.len ≠ m.came →
          done (s.setCore c (x.setLoc k (.deposit n ent)))) ∧ (m.msg.flits.length = m.came → writes n ent)
      let refused := (b.valid = false → lost (x.bobTrap n 7)) ∧ (b.valid = true → (act = 2 ∨ m.msg.kind ≠ 1) →
        (¬ fits → lost (err 8)) ∧ (fits → (b.size.toNat < size → lost (x.bobTrap n 9)) ∧
          (size ≤ b.size.toNat → (¬ opened → done s) ∧
            (opened → b.size.toNat - b.fill.toNat < size → done (s.setCore c (x.setBobSt n b .full))))))
      (m.st = .stands → done s) ∧ (∀ e r, m.st = .queue e r → done s) ∧
      (∀ n ent, m.st = .deposit n ent → m.msg.flits.length < m.came → writes n ent) ∧
      (∀ n ent, m.st = .deposit n ent → m.msg.flits.length < m.came → m.msg.flits ≠ [] → x.depQ ≠ [] → done s) ∧
      (m.st = .fresh →
        (act = 0 → lost ⟨0x11, BitVec.ofNat 32 (256 * k.toNat), 0⟩) ∧
        (act = 1 → refused ∧
          (b.valid = true → m.msg.kind = 1 →
            (opened → done (taken (x.setBobSt n { b with fill := if b.st = .empty then 0 else b.fill } .full))) ∧ (¬ opened → done s)) ∧
          (b.valid = true → m.msg.kind ≠ 1 → fits → room → starts none)) ∧
        (act = 2 → (x.entry (x.trigEnt k) = none → lost ⟨0x05, BitVec.ofNat 32 (x.trigEnt k).toNat, 0⟩) ∧
          (x.entry (x.trigEnt k) ≠ none → x.trigBv k = true → refused ∧ (b.valid = true → fits → room → starts (some (x.trigEnt k)))) ∧
          (x.entry (x.trigEnt k) ≠ none → x.trigBv k = false → (m.came = 0 → m.msg.len ≠ 0 → done s) ∧
            ((m.came ≠ 0 ∨ m.msg.len = 0) → queues))) ∧
        (act = 3 → done ((s.setCore c (x.setLoc k .stands)).sample c 1 k (s.time - m.arrived))))

/-- At a router that is not frozen, on the trick's channel: ADD_BLOCK takes the next flit of the contribution of an arc not yet
complete of a unit not settling, and once the contribution is whole the unit collects, the arc is complete, and each slot is
added in turn; a contribution of another kind, format or number of slots is discarded with CHERR 2; one for a settling unit or a
complete arc waits. A slot's first block sets its exponent and RN; the lanes at that exponent add exactly while none exceeds
32,767, and are halved until none does. ON_RENORM sets an unset exponent, and one below Pn after rounding the lanes down to it,
setting RN and passing it on unless root; one not above is absorbed, as is one that comes by no port of IN (log entry 48).
ON_COMPLETE, with GOT = IN: a node sends its W16 message and settles; the root sends its result to its core and SETTLE to every
child and is idle, its sums, GOT and RN cleared, LASTRN and the count updated. ON_SETTLE takes the parent's exponents and flags,
passes SETTLE on and is idle likewise. What a unit sends leaves flit by flit, in order, with credit. No memory changes. (Where
the spec leaves a choice: log entries 14, 15 and 48.) [07_messages.md R185; 07_messages.md R187; 07_messages.md R188;
07_messages.md R189; 07_messages.md R190; 07_messages.md R191; 07_messages.md R209; 07_messages.md R163; 07_messages.md R168;
07_messages.md Table 7.2] -/
def Obligations.TrickProgress : Prop :=
  ∀ (s : State) (c p ch : Nat) (k : BitVec 6) (n : BitVec 3), k = BitVec.ofNat 6 ch →
    let x := s.core c
    let u := x.unit n
    let v := x.routeNow k
    let up := x.parentPort k
    let renormTo := fun (ctl : BitVec 6) (i pn : Nat) => (⟨mkHdr ctl 0 0 0 1 false 2, [(BitVec.ofNat 128 (i + 256 * pn), 0)]⟩ : Msg)
    let settles := fun (t : State) (w : Trick) (rn : BitVec 15) (first : List Emit) => s.sameMemory t ∧
      ((t.core c).unit n).a = List.replicate w.s (List.replicate 16 (some 0)) ∧ ((t.core c).unit n).got = 0 ∧
      ((t.core c).unit n).rn = 0 ∧ ((t.core c).unit n).lastRn = rn ∧ ((t.core c).unit n).st = .idle ∧ ((t.core c).unit n).p = w.p ∧
      ((t.core c).unit n).count = w.count + 1 ∧
      (t.core c).emits = x.emits ++ first ++ ([0, 1, 2, 3].filter (routeIn v)).map fun d => ⟨k, d,
        ⟨mkHdr w.ctl 0 0 0 1 false 2, [(BitVec.ofNat 128 (ofBytes (w.p.map fun e => BitVec.ofNat 8 (e.getD 255))), rn.zeroExtend 32)]⟩, 0⟩
    let heads := fun (i : Instr) (t : State) => exec i s = .next t
    x.frozen = false →
    (∀ i, x.unitOf k = some n → x.trickFlit p k u.ctl = some i → x.wayAt p k = none →
      (i.flit.chan ≠ k → heads (.addBlock c p ch) s) ∧
      (∀ m, (u.arcs.find? fun a => a.1 == p) = some (p, m) → i.flit.chan = k →
        let w : Msg := { m with flits := m.flits ++ [(i.flit.data, i.flit.side)] }
        let first : Trick := { u with st := .collecting, got := u.got ||| (1#5 <<< p), arcs := u.arcs.filter fun a => a.1 != p }
        ∃ t, heads (.addBlock c p ch) t ∧ s.sameMemory t ∧ (t.core c).inputs = x.inputsPast p k ∧
          (w.flits.length ≠ m.len → (t.core c).emits = x.emits ∧
            (t.core c).unit n = { u with arcs := u.arcs.map fun a => if a.1 = p then (p, w) else a }) ∧
          (w.flits.length = m.len → (t.core c).unit n = w.slots.zipIdx.foldl (fun y b => (y.addSlot b.2 b.1).1) first ∧
            (u.root = true → (t.core c).emits = x.emits) ∧
            ∀ b pn, u.root = false → w.slots = [b] → (first.addSlot 0 b).2 = some pn →
              (t.core c).emits = x.emits ++ [⟨k, up, renormTo u.ctl 0 pn, 0⟩])) ∧
      ((u.arcs.find? fun a => a.1 == p) = none → i.flit.chan = k → i.flit.type = 1 →
        let m := i.flit.headMsg
        m.chan = k → m.kind ≠ 2 → m.malformed = false → routeValid i.entry = true → routeRed i.entry = true → routeIn i.entry p = true →
        (u.st = .settling ∨ u.got.getLsbD p = true → heads (.addBlock c p ch) s) ∧
        (u.st ≠ .settling → u.got.getLsbD p = false →
          let good := m.kind = 0 ∧ ((m.fmt = 7 ∧ m.len = 2 * u.s) ∨ ((m.fmt = 1 ∨ m.fmt = 2) ∧ m.size = u.s * (2 * mw m.fmt)))
          (¬ good → (x.reports.length < 4 → ∃ t, heads (.addBlock c p ch) t ∧
            s.discards t c p m ⟨0x10, BitVec.ofNat 32 (2 + 256 * k.toNat), 0⟩) ∧ (4 ≤ x.reports.length → heads (.addBlock c p ch) s)) ∧
          (good → ∃ t, heads (.addBlock c p ch) t ∧ s.sameMemory t ∧ (t.core c).inputs = x.inputsPast p k ∧
            (t.core c).unit n = { u with st := .collecting, arcs := u.arcs ++ [(p, m)] })))) ∧
    (∀ (w : Trick) (b : Slot) (i q : Nat), i < w.p.length → w.p.length ≤ 15 → w.a.length = w.p.length →
      let a := w.a.getD i []
      let add := if b.wide then b.w.map fun y => y.map fun z => round ((Q.ofInt z).scale ((b.e : Int) - q)) .rne 0
        else b.x.map fun y => w16Align y (q : Int)
      let sum := (a.zip add).map fun e => match e.1, e.2 with | some y, some z => some (y + z) | _, _ => none
      (w.p.getD i none = some q ∨ (w.p.getD i none = none ∧ q = b.e)) → q < 255 → b.e ≠ 255 →
      (∀ y, some y ∈ sum → y.natAbs ≤ 32767) →
        ((w.addSlot i b).1.p.getD i none = some q ∧ (w.addSlot i b).1.a.getD i [] = sum ∧ (w.addSlot i b).2 = none ∧
          ((w.p.getD i none = none ∨ b.rf = true) → (w.addSlot i b).1.rn.getLsbD i = true) ∧
          ∀ j, j ≠ i → (w.addSlot i b).1.p.getD j none = w.p.getD j none ∧ (w.addSlot i b).1.a.getD j [] = w.a.getD j [])) ∧
    (∀ (l : List (Option Int)) (q : Nat) (y : Int), some y ∈ (renorm (halvings l) l q).1 → y.natAbs ≤ 32767) ∧
    (∀ m, x.unitOfCtl k = some n → x.renormAt p (u.bound.getD 0) k = some m → (u.root = true ∨ p ≠ x.parentPort (u.bound.getD 0)) →
      let i := (m.word 0).toNat % 16
      let pn := field (m.word 0).toNat 8 8
      let told := if u.root then [] else [(⟨u.bound.getD 0, x.parentPort (u.bound.getD 0), renormTo u.ctl i pn, 0⟩ : Emit)]
      let child := p < 4 ∧ routeIn (x.routeNow (u.bound.getD 0)) p = true
      i < u.s → u.p.length = u.s → u.s ≤ 15 → ∃ t, heads (.onRenorm c p ch) t ∧ s.sameMemory t ∧
        (t.core c).inputs = ({ x with inputs := x.inputsPast p k } : Core).inputsPast p k ∧
        (¬ child → (t.core c).unit n = u ∧ (t.core c).emits = x.emits) ∧
        (child → u.p.getD i none = none → ((t.core c).unit n).p.getD i none = some pn ∧ ((t.core c).unit n).rn.getLsbD i = true ∧
          ((t.core c).unit n).a = u.a ∧ (t.core c).emits = x.emits ++ told) ∧
        (∀ q, child → u.p.getD i none = some q →
          (pn ≤ q → (t.core c).unit n = u ∧ (t.core c).emits = x.emits) ∧
          (q < pn → ((t.core c).unit n).p.getD i none = some pn ∧ ((t.core c).unit n).rn.getLsbD i = true ∧ (t.core c).emits = x.emits ++ told ∧
            (u.a.length = u.s → ((t.core c).unit n).a.getD i [] =
              (u.a.getD i []).map fun y => y.map fun z => round ((Q.ofInt z).scale ((q : Int) - pn)) .rne 0)))) ∧
    (x.unitOf k = some n → u.st = .collecting → u.got = BitVec.ofNat 5 v.toNat →
      (u.root = true → ∃ t, heads (.onComplete c ch) t ∧ settles t u u.rn [⟨k, 4, u.rootMsg k ((Config.freeWord s.free).truncate 16), 0⟩]) ∧
      (u.root = false → ∃ t, heads (.onComplete c ch) t ∧ s.sameMemory t ∧ (t.core c).unit n = { u with st := .settling } ∧
        (t.core c).emits = x.emits ++ [⟨k, up, u.nodeMsg k, 0⟩])) ∧
    (x.unitOf k = some n → u.st ≠ .collecting ∨ u.got ≠ BitVec.ofNat 5 v.toNat → heads (.onComplete c ch) s) ∧
    (∀ e rest, x.emits = e :: rest → e.msg.chan = k →
      (s.credit c e.out k.toNat = false → heads (.headFlitArrival c 5 ch) s) ∧
      (s.credit c e.out k.toNat = true → ∃ t, heads (.headFlitArrival c 5 ch) t ∧ s.sameMemory t ∧
        (t.core c).emits = (if e.sent = e.msg.len then [] else [{ e with sent := e.sent + 1 }]) ++ rest ∧
        (e.out = 4 → (t.core c).locals = arriveLocal s.time (e.msg.flit e.sent) x.locals) ∧
        ∀ q, e.out ≠ 4 → s.neighbour c e.out = some q →
          (⟨opposite e.out, e.msg.flit e.sent, (s.core q).route k, false⟩ : InFlit) ∈ (t.core q).inputs)) ∧
    ∀ m (ctl : Nat), x.unitOfCtl (BitVec.ofNat 6 ctl) = some n → u.bound = some k → x.renormAt p k (BitVec.ofNat 6 ctl) = some m →
      u.root = false → p = up → u.ctl = BitVec.ofNat 6 ctl →
      let ps := ((toBytes 16 ((m.flits.getD 0 (0, 0)).1).toNat).take u.s).map fun b => some b.toNat
      ∃ t, heads (.onSettle c p ctl) t ∧ settles t { u with p := ps } (((m.flits.getD 0 (0, 0)).2).truncate 15) []

/-- TSHAPE sets the format, rows and columns of t[d] and keeps its fields and side pairs, or clears them where the format
changes. TZERO clears fields and side pairs (E = 0, ply = 0xFF) and sets the format. ACCZ clears all 256 elements and the step
count and sets X to -2048. TPARM writes TPR, or stops on PARMX with the value where a mode exceeds 4 or a reserved bit is set.
TSTAT writes the tile's format, rows and columns, the accumulator's exponent, flags and step count, or TPR, and stops on NOREG
for an index outside the grant. Nothing else changes. (Where the spec leaves a choice: log entry 31.) [08_tensor.md R218;
08_tensor.md R219; 08_tensor.md R220; 08_tensor.md R221; 08_tensor.md R222; 08_tensor.md R223; 08_tensor.md R212] -/
def Obligations.TileSetUp : Prop :=
  ∀ (s : State) (t : BitVec 3) (r c : BitVec 4) (f : BitVec 3) (a : BitVec 2) (d : BitVec 4) (n : BitVec 3),
    let x := s.t t
    let w := s.g d
    let legal := w.toNat % 8 ≤ 4 ∧ w.toNat / 8 % 8 ≤ 4 ∧ w.toNat / 64 % 8 ≤ 4 ∧ w.toNat / 512 % 128 = 0 ∧ w.toNat / 2 ^ 25 = 0
    let y := s.acc (n.truncate 2)
    (∃ u, exec (.tshape t r c f) s = .next u ∧ s.writesT u t (if x.fmt = f then { x with rows := r, cols := c }
      else ⟨f, r, c, Vector.replicate 16 0xFF00, Vector.replicate 16 (Vector.replicate 16 0)⟩) 2 s.me) ∧
    (∃ u, exec (.tzero t f) s = .next u ∧
      s.writesT u t ⟨f, x.rows, x.cols, Vector.replicate 16 0xFF00, Vector.replicate 16 (Vector.replicate 16 0)⟩ 2 s.me) ∧
    (∃ u, exec (.accz a) s = .next u ∧ s.holdsA u a ⟨Vector.replicate 256 0, 0x800, 0⟩ ∧
      s.passesPend u [⟨.acc a, some (s.cc + 2), false⟩] { s.me with accs := u.me.accs }) ∧
    (legal → ∃ u, exec (.tparm d) s = .next u ∧ s.st.passed u.st ∧
      u.st = { s.st with tpr := w, pend := s.st.pend ++ [⟨.tpr, some (s.cc + 1), false⟩], pc := u.st.pc, fill := u.st.fill } ∧
      s.strandOnly u) ∧
    (¬ legal → ∃ u, exec (.tparm d) s = .next u ∧ s.stopsOn u ⟨0x15, w, 0⟩) ∧
    (n.toNat < s.st.tgrant → ∃ u, exec (.tstat d 0 n) s = .next u ∧
      s.writesG u d (BitVec.ofNat 32 ((s.t n).fmt.toNat + 16 * (s.t n).rows.toNat + 256 * (s.t n).cols.toNat)) 2) ∧
    (n.toNat < s.st.agrant → ∃ u, exec (.tstat d 1 n) s = .next u ∧
      s.writesG u d (BitVec.ofNat 32 (y.x.toNat + (if y.x = 2047 then 2 ^ 12 else 0) + (if accNan ∈ y.vals then 2 ^ 13 else 0) +
        (if ∃ v ∈ y.vals, v ≠ 0 then 2 ^ 14 else 0) + 2 ^ 16 * y.steps.toNat)) 2) ∧
    (∃ u, exec (.tstat d 2 n) s = .next u ∧ s.writesG u d s.st.tpr 2) ∧
    (s.st.tgrant ≤ n.toNat → ∃ u, exec (.tstat d 0 n) s = .next u ∧ s.stopsOn u ⟨0x03, 0, 0⟩) ∧
    (s.st.agrant ≤ n.toNat → ∃ u, exec (.tstat d 1 n) s = .next u ∧ s.stopsOn u ⟨0x03, 0, 0⟩)

/-- Where the source tile has the format of the instruction's tag each completes. TMOVV into the tile replaces rows 2p and 2p +
1 by the vector's halves (mantissas sign-extended and side pairs taken for B formats); out of it, it copies those rows and, for
B formats, their side pairs into the vector register. TMOVT copies the tile. TXP writes the transpose with rows and columns
exchanged, keeping the destination's side pairs for BF16; TBLK and TCVT write each row's exact values encoded in the same or in
the other format, with the source's shape. No accumulator, general register or byte of memory changes. A source of another
format stops each on TSHP with the tile, its format and the tag. [08_tensor.md R214; 08_tensor.md R215; 08_tensor.md R224;
08_tensor.md R225; 08_tensor.md R226; 08_tensor.md R227; 03_block_numbers.md R67; 03_block_numbers.md R78] -/
def Obligations.TileMoves : Prop :=
  ∀ (s : State) (t a : BitVec 3) (v : BitVec 4) (p f sx m : BitVec 3),
    let x := s.t a
    let old := s.t t
    let i := 2 * p.toNat
    let net := fun (n : Nat) => s.me.withUnits fun u => { u with reblock := s.cc + n }
    let conv := fun (g h : BitVec 3) (j : Nat) =>
      encRow h (rowVals g (x.row j) (x.sideAt j)) (Mode.ofCode m) [] (old.sideAt j)
    let tshp := fun (n : BitVec 3) (tag : BitVec 3) (ins : Instr) => ∃ u, exec ins s = .next u ∧
      s.stopsOn u ⟨0x14, BitVec.ofNat 32 (n.toNat + 8 * (s.t n).fmt.toNat + 64 * tag.toNat), 0⟩
    (old.fmt = f → ∃ u, exec (.tmovv t v p 0 f) s = .next u ∧ ∃ y, s.writesT u t y 2 s.me ∧ y.fmt = f ∧ y.rows = old.rows ∧
      y.cols = old.cols ∧ (∀ j, j < 16 → j ≠ i → j ≠ i + 1 → y.row j = old.row j ∧ y.sideAt j = old.sideAt j) ∧
      ∀ b, b < 2 → y.row (i + b) = ((s.v v).half b).map (fun l => if isB f then BitVec.ofInt 16 (mant f l) else l) ∧
        y.sideAt (i + b) = if isB f then (s.v v).sideOf b else old.sideAt (i + b)) ∧
    (old.fmt = f → ∃ u, exec (.tmovv t v p 1 f) s = .next u ∧ ∃ y, s.writesV u v y 2 s.me ∧
      y.lanes.toList = old.row i ++ old.row (i + 1) ∧
      y.side = if isB f then old.sideAt (i + 1) ++ old.sideAt i else (s.v v).side) ∧
    (x.fmt = f → ∃ u, exec (.tmovt t a f) s = .next u ∧ s.writesT u t x 2 s.me) ∧
    (x.fmt = f → ∃ u, exec (.txp t a f) s = .next u ∧ ∃ y, s.writesT u t y 6 (net 2) ∧ y.fmt = f ∧ y.rows = x.cols ∧
      y.cols = x.rows ∧ ∀ j, j < 16 → (isB f = false → y.sideAt j = old.sideAt j ∧ ∀ k, k < 16 → (y.row j).getD k 0 = (x.row k).getD j 0) ∧
        (isB f = true → (y.row j, y.sideAt j) = (tcolStore f (rowsCol f x.rowList j)).row)) ∧
    (x.fmt = f → ∃ u, exec (.tblk t a f m) s = .next u ∧ ∃ y, s.writesT u t y 4 (net 1) ∧ y.fmt = f ∧ y.rows = x.rows ∧
      y.cols = x.cols ∧ ∀ j, j < 16 → y.row j = (List.range 16).map (fun k => (conv f f j).1.getD k 0) ∧ y.sideAt j = (conv f f j).2) ∧
    (x.fmt = sx → ∃ u, exec (.tcvt t a f sx m) s = .next u ∧ ∃ y, s.writesT u t y 5 (net 2) ∧ y.fmt = f ∧ y.rows = x.rows ∧
      y.cols = x.cols ∧ ∀ j, j < 16 → y.row j = (List.range 16).map (fun k => (conv sx f j).1.getD k 0) ∧ y.sideAt j = (conv sx f j).2) ∧
    (old.fmt ≠ f → (∀ d, tshp t f (.tmovv t v p d f))) ∧
    (x.fmt ≠ f → tshp a f (.tmovt t a f) ∧ tshp a f (.txp t a f) ∧ tshp a f (.tblk t a f m)) ∧
    (x.fmt ≠ sx → tshp a sx (.tcvt t a f sx m))

/-- With both tiles of their tags' formats MMA completes: acc[c] takes one accumulation step of the 256 products, element (i, j)
that of row i of the masked first tile (column i if transposed) and row j of the masked second (column j if transposed), an
exact zero for i at or above the first operand's row count. MMA.Z starts from a cleared accumulator. The array is taken for the
occupancy of R230, doubled in an uncovered class-3 clause, and acc[c] is pending for that + 4 cycles, marked for chaining.
Nothing else changes. A tile of another format stops the strand on TSHP. [08_tensor.md R214; 08_tensor.md R216; 08_tensor.md
R228; 08_tensor.md R229; 08_tensor.md R230; 08_tensor.md R213; 03_block_numbers.md R75; 03_block_numbers.md R76;
13_power_time.md R340] -/
def Obligations.MatrixMultiply : Prop :=
  ∀ (s : State) (a b : BitVec 3) (c : BitVec 2) (f g : BitVec 3) (y x : BitVec 1),
    let ta := s.t a
    let tb := s.t b
    let ra := (if x = 1 then ta.cols.toNat else ta.rows.toNat) + 1
    let half := fun (h : BitVec 3) => if h = 2 then 1 else if h = 1 then 2 else 8
    let occ := (ra * max (half f) (half g) + 1) / 2 * (if s.st.cover = .uncovered then 2 else 1)
    let ps := ((List.range 16).map fun i => (List.range 16).map fun j =>
      if i < ra then dot (oprow f ta.masked i (x == 1)) (oprow g tb.masked j (y == 1)) else Partial.fin 0 0).flatten
    (∀ i start, (i = .mma a b c f g y x ∧ start = s.acc c) ∨
        (i = .mmaZ a b c f g y x ∧ start = ⟨Vector.replicate 256 0, 0x800, 0⟩) →
      (ta.fmt = f → tb.fmt = g → ∃ u, exec i s = .next u ∧
        s.holdsA u c { start with
          a := Vector.ofFn fun n : Fin 256 => BitVec.ofInt 40 ((accStep start.vals start.x.toInt ps).1.getD n.val 0),
          x := BitVec.ofInt 12 (accStep start.vals start.x.toInt ps).2 } ∧
        s.passesPend u [⟨.acc c, some (s.cc + (occ + 4)), true⟩]
          { s.me.withUnits (fun n => { n with array := s.cc + occ }) with accs := u.me.accs }) ∧
      (ta.fmt ≠ f → ∃ u, exec i s = .next u ∧
        s.stopsOn u ⟨0x14, BitVec.ofNat 32 (a.toNat + 8 * ta.fmt.toNat + 64 * f.toNat), 0⟩) ∧
      (ta.fmt = f → tb.fmt ≠ g → ∃ u, exec i s = .next u ∧
        s.stopsOn u ⟨0x14, BitVec.ofNat 32 (b.toNat + 8 * tb.fmt.toNat + 64 * g.toNat), 0⟩))

/-- GMMA of a legal descriptor, with local input or a wake entry on its channels and its feed bobbins holding K tiles, completes
its issue: the strand passes and is held with the descriptor and step 0, acc[c] cleared first if Z = 1; one with progress kept
resumes it. GMMA_STEP on a strand that holds one, on a core where no strand waits, lets the operands of the next step come in: a
fed tile, once the injection buffer has room and the data port is free, is read over that port and queued on its channel as
SENDT queues one; of a received one what has arrived is taken from the message standing on its channel, which must have the
tile's format and length. Once both are there and the array is free and awake, the accumulator takes one step of all 16 rows and
counts it, and the array is taken; behind the last step acc[c] is pending, and the GMMA is done 4 core cycles after the array's
time and lets its strand go on. A message that does not match stops the strand with its progress kept. (Where the spec leaves a
choice: log entries 6 and 16.) [08_tensor.md R231; 08_tensor.md R233; 08_tensor.md R234; 08_tensor.md R236; 08_tensor.md R230;
07_messages.md R200] -/
def Obligations.GangMultiply : Prop :=
  ∀ (s : State) (a : BitVec 4) (c : BitVec 2) (f g : BitVec 3) (z y x : BitVec 1),
    let p := (s.g a).toNat % 65536
    let d := s.me.load p 8
    let desc : Gmma := ⟨c, x == 1, y == 1, f, g, BitVec.ofNat 6 d, BitVec.ofNat 6 (d / 256), d / 65536 % 65536,
      BitVec.ofNat 5 (d / 2 ^ 32), BitVec.ofNat 5 (d / 2 ^ 37), 0, s.st.pc, [], [], false, false, none⟩
    let ready := fun (fed : Bool) (ch : BitVec 6) =>
      if fed = true then routeValid (s.me.routeNow ch) = true ∧ routeIn (s.me.routeNow ch) 4 = true else s.me.trigAct ch = 3
    let holds := fun (fed : Bool) (n : BitVec 5) (h : BitVec 3) => fed = true → (s.me.bobbin n).valid = true ∧
      ((s.me.bobbin n).st = .full ∨ (s.me.bobbin n).st = .draining) ∧
      (s.me.bobbin n).head.toNat + desc.k * tileBytes h ≤ (s.me.bobbin n).fill.toNat
    (s.st.gmma = none → p % 8 = 0 → s.me.readFault p 8 = none → d / 64 % 4 = 0 → d / 2 ^ 14 % 4 = 0 → d < 2 ^ 42 → desc.k ≠ 0 →
      desc.ca ≠ desc.cb → ready desc.fa desc.ca → ready desc.fb desc.cb → holds desc.fa desc.ba f → holds desc.fb desc.bb g →
      ∃ u, exec (.gmma a c f g z y x) s = .next u ∧ s.st.left u.st ∧
        u.st = { s.st with hold := .gmma, gmma := some desc, pc := u.st.pc, fill := u.st.fill, here := u.st.here } ∧
        s.holdsA u c (if z = 1 then ⟨Vector.replicate 256 0, 0x800, 0⟩ else s.acc c) ∧
        s.ownCoreIs u { s.me with dataQ := s.me.dataQ ++ [[p / 8]], accs := u.me.accs, sramce := u.me.sramce } ∧
        s.sameMemory u) ∧
    (s.st.gmma ≠ none → ∃ u, exec (.gmma a c f g z y x) s = .next u ∧ s.heldFor u .gmma) ∧
    (∀ q b, let fed := if b then q.fb else q.fa
      let tag := if b then q.fmtB else q.fmtA
      let ch := if b then q.cb else q.ca
      let n := if b then q.bb else q.ba
      let msgs := (tileMsgs tag (s.me.readImage ((s.me.bobbin n).tileHdr tag q.step) [])).zipIdx.map fun (m, j) => Inject.msg
        ⟨mkHdr ch (rd s.me.sendCtr ch + BitVec.ofNat 16 j) tag 0 ((m.1.length + 15) / 16) (m.1.length % 16 == 8) 0, mkFlits tag m.1 m.2⟩ 0 (s.cc + 2)
      let got := if b then q.gotB else q.gotA
      (fed = true → (if b then q.inB else q.inA) = false → injectFlits s.me.inject + tileFlits tag ≤ 64 → s.me.dataQ = [] →
        s.me.latom = none → s.me.ue = [] →
        ∃ k, s.me.gather q b = .ok (k, if b then { q with inB := true } else { q with inA := true }) ∧ k.inject = s.me.inject ++ msgs ∧
          k.dataQ = ((s.me.bobbin n).tileHdr tag q.step).groups) ∧
      (fed = true → 64 < injectFlits s.me.inject + tileFlits tag ∨ s.me.dataQ ≠ [] ∨ s.me.latom ≠ none → s.me.gather q b = .ok (s.me, q)) ∧
      (fed = false → s.me.standing ch = none → s.me.gather q b = .ok (s.me, if b then { q with gotB := got } else { q with gotA := got })) ∧
      (∀ l, fed = false → s.me.standing ch = some l → got.length < tileNeed tag →
        (l.msg.fmt ≠ tag ∨ l.msg.len ≠ tileLen tag → s.me.gather q b = .error ⟨0x10, BitVec.ofNat 32 (6 + 256 * ch.toNat), 0⟩) ∧
        (l.msg.fmt = tag → l.msg.len = tileLen tag → ∃ k, s.me.gather q b =
          .ok (k, if b then { q with gotB := got ++ l.msg.flits } else { q with gotA := got ++ l.msg.flits })))) ∧
    ∀ q, s.st.gmma = some q → s.st.hold = .gmma → s.st.run = .ready →
      let step := exec (.gmmaStep s.cur s.slot.toNat) s
      let occ := s.st.arrayCost (8 * max (rowCost2 q.fmtA) (rowCost2 q.fmtB))
      (∀ n, q.done = some n → (s.cc < n → step = .next s) ∧ (n ≤ s.cc → ∃ u, step = .next u ∧ s.strandOnly u ∧
        u.st = { s.st with hold := .none, gmma := none, notBefore := Nat.max s.st.notBefore s.cc })) ∧
      (q.done = none → s.st.frozen = true ∨ s.me.frozen = true → step = .next s) ∧
      (q.done = none → s.st.frozen = false → s.me.frozen = false → (∀ k, (s.me.strand k).run ≠ .waiting) →
        (∀ e, s.me.gather q false = .error e → ∃ u, step = .next u ∧ s.st.stoppedAt u.st e s.st.here ∧ u.st.gmma = some q ∧ s.sameMemory u) ∧
        (∀ k1 q1 e, s.me.gather q false = .ok (k1, q1) → k1.gather q1 true = .error e →
          ∃ u, step = .next u ∧ s.st.stoppedAt u.st e s.st.here ∧ u.st.gmma = some q1 ∧ s.sameMemory u) ∧
        ∀ k1 q1 k2 q2, s.me.gather q false = .ok (k1, q1) → k1.gather q1 true = .ok (k2, q2) → ∃ u, step = .next u ∧ s.sameMemory u ∧
          u.me.inject = k2.inject ∧ u.me.locals = k2.locals ∧ u.me.sendCtr = k2.sendCtr ∧
          let runs := q2.has false = true ∧ q2.has true = true ∧ s.me.tenOn = true ∧ s.me.units.array ≤ s.cc
          (¬ runs → u.st = { s.st with gmma := some q2 } ∧ u.me.accs = s.me.accs ∧ u.me.units = s.me.units) ∧
          (runs → s.holdsA u q.acc { (s.acc q.acc).mma (tileOf q.fmtA (k2.operand q2 false)) (tileOf q.fmtB (k2.operand q2 true))
              q.fmtA q.fmtB false false with steps := (s.acc q.acc).steps + 1 } ∧
            u.me.units = { s.me.units with array := s.cc + occ } ∧
            u.st = { s.st with
              pend := s.st.pend ++ (if q.step + 1 = q.k then [⟨.acc q.acc, some (s.cc + occ + 4), false⟩] else []),
              gmma := some { q2 with
                step := q.step + 1, gotA := [], gotB := [], inA := false, inB := false,
                done := if q.step + 1 = q.k then some (s.cc + occ + 4) else none } }))

/-- DRAIN encodes the accumulator's exact values scaled by TPR's exponent (negative ones as zero under RELU), with the form's
rounding mode of TPR: to a tile, all 16 rows with shape 16 by 16, kept side pairs for BF16, 12 cycles; to a vector register,
rows 2p and 2p + 1 (FP32: row 2p + h), 5 cycles. To memory the header is checked at issue and its cells are due 12 cycles later;
DRAIN_M_WRITE then writes exactly those cells, their words standing last before the data port. With stochastic rounding the
drain generator advances 8 steps (one for a vector), else it stays. CLR also clears the accumulator, keeping its step count. A
header that is misaligned or faulty, of another format, or FP32 with XP or a skew stops the strand on MISAL or OPHDR, and cells
that lie in a bobbin or merge into an uncorrectable error on BOBST or MEMUE. [08_tensor.md R237; 08_tensor.md R238; 08_tensor.md
R215; 03_block_numbers.md R67; 03_block_numbers.md R69; 03_block_numbers.md R71] -/
def Obligations.Drains : Prop :=
  ∀ (s : State) (t : BitVec 3) (v : BitVec 4) (h : BitVec 1) (p : BitVec 3) (d : BitVec 4) (c : BitVec 2) (f : BitVec 3) (l : BitVec 1),
    let tpr := s.st.tpr
    let mode := fun (k : Nat) => Mode.ofCode (BitVec.ofNat 3 (tpr.toNat / 2 ^ (3 * k)))
    let vals := (s.acc c).drained tpr
    let clr := fun (n : Nat) => if l = 1 then [(⟨.acc c, some (s.cc + n), false⟩ : Pend)] else []
    let accAfter := fun (u : State) => s.holdsA u c (if l = 1 then { s.acc c with a := Vector.replicate 256 0, x := 0x800 } else s.acc c)
    let core := fun (k n : Nat) => { s.me.withUnits (fun u => { u with drain := s.cc + (if n = 1 then 1 else 8) }) with
      srDrain := if mode k = Mode.sr then advances n s.me.srDrain else s.me.srDrain }
    let row := fun (k i : Nat) (old : BitVec 16) => encRow f (vals.getD i []) (mode k) (drainDraws s.me.srDrain (mode k) i) old
    let ha := (s.g d).toNat % 65536
    let hd := Hdr.ofNat (s.me.load ha 8)
    let mv := if hd.xp then columns vals else vals
    let mrows : List (List Byte × BitVec 16) := mv.zipIdx.map fun (x, i) =>
      let dr := drainDraws s.me.srDrain (mode 2) i
      if f = 4 then ((x.zipIdx.map fun (y, j) => toBytes 4 (encFp32 y (mode 2) (dr.getD j 0)).toNat).flatten, 0)
      else (rowBytes f (encRow f x (mode 2) dr 0).1, (encRow f x (mode 2) dr 0).2)
    (∃ u, exec (.drainT t c f l) s = .next u ∧ accAfter u ∧ (u.t t).fmt = f ∧ (u.t t).rows = 15 ∧ (u.t t).cols = 15 ∧
      (∀ i, i < 16 → (u.t t).row i = (List.range 16).map (fun j => (row 0 i ((s.t t).sideAt i)).1.getD j 0) ∧
        (u.t t).sideAt i = (row 0 i ((s.t t).sideAt i)).2) ∧
      (∀ j, j ≠ s.st.tIx t → rd u.me.tiles j = rd s.me.tiles j) ∧
      s.passesPend u (clr 12 ++ [⟨.t t, some (s.cc + 12), false⟩]) { core 0 8 with accs := u.me.accs, tiles := u.me.tiles }) ∧
    (∃ u, exec (.drainV v h p c f l) s = .next u ∧ accAfter u ∧
      (f = 4 → u.v v = (s.v v).withLanes 4 ((vals.getD (2 * p.toNat + h.toNat) []).zipIdx.map fun (y, j) =>
        encFp32 y (mode 1) ((drainDraws s.me.srDrain (mode 1) h.toNat).getD j 0))) ∧
      (f ≠ 4 → ∀ b, b < 2 →
        let r := encRow f (vals.getD (2 * p.toNat + b) []) (mode 1) (drainDraws s.me.srDrain (mode 1) b) 0
        (u.v v).side = (if isB f then (u.v v).side else (s.v v).side) ∧ (isB f = true → (u.v v).sideOf b = r.2) ∧
          (r.1.length = 16 → (encRow f (vals.getD (2 * p.toNat) []) (mode 1) (drainDraws s.me.srDrain (mode 1) 0) 0).1.length = 16 →
            (u.v v).half b = r.1)) ∧
      (∀ j, j ≠ s.st.vIx v → rd u.me.vregs j = rd s.me.vregs j) ∧
      s.passesPend u (clr 5 ++ [⟨.v v, some (s.cc + 5), false⟩]) { core 1 1 with accs := u.me.accs, vregs := u.me.vregs }) ∧
    (s.me.headerFault ha 4 = none → hd.fmt = f → (f = 4 → hd.swz ≠ 1 ∧ hd.xp = false) → s.me.writeFaults hd.ranges = none →
      ∃ u, exec (.drainM d c f l) s = .next u ∧ accAfter u ∧
        u.me.drainM = s.me.drainM ++ [⟨s.cc + 12, s.slot, true, hd.cells mrows, hd.groups⟩] ∧ u.me.dataQ = s.me.dataQ ++ [[ha / 8]] ∧
        s.passesPend u (clr 12) { core 2 8 with accs := u.me.accs, drainM := u.me.drainM, dataQ := u.me.dataQ, sramce := u.me.sramce }) ∧
    (ha % 8 ≠ 0 → ∃ u, exec (.drainM d c f l) s = .next u ∧ s.stopsOn u ⟨0x08, BitVec.ofNat 16 ha ++ 3#16, 0⟩) ∧
    (∀ tr, s.me.headerFault ha 4 = some tr → ∃ u, exec (.drainM d c f l) s = .next u ∧ s.stopsOn u tr) ∧
    (∀ tr, s.me.headerFault ha 4 = none → hd.fmt = f → (f = 4 → hd.swz ≠ 1 ∧ hd.xp = false) → s.me.writeFaults hd.ranges = some tr →
      ∃ u, exec (.drainM d c f l) s = .next u ∧ s.stopsOn u tr) ∧
    (s.me.headerFault ha 4 = none → hd.fmt ≠ f → ∃ u, exec (.drainM d c f l) s = .next u ∧
      s.stopsOn u ⟨0x0B, BitVec.ofNat 16 ha ++ 5#16, 0⟩) ∧
    (s.me.headerFault ha 4 = none → hd.fmt = f → f = 4 → (hd.swz = 1 ∨ hd.xp = true) →
      ∃ u, exec (.drainM d c f l) s = .next u ∧ s.stopsOn u ⟨0x0B, BitVec.ofNat 16 ha ++ 6#16, 0⟩) ∧
    (∀ w rest, s.me.drainM = w :: rest → w.slot = s.slot → w.due ≤ s.cc →
      ∃ u, exec (.drainMWrite s.cur s.slot.toNat) s = .next u ∧ u.me.drainM = rest ∧ u.me.dataQ = s.me.dataQ ++ w.groups ∧ s.sameMemoryBut u (fun q => ∃ b, (q, b) ∈ w.writes) ∧
        (Memory.wf s.me.sram = true → (w.writes.map Prod.fst).Nodup → ∀ q b, (q, b) ∈ w.writes → Memory.get u.me.sram q = b)) ∧
    ((∀ w ∈ s.me.drainM, w.slot = s.slot → s.cc < w.due) → exec (.drainMWrite s.cur s.slot.toNat) s = .next s)

/-- SIGH of k hyperplanes on a tile of its tag's format, starting a panel, or accumulating one of the same k and rows with fewer
than 4,095 k-tiles, completes: the k-tile count is one more; a row that is bad stays as it is, a row with a saturated block, a
NaN or an infinity becomes bad and only that, and every other row of the panel takes ROW_ADD of its signed sums and of its
squared sum; rows at or above the panel's count are as before. It is pending for the array occupancy (doubled in an uncovered
class-3 clause) + 3. A mismatch stops it on SIGST 1, a full count on SIGST 2, another format on TSHP. SIGQ writes the words of
Table 9.5 for selectors 0, 1, 2, a row and a bucket, and stops on ILLOP for one the table does not list. Nothing else changes.
(Where the spec leaves a choice: log entry 19.) [09_signature.md R241; 09_signature.md R242; 09_signature.md R243;
09_signature.md R250; 09_signature.md R256; 09_signature.md R260; 09_signature.md Table 9.5; 08_tensor.md R214] -/
def Obligations.SignatureProjection : Prop :=
  ∀ (s : State) (a f : BitVec 3) (k : BitVec 4) (c : BitVec 1) (d : BitVec 4) (q : BitVec 6),
    let x := s.t a
    let kw := k.toNat + 1
    let n := x.rows.toNat + 1
    let seed := s.me.sigSeed
    let old := s.st.proj
    let p0 := if c = 1 then old else { Proj.reset with kw := kw, n := n, y := Vector.replicate 16 0x800, z := Vector.replicate 16 0x800 }
    let occ := (kw * (if f = 2 then 1 else if f = 1 then 2 else 8) + 1) / 2 * (if s.st.cover = .uncovered then 2 else 1)
    let continues := c = 1 → old.kw ≠ 0 ∧ old.kw = kw ∧ old.n = n
    let stops := fun (tr : Trap) => ∃ t, exec (.sigh a f k c) s = .next t ∧ s.stopsOn t tr
    let m := s.st.map
    let reads := fun (sel : BitVec 6) (v : Nat) => ∃ t, exec (.sigq d sel) s = .next t ∧ s.writesG t d (BitVec.ofNat 32 v) 2
    let sizes := (List.range m.rc.toNat).map fun r => (m.members r).length
    (x.fmt = f → continues → (c = 1 → old.kc ≠ 4095) → ∃ t p, exec (.sigh a f k c) s = .next t ∧ s.st.passed t.st ∧
      t.st = { s.st with proj := p, pend := s.st.pend ++ [⟨.proj, some (s.cc + (occ + 3)), false⟩], pc := t.st.pc, fill := t.st.fill } ∧
      s.ownCoreIs t (s.me.withUnits fun u => { u with array := s.cc + occ }) ∧ s.sameMemory t ∧
      p.kw = kw ∧ p.n = n ∧ p.kc = p0.kc + 1 ∧
      ∀ i : BitVec 4,
        let o := oprow f x.masked i.toNat false
        let u := o.u.map Val.int
        let sums := (List.range 12).map fun h =>
          if h < kw then (u.zipIdx.map fun (e, j) => sigsign seed h (16 * p0.kc + j) * e).foldl (· + ·) 0 else 0
        let sr := rowAdd ((rd p0.s i).toList.map BitVec.toInt) (rd p0.y i).toInt sums o.s (2 ^ 39 - 1)
        let nr := rowAdd [((rd p0.nrm i).toNat : Int)] (rd p0.z i).toInt [(u.map fun e => e * e).foldl (· + ·) 0] (2 * o.s) (2 ^ 48 - 1)
        let skipped := n ≤ i.toNat ∨ p0.bad.getLsbD i.toNat = true ∨ x.rowBad f i.toNat = true
        (p.bad.getLsbD i.toNat = true ↔ p0.bad.getLsbD i.toNat = true ∨ i.toNat < n ∧ x.rowBad f i.toNat = true) ∧
        (skipped → rd p.s i = rd p0.s i ∧ rd p.y i = rd p0.y i ∧ rd p.nrm i = rd p0.nrm i ∧ rd p.z i = rd p0.z i) ∧
        (¬ skipped → (∀ h, h < 12 → ((rd p.s i).toList.getD h 0) = BitVec.ofInt 40 (sr.1.getD h 0)) ∧ rd p.y i = BitVec.ofInt 12 sr.2 ∧
          rd p.nrm i = BitVec.ofInt 48 (nr.1.headD 0) ∧ rd p.z i = BitVec.ofInt 12 nr.2)) ∧
    (x.fmt ≠ f → stops ⟨0x14, BitVec.ofNat 32 (a.toNat + 8 * x.fmt.toNat + 64 * f.toNat), 0⟩) ∧
    (x.fmt = f → ¬ continues → stops ⟨0x16, BitVec.ofNat 32 (1 + 16 * a.toNat), 0⟩) ∧
    (x.fmt = f → continues → c = 1 → old.kc = 4095 → stops ⟨0x16, BitVec.ofNat 32 (2 + 16 * a.toNat), 0⟩) ∧
    (reads 0 (if m.rc = 0 then 0 else m.rc.toNat + 2 ^ 8 * m.nr.toNat + 2 ^ 16 * m.rule.toNat + 2 ^ 20 * sizes.foldl max 0 +
      2 ^ 25 * (sizes.filter (· == 1)).length)) ∧
    (reads 1 (old.kw % 16 + 2 ^ 4 * (old.n % 32) + 2 ^ 9 * (old.kc % 4096))) ∧ (reads 2 old.bad.toNat) ∧
    (16 ≤ q.toNat → q.toNat < 32 → reads q (old.sig (q.toNat - 16) + 2 ^ 12 * bit (old.bad.getLsbD (q.toNat - 16)) +
      2 ^ 13 * m.bucket (q.toNat - 16))) ∧
    (32 ≤ q.toNat → q.toNat < 48 → reads q (if m.rc.toNat ≤ q.toNat - 32 then 0
      else ((m.members (q.toNat - 32)).map fun i => 2 ^ i).foldl (· + ·) 0 + 2 ^ 16 * m.repOf (q.toNat - 32) +
        2 ^ 20 * (m.members (q.toNat - 32)).length)) ∧
    ((3 ≤ q.toNat ∧ q.toNat < 16) ∨ 48 ≤ q.toNat → ∃ t, exec (.sigq d q) s = .next t ∧ s.stopsOn t ⟨0x01, s.st.curWord, 0⟩)

/-- SIGB after a panel of its tile's rows completes: MAP takes the buckets of the panel under the cap (0 for 16) with the rule,
and t[d] the compaction of t[a]: each bucket's representative row raw, or for MEAN its mean, then cleared rows. SIGB.C compacts
under the existing MAP, SIGG writes each bucket's sum. SIGX and SIGX.SCALE feed accD with accS's row of each row's bucket
(divided by the member count for SCALE on a MEAN map). Their faults are TSHP and SIGST 3, 4 and 5. SIGMS stores exactly MAP's
24-byte image; SIGML of a consistent image writes MAP, and of another stops on SIGST 6; a misaligned address stops each on
MISAL. Projection, registers not named and other memory stay. (Where the spec leaves a choice: log entries 18 and 19.)
[09_signature.md R245; 09_signature.md R246; 09_signature.md R248; 09_signature.md R251; 09_signature.md R252; 09_signature.md
R253; 09_signature.md R254; 09_signature.md R255; 09_signature.md R260; 08_tensor.md R214; 03_block_numbers.md R76] -/
def Obligations.SignatureMaps : Prop :=
  ∀ (s : State) (t a : BitVec 3) (cap : BitVec 4) (f : BitVec 3) (rule : BitVec 2) (sx dx : BitVec 2) (z : BitVec 1) (g : BitVec 4),
    let x := s.t a
    let n := x.rows.toNat + 1
    let m := s.st.map
    let m1 := s.st.proj.group (if cap = 0 then 16 else cap.toNat) rule
    let k := fun (c : Nat) => c * (if s.st.cover = .uncovered then 2 else 1)
    let array := fun (c : Nat) => s.me.withUnits fun u => { u with array := s.cc + k c }
    let row := fun (mp : Map) (r : Nat) => if mp.rule = 2 then gsum x f (mp.members r) true ((s.t t).sideAt r)
      else (x.row (mp.repOf r), x.sideAt (mp.repOf r))
    let compacted := fun (u : State) (mp : Map) (rows : Nat → List (BitVec 16) × BitVec 16) =>
      (u.t t).fmt = f ∧ (u.t t).rows = BitVec.ofNat 4 (mp.rc.toNat - 1) ∧ (u.t t).cols = x.cols ∧
      (∀ r, r < 16 → r < mp.rc.toNat → (u.t t).row r = (List.range 16).map (fun j => (rows r).1.getD j 0) ∧ (u.t t).sideAt r = (rows r).2) ∧
      (∀ r, r < 16 → mp.rc.toNat ≤ r → (u.t t).row r = List.replicate 16 0 ∧ (u.t t).sideAt r = 0xFF00) ∧
      ∀ j, j ≠ s.st.tIx t → rd u.me.tiles j = rd s.me.tiles j
    let sigst := fun (i : Instr) (sub : Nat) (op : Nat) => ∃ u, exec i s = .next u ∧ s.stopsOn u ⟨0x16, BitVec.ofNat 32 (sub + 16 * op), 0⟩
    let p := (s.g g).toNat % 65536
    let mapWords := fun (p : Nat) => (List.range 3).map fun i => (p / 8 + i) % 8192
    let mis := fun (i : Instr) => ∃ u, exec i s = .next u ∧ s.stopsOn u ⟨0x08, BitVec.ofNat 16 p ++ 3#16, 0⟩
    (x.fmt = f → s.st.proj.kw ≠ 0 → n = s.st.proj.n → ∃ u, exec (.sigb t a cap f rule) s = .next u ∧ compacted u m1 (row m1) ∧
      s.st.passed u.st ∧ u.st = { s.st with map := m1, pend := u.st.pend, pc := u.st.pc, fill := u.st.fill } ∧
      u.st.pend = s.st.pend ++ [⟨.map, some (s.cc + (k 6 + 3)), false⟩, ⟨.t t, some (s.cc + (k 6 + 3)), false⟩] ∧
      s.ownCoreIs u { array 6 with tiles := u.me.tiles } ∧ s.sameMemory u) ∧
    (x.fmt = f → m.rc ≠ 0 → n = m.nr.toNat →
      (∃ u, exec (.sigbC t a f) s = .next u ∧ compacted u m (row m) ∧
        s.passesPend u [⟨.t t, some (s.cc + (k 2 + 3)), false⟩] { array 2 with tiles := u.me.tiles }) ∧
      ∃ u, exec (.sigg t a f) s = .next u ∧ compacted u m (fun r => gsum x f (m.members r) false ((s.t t).sideAt r)) ∧
        s.passesPend u [⟨.t t, some (s.cc + (k 4 + 4)), false⟩] { array 4 with tiles := u.me.tiles }) ∧
    (m.rc ≠ 0 → ∀ i scale, (i = .sigx sx dx z ∧ scale = false) ∨ (i = .sigxScale sx dx z ∧ scale = decide (m.rule = 2)) →
      let start := if z = 1 then { s.acc dx with a := Vector.replicate 256 0, x := 0x800 } else s.acc dx
      let ps := ((List.range 16).map fun r => (List.range 16).map fun j =>
        if m.nr.toNat ≤ r then Partial.fin 0 0
        else
          let e := (s.acc sx).vals.getD (16 * m.bucket r + j) 0
          match accVal e (s.acc sx).x.toInt with
          | .nan => .nan
          | .inf neg => .inf neg
          | .fin _ _ => if scale then .fin (round ⟨256 * e, (m.members (m.bucket r)).length⟩ .rne 0) ((s.acc sx).x.toInt - 8)
            else .fin e (s.acc sx).x.toInt).flatten
      ∃ u, exec i s = .next u ∧ s.holdsA u dx { start with
          a := Vector.ofFn fun q : Fin 256 => BitVec.ofInt 40 ((accStep start.vals start.x.toInt ps).1.getD q.val 0),
          x := BitVec.ofInt 12 (accStep start.vals start.x.toInt ps).2 } ∧
        s.passesPend u [⟨.acc dx, some (s.cc + (k 4 + 4)), false⟩] { array 4 with accs := u.me.accs }) ∧
    (x.fmt = f → (s.st.proj.kw = 0 → sigst (.sigb t a cap f rule) 3 a.toNat) ∧
      (s.st.proj.kw ≠ 0 → n ≠ s.st.proj.n → sigst (.sigb t a cap f rule) 5 a.toNat) ∧
      (m.rc = 0 → sigst (.sigbC t a f) 4 a.toNat ∧ sigst (.sigg t a f) 4 a.toNat) ∧
      (m.rc ≠ 0 → n ≠ m.nr.toNat → sigst (.sigbC t a f) 5 a.toNat ∧ sigst (.sigg t a f) 5 a.toNat)) ∧
    (m.rc = 0 → sigst (.sigx sx dx z) 4 sx.toNat ∧ sigst (.sigxScale sx dx z) 4 sx.toNat) ∧
    (x.fmt ≠ f → ∀ i, i ∈ ([.sigb t a cap f rule, .sigbC t a f, .sigg t a f] : List Instr) → ∃ u, exec i s = .next u ∧
      s.stopsOn u ⟨0x14, BitVec.ofNat 32 (a.toNat + 8 * x.fmt.toNat + 64 * f.toNat), 0⟩) ∧
    (p % 8 = 0 → s.me.writeFault p 24 = none → ∃ u, exec (.sigms g) s = .next u ∧ s.st.passed u.st ∧ u.st.pend = s.st.pend ∧
      s.st.sameButPend u.st ∧
      s.ownCoreIs u { s.me with sram := u.me.sram, ue := u.me.ue, ce := u.me.ce, dataQ := s.me.dataQ ++ [mapWords p] } ∧ s.sameMemoryBut u (inSpan p 24) ∧
      (Memory.wf s.me.sram = true → u.me.load p 24 = ofBytes m.image)) ∧
    (p % 8 = 0 → s.me.readFault p 24 = none →
      (mapOk (s.me.load p 24) = true → ∃ u, exec (.sigml g) s = .next u ∧ s.st.passed u.st ∧
        u.st.pend = s.st.pend ++ [⟨.map, some (s.cc + 4), false⟩] ∧
        u.st = { s.st with map := Map.ofNat (s.me.load p 24), pend := u.st.pend, pc := u.st.pc, fill := u.st.fill } ∧
        s.ownCoreIs u { s.me with sramce := u.me.sramce, dataQ := s.me.dataQ ++ [mapWords p] } ∧
        s.sameMemory u) ∧
      (mapOk (s.me.load p 24) = false → ∃ u, exec (.sigml g) s = .next u ∧
        s.stopsOn u ⟨0x16, BitVec.ofNat 32 (6 + 65536 * p), 0⟩)) ∧
    (p % 8 ≠ 0 → mis (.sigms g) ∧ mis (.sigml g))

/-- SPBIND of a valid record on a free slot (for a read an empty, unbound, fitting bobbin) completes: the slot is binding, the
bobbin bound and g[d] pending; SPBIND_REPLY gives it the brick's lowest free spindle and answers 0, or frees it and answers 1,
the answer usable from the core cycle after the next that begins. SPFREE of a bound slot without rounds resets slot, spindle and
binding. SPSET replaces one field of the slot's record where the result is valid. SPRUN and SPRUN.W of a round in range, with a
legal arc, source and bounds and a free tag, complete: the tag is busy, the round stands last and runs at once where the slot
was idle, the bobbin empty and no arc given. A slot that is not bound, a wrong direction and a round out of range are ESTRM 1, 4
and 7. ECANCEL of a tag nobody holds answers 0; of a round not begun it answers 1, sets the tag and drops the round. SPRUN.R
restarts a faulted round at its first incomplete unit with its tag busy, and without one passes. (Where the spec leaves a
choice: log entries 19 and 21.) [10_edge_memory.md R273; 10_edge_memory.md R274; 10_edge_memory.md R284; 10_edge_memory.md R285;
10_edge_memory.md R286; 10_edge_memory.md R287; 10_edge_memory.md Table 10.6; 10_edge_memory.md Table 10.10] -/
def Obligations.SpindlesAndRounds : Prop :=
  ∀ (s : State) (d a n : BitVec 4) (e k : BitVec 6) (nb : BitVec 1) (b : BitVec 5) (sel : BitVec 4),
    let x := s.me
    let str := x.stream a
    let bob := x.bobbin b
    let st := x.stream n
    let r := st.shape
    let estrm := fun (i : Instr) (sub : Nat) (slot : BitVec 4) (op : Nat) => ∃ t, exec i s = .next t ∧
      s.stopsOn t ⟨0x1B, BitVec.ofNat 32 (sub + 16 * slot.toNat + 256 * op), 0⟩
    let quiet := ∀ j, (x.strand j).run ≠ .waiting ∧ (x.strand j).hold = .none
    let m := (s.g a).toNat
    let arc := (s.g d).toNat
    let src := (s.g (a + 1)).toNat % 65536
    let side := (s.g (a + 1)).toNat / 65536
    let new : Shape := if sel = 0 then { r with base := (s.p a).truncate 57 } else if sel = 1 then { r with sbase := (s.p a).truncate 57 }
      else { r with ext := wr r.ext ((sel - 2).truncate 3 : BitVec 3) ((s.p a).truncate 32) }
    (∀ shape, x.shape e = some shape → str.st = .free → shape.valid = true → (nb == 1) = shape.dir →
      (nb = 1 → b = 0) → (nb = 0 → bob.valid = true ∧ bob.st = .empty ∧ bob.bkind = 0 ∧ shape.bytes ≤ bob.size.toNat ∧
        (bob.fmt = shape.fmt ∨ isB bob.fmt = false ∧ isB shape.fmt = false)) →
      ∃ t, exec (.spbind d a e nb b) s = .next t ∧ s.st.passed t.st ∧ t.st.pend = s.st.pend ++ [⟨.g d, none, false⟩] ∧
        s.st.sameButPend t.st ∧ s.ownCoreIs t { x with streams := t.me.streams, bobbins := t.me.bobbins } ∧ s.sameMemory t ∧
        t.me.streams = wr x.streams a { str with st := .binding, entry := e, bob := if nb = 0 then some b else none, shape := shape, rounds := [], by_ := (s.slot, d) } ∧
        t.me.bobbins = if nb = 0 then wr x.bobbins b { bob with bkind := 2, bind := e } else x.bobbins) ∧
    (str.st = .bound → estrm (.spbind d a e nb b) 1 a e.toNat) ∧
    (str.st ≠ .bound → x.shape e = none → estrm (.spbind d a e nb b) 2 a e.toNat) ∧
    (∀ l (c : Core) (i : Nat), s.core l = c → (c.stream n).st = .binding →
      let by_ := (c.stream n).by_
      let brick := (c.stream n).shape.brick.toNat
      let used := fun j => ((s.brick brick).spindles.map Prod.fst).contains j
      (i < 256 → used i = false → (∀ j, j < i → used j = true) → ∃ t, exec (.spbindReply l n.toNat) s = .next t ∧
        (t.core l).stream n = { c.stream n with st := .bound, spindle := i } ∧ (t.brick brick).spindles = (s.brick brick).spindles ++ [(i, l, n.toNat)] ∧
        (t.core l).strand by_.1 = (c.strand by_.1).answer by_.2 0 (c.nextCycle + 1)) ∧
      ((∀ j, j < 256 → used j = true) → ∃ t, exec (.spbindReply l n.toNat) s = .next t ∧ (t.core l).stream n = Stream.reset ∧
        (∀ q, (c.stream n).bob = some q → ((t.core l).bobbin q).bkind = 0) ∧
        (t.core l).strand by_.1 = (c.strand by_.1).answer by_.2 1 (c.nextCycle + 1))) ∧
    (str.st = .bound → str.rounds = [] → ∃ t, exec (.spfree a) s = .next t ∧
      t.me.stream a = Stream.reset ∧ s.st.passed t.st ∧ s.sameMemory t ∧ (∀ q, str.bob = some q → (t.me.bobbin q).bkind = 0) ∧
      ∀ u, u ∈ (t.brick str.shape.brick.toNat).spindles → ¬ (u.1 = str.spindle ∧ u.2.1 = s.cur)) ∧
    (str.st ≠ .bound → estrm (.spfree a) 1 a 0) ∧ (str.st = .bound → str.rounds ≠ [] → estrm (.spfree a) 6 a 0) ∧
    (st.st = .bound → (new.valid = true → ∃ t, exec (.spset a n sel) s = .next t ∧
        s.passesBut t { x with streams := wr x.streams n { st with shape := new } }) ∧
      (new.valid = false → estrm (.spset a n sel) 5 n 0)) ∧
    (∀ i write, (i = .sprun d a n k ∧ write = false) ∨ (i = .sprunW d a n k ∧ write = true) →
      (quiet → x.frozen = false → st.st = .bound → r.dir = write → m < r.count → (d ≠ 0 → arc < 128 ∧ arc ≠ 64 + k.toNat) →
        (write = false → ∀ q, st.bob = some q → r.bytes ≤ (x.bobbin q).size.toNat) →
        (write = true → src % 8 = 0 ∧ side % 2 = 0 ∧ x.checkRead src r.bytes = none ∧
          (r.blk = true → x.checkRead side (r.bytes / mw r.fmt) = none)) →
        x.plbCheck (if write then 1 else 0) (r.intervals m) = none → x.tagFree k = true →
        ∃ t, exec i s = .next t ∧ s.st.passed t.st ∧ t.st.g = s.st.g ∧ t.st.edgeIds = s.st.edgeIds ++ [s.nextId] ∧ s.sameMemory t ∧
          t.me.tag k = ⟨.busy, .round, true, 0, 0, 0⟩ ∧ (∀ j, j ≠ k → t.me.tag j = x.tag j) ∧
          ∃ pre q, (t.me.stream n).rounds = pre ++ [q] ∧ pre.map Round.id = st.rounds.map Round.id ∧ q.id = s.nextId ∧ q.n = m ∧ q.tag = k ∧
            q.arc = (if d ≠ 0 ∧ 64 ≤ arc then some (BitVec.ofNat 6 arc) else none) ∧ q.shape = r ∧ q.src = BitVec.ofNat 16 src ∧
            q.side = BitVec.ofNat 16 side ∧ q.next = 0 ∧ q.landed = [] ∧ q.fault = none ∧
            (st.rounds = [] → (write = true ∨ ∀ c, st.bob = some c → (x.bobbin c).st = .empty) → d = 0 → q.st = .running)) ∧
      (st.st ≠ .bound → estrm i 1 n k.toNat) ∧ (st.st = .bound → r.dir ≠ write → estrm i 4 n k.toNat) ∧
      (st.st = .bound → r.dir = write → r.count ≤ m → estrm i 7 n k.toNat)) ∧
    (x.roundOf k = none → s.holderOf s.cur k = none → (∃ t, exec (.ecancel d k) s = .next t ∧ s.writesG t d 0 2) ∧
      ∃ t, exec (.sprunR k) s = .next t ∧ s.passesOnly t) ∧
    (∀ i q, x.roundOf k = some (i, q) →
      (q.st = .queued → q.begun = false → quiet → s.st.frozen = false → ∃ t, exec (.ecancel d k) s = .next t ∧ s.holdsG t d 1 ∧ s.st.passed t.st ∧
        t.me.tag k = ⟨.set, .none, false, 0, 0, 0⟩ ∧ s.sameMemory t ∧ ∀ z, z ∈ (t.me.stream (BitVec.ofNat 4 i)).rounds → z.id ≠ q.id) ∧
      (q.st = .faulted → ∃ t, exec (.sprunR k) s = .next t ∧ s.passesBut t { x with streams := t.me.streams, tags := t.me.tags } ∧
        t.me.tag k = { x.tag k with st := .busy, live := true, cause := 0, einfo := 0, eaddr := 0 } ∧
        ∃ z, z ∈ (t.me.stream (BitVec.ofNat 4 i)).rounds ∧ z.id = q.id ∧ z.st = .running ∧ z.next = q.done ∧ z.fault = none) ∧
      (q.st ≠ .faulted → ∃ t, exec (.sprunR k) s = .next t ∧ s.passesOnly t))

/-- SPINDLE_UNIT_REQUEST on the running oldest round of a bound slot of a core that is not frozen, with units left, sends the
request for the round's next unit to the record's brick and counts it; otherwise, for the first unit of a read round whose
bobbin is not empty, and for a write round's unit whose bytes are still to be read while the data port is taken, it does
nothing. A write round's unit carries its source bytes, read now, which takes the data port for their words, or kept from an
earlier request of it, and the pair of the 8-byte word of side pairs last read where that is its word. A source byte in a word
with an uncorrectable error faults the round at that unit with MEMUE: it sends nothing, and once every unit before it is
complete its tag is faulted. UNIT_REPLY of a unit of a running, fault-free oldest round, where no strand of the core waits or
holds, drops the request, but waits where the bobbin is full or draining. A read unit in plain order (no XP, no skew) lands its
bytes in the bobbin at its offset, its side bytes at theirs, and changes no other byte. While units are missing the round counts
the unit as landed; with the last one it ends: it leaves the slot and its tag is set. (Where the spec leaves a choice: log
entries 20, 21 and 48.) [10_edge_memory.md R275; 10_edge_memory.md R276; 10_edge_memory.md R278; 10_edge_memory.md R279;
10_edge_memory.md Table 10.6; 06_local_memory.md R143; 06_local_memory.md R146] -/
def Obligations.RoundProgress : Prop :=
  ∀ (s : State) (l : Nat) (n : BitVec 4) (r : Round) (rest : List Round),
    let x := s.core l
    let st := x.stream n
    let first := r.next * r.shape.unitBytes
    let size := min r.shape.unitBytes (r.shape.bytes - first)
    let kept := r.kept.find? fun c => c.1 == r.next
    let from_ := (r.src.toNat + first) % 65536
    let pairAt := (r.side.toNat + first / mw r.shape.fmt) % 65536
    let pair := match r.sideWord with
      | some (w, bs) => if w = pairAt / 8 then (bs.drop (pairAt % 8)).take 2 else Memory.bytes x.sram pairAt 2
      | none => Memory.bytes x.sram pairAt 2
    let pairKept := match r.sideWord with
      | some (w, _) => w == pairAt / 8
      | none => false
    let pairWord := if r.shape.blk = true ∧ pairKept = false then [pairAt / 8] else []
    let err := match x.ueAt from_ size with
      | some a => some a
      | none => if pairWord = [] then none else x.ueAt pairAt 2
    let port := x.dataQ = [] ∧ x.latom = none
    let waits := (r.shape.dir = false ∧ r.next = 0 ∧ ∃ b, st.bob = some b ∧ (x.bobbin b).st ≠ .empty) ∨
      (r.shape.dir = true ∧ kept = none ∧ ¬ port)
    let sends := fun (src : Nat → Nat → List Byte) (side : List Byte) (t : State) =>
      t.reqs = s.reqs ++ [⟨s.nextId, l, r.slot, r.shape.brick.toNat, r.shape.dir, .unit n.toNat r.id r.next,
          r.shape.pieces r.n r.next src (fun _ => side), .toBrick, s.time, none, 0, false⟩] ∧
        t.nextId = s.nextId + 1 ∧ s.sameMemory t
    st.rounds = r :: rest →
    ((∀ q, q ∈ rest → q.id ≠ r.id) → st.st = .bound → r.st = .running → x.frozen = false → r.next < r.shape.units →
      (r.shape.dir = false → ¬ waits → ∃ t, exec (.spindleUnitRequest l n.toNat) s = .next t ∧ sends (fun _ _ => []) [] t ∧
        (t.core l).stream n = { st with rounds := { r with next := r.next + 1 } :: rest }) ∧
      (r.shape.dir = true → r.shape.xp = false → (kept = none → port ∧ err = none) → (r.shape.blk = true → r.shape.bytes % r.shape.unitBytes = 0 ∧ r.side.toNat % 2 = 0) →
        ∃ t, exec (.spindleUnitRequest l n.toNat) s = .next t ∧
          (kept = none → sends (fun o k => Memory.bytes x.sram (r.src.toNat + o) k) pair t ∧
            (t.core l).dataQ = [wordsOf from_ size ++ pairWord]) ∧
          (∀ u d, kept = some (u, d) → sends (fun o k => (d.drop (o - first)).take k) (d.drop size) t) ∧
          ∃ q, (t.core l).stream n = { st with rounds := q :: rest } ∧
            q = { r with next := r.next + 1, kept := q.kept, sideWord := q.sideWord } ∧ ∃ d, (r.next, d) ∈ q.kept) ∧
      (∀ a, r.shape.dir = true → kept = none → port → err = some a → ∃ t, exec (.spindleUnitRequest l n.toNat) s = .next t ∧
        t.reqs = s.reqs ∧ t.nextId = s.nextId ∧ s.sameMemory t ∧
        (t.core l).stream n = { st with rounds := { r with
          fault := some ⟨r.next, 0x0D, 0, BitVec.ofNat 64 a⟩, st := if r.next ≤ r.done then .faulted else .faulting } :: rest } ∧
        (t.core l).tag r.tag = if r.next ≤ r.done then { x.tag r.tag with
            st := .faulted, live := true, cause := 0x0D, einfo := BitVec.ofNat 32 (a * 65536), eaddr := 0 }
          else x.tag r.tag)) ∧
    (st.st ≠ .bound ∨ r.st ≠ .running ∨ x.frozen = true ∨ r.shape.units ≤ r.next ∨ waits →
      exec (.spindleUnitRequest l n.toNat) s = .next s) ∧
    ∀ id q u b, s.req id = some q → q.core = l → q.op = .unit n.toNat r.id u → q.stage = .back → q.fault = none → st.bob = some b →
      r.shape.dir = false →
      ((x.bobbin b).st = .full ∨ (x.bobbin b).st = .draining → exec (.unitReply id) s = .next s) ∧
      ((x.bobbin b).st = .empty ∨ (x.bobbin b).st = .filling → r.fault = none →
      r.st = .running → (∀ z, z ∈ rest → z.id ≠ r.id) → (∀ j, (x.strand j).run ≠ .waiting ∧ (x.strand j).hold = .none) →
      r.shape.xp = false → (if (x.bobbin b).st = .empty then r.shape.swz else (x.bobbin b).swz) ≠ 1 → Memory.wf x.sram = true →
      u < r.shape.units →
      let size := min r.shape.unitBytes (r.shape.bytes - u * r.shape.unitBytes)
      q.bytes.length = size + (if r.shape.blk then 2 else 0) →
      let at_ := fun i => ((x.bobbin b).base.toNat + (u * r.shape.unitBytes + i)) % 65536
      let pairAt := fun i => ((x.bobbin b).sbase.toNat + u * r.shape.unitBytes / mw r.shape.fmt + i) % 65536
      let isPair := fun p => r.shape.blk = true ∧ (p = pairAt 0 ∨ p = pairAt 1)
      ∃ t, exec (.unitReply id) s = .next t ∧ (∀ p, p ∈ t.reqs → p.id ≠ id) ∧
        (∀ i, i < size → ¬ isPair (at_ i) → Memory.get (t.core l).sram (at_ i) = q.bytes.getD i 0) ∧
        (r.shape.blk = true → ∀ i, i < 2 → Memory.get (t.core l).sram (pairAt i) = q.bytes.getD (size + i) 0) ∧
        (∀ p, (∀ i, i < size → p ≠ at_ i) → ¬ isPair p → Memory.get (t.core l).sram p = Memory.get x.sram p) ∧
        (Round.done { r with landed := u :: r.landed } ≠ r.shape.units →
          ((t.core l).stream n).rounds = { r with landed := u :: r.landed, kept := [] } :: rest) ∧
        (Round.done { r with landed := u :: r.landed } = r.shape.units →
          (t.core l).tag r.tag = ⟨.set, .none, false, 0, 0, 0⟩ ∧ ∀ z, z ∈ ((t.core l).stream n).rounds → z.id ≠ r.id))

/-- At an aligned address inside the PLB's rights and with a free tag each completes: the tag is busy, one request with the
pieces of its range (for stores with their data) stands last on its way to the core's brick, and the strand counts it as
incomplete; ELD and ELD.B also need a declared, unbound, empty or filling bobbin of their kind with room, and reserve the bytes
behind those reserved. A misaligned address, the odd side address of ELD.B and EST.B among them, stops each on MISAL, a tag that
is not free on TAGBSY. When the reply is back: ELD lands its bytes at its offset and, in order, FILL moves past them; EST's tag
is set; a fault makes the tag faulted and keeps the request. EWATCH at its home sets the tag at once if the word differs from
the compare value, else it is armed while fewer than 256 watches stand. (Where the spec leaves a choice: log entries 20, 21 and
24.) [10_edge_memory.md R263; 10_edge_memory.md R287; 10_edge_memory.md R289; 10_edge_memory.md R290; 10_edge_memory.md R291;
10_edge_memory.md R292; 06_local_memory.md R146] -/
def Obligations.SmallTransfers : Prop :=
  ∀ (s : State) (d a v : BitVec 4) (sx : BitVec 2) (en h w : BitVec 1) (b : BitVec 5) (f : BitVec 3) (k : BitVec 6),
    let x := s.me
    let p := s.p a
    let q := s.p (a + 2)
    let bob := x.bobbin b
    let res := s.reserved s.cur b
    let sends := fun (i : Instr) (write : Bool) (op : EdgeOp) (ps : List Piece) (holder : Holder) => ∃ t, exec i s = .next t ∧
      t.reqs = s.reqs ++ [⟨s.nextId, s.cur, s.slot, s.ebrick s.cur, write, op, ps, .toBrick, s.time, none, 0, false⟩] ∧
      t.nextId = s.nextId + 1 ∧ t.me.tags = wr x.tags k ⟨.busy, holder, true, 0, 0, 0⟩ ∧ s.st.passed t.st ∧
      t.st = { s.st with edgeIds := s.st.edgeIds ++ [s.nextId], pc := t.st.pc, fill := t.st.fill } ∧ s.sameMemory t ∧
      s.otherStrandsSame t ∧ ∀ l, l ≠ s.cur → t.core l = s.core l
    let mis := fun (i : Instr) (addr : Dword) (lg : Nat) => ∃ t, exec i s = .next t ∧
      s.stopsOn t ⟨0x08, BitVec.ofNat 32 (addr.toNat % 65536 * 65536 + lg), 0⟩
    let busy := fun (i : Instr) => ∃ t, exec i s = .next t ∧ s.stopsOn t ⟨0x0C, k.zeroExtend 32, 0⟩
    let fits := fun (size : Nat) (blk : Bool) => bob.valid = true ∧ bob.bkind = 0 ∧ (bob.st = .empty ∨ bob.st = .filling) ∧ res.2 = false ∧
      bob.fill.toNat + res.1 + size ≤ bob.size.toNat ∧ isB bob.fmt = blk
    let ns := 8 * 2 ^ sx.toNat
    let nb := 2 * mw bob.fmt
    let ne := if w = 1 then 8 else 4
    let nf := 2 * mw f
    let y := s.v v
    (p.toNat % ns = 0 → fits ns false → x.plbCheck 0 [byteRange p ns] = none →
      (x.tagFree k = true → sends (.eld sx a en b k) false (.eld b (bob.fill.toNat + res.1) ns false (en == 1) k) (wordPieces p.toNat ns []) .eld) ∧
      (x.tagFree k = false → busy (.eld sx a en b k))) ∧
    (p.toNat % ns ≠ 0 → mis (.eld sx a en b k) p (3 + sx.toNat)) ∧
    (p.toNat % 8 = 0 → q.toNat % 2 = 0 → fits nb true → x.plbCheck 0 [byteRange p nb, byteRange q 2] = none →
      (x.tagFree k = true → sends (.eldB a en b k) false (.eld b (bob.fill.toNat + res.1) nb true (en == 1) k)
        (wordPieces p.toNat nb [] ++ wordPieces q.toNat 2 []) .eld) ∧
      (x.tagFree k = false → busy (.eldB a en b k))) ∧
    (p.toNat % 8 = 0 → q.toNat % 2 ≠ 0 → mis (.eldB a en b k) q 1 ∧ mis (.estB v a h f k) q 1) ∧
    (p.toNat % 8 ≠ 0 → mis (.eldB a en b k) p 3 ∧ mis (.estB v a h f k) p 3 ∧ mis (.ewatch d a k) p 3) ∧
    (p.toNat % ne = 0 → x.plbCheck 1 [byteRange p ne] = none →
      (x.tagFree k = true → sends (.est d a w k) true (.est k)
        (wordPieces p.toNat ne (toBytes ne (if w = 1 then (s.p d).toNat else (s.g d).toNat))) .est) ∧
      (x.tagFree k = false → busy (.est d a w k))) ∧
    (p.toNat % ne ≠ 0 → mis (.est d a w k) p (if w = 1 then 3 else 2)) ∧
    (p.toNat % 8 = 0 → q.toNat % 2 = 0 → x.plbCheck 1 [byteRange p nf, byteRange q 2] = none →
      (x.tagFree k = true → sends (.estB v a h f k) true (.est k)
        (wordPieces p.toNat nf (rowBytes f (y.half h.toNat)) ++ [⟨q.toNat, 2, 0, toBytes 2 (y.sideOf h.toNat).toNat⟩]) .est) ∧
      (x.tagFree k = false → busy (.estB v a h f k))) ∧
    (p.toNat % 8 = 0 → x.plbCheck 0 [byteRange p 8] = none →
      (x.tagFree k = true → sends (.ewatch d a k) false (.ewatch (s.p d) k) (wordPieces p.toNat 8 []) .ewatch) ∧
      (x.tagFree k = false → busy (.ewatch d a k))) ∧
    ∀ id r, s.req id = some r → (∀ j, ((s.core r.core).strand j).run ≠ .waiting ∧ ((s.core r.core).strand j).hold = .none) →
      let c := s.core r.core
      let isSet := fun (t : State) => (t.core r.core).tag k = ⟨.set, .none, false, 0, 0, 0⟩
      (∀ n off size last, r.op = .eld n off size false last k → r.stage = .back → r.landed = false → r.fault = none →
        (∀ z, z ∈ s.reqs → z.landed = false ∧ (z.id = r.id → z = r)) → off = (c.bobbin n).fill.toNat → off + size < 65536 →
        (c.bobbin n).st = .empty ∨ (c.bobbin n).st = .filling → (c.bobbin n).ften = false → Memory.wf c.sram = true → size ≤ r.bytes.length →
        ∃ t, exec (.eldReturn id) s = .next t ∧ isSet t ∧ ((t.core r.core).bobbin n).fill.toNat = off + size ∧
          ((t.core r.core).bobbin n).st = (if last = true ∨ off + size = (c.bobbin n).size.toNat then .full else .filling) ∧
          (∀ i, i < size → Memory.get (t.core r.core).sram (((c.bobbin n).base.toNat + off + i) % 65536) = r.bytes.getD i 0) ∧
          ∀ i, (∀ j, j < size → i ≠ ((c.bobbin n).base.toNat + off + j) % 65536) → Memory.get (t.core r.core).sram i = Memory.get c.sram i) ∧
      (r.op = .est k → r.stage = .back → r.fault = none → ∃ t, exec (.estComplete id) s = .next t ∧ isSet t ∧
        (∀ z, z ∈ t.reqs → z.id ≠ id) ∧ s.sameMemory t) ∧
      (∀ fl, r.op = .est k → r.stage = .back → r.fault = some fl → ∃ t, exec (.estComplete id) s = .next t ∧
        ((t.core r.core).tag k).st = .faulted ∧ ((t.core r.core).tag k).cause = fl.1 ∧ ((t.core r.core).tag k).eaddr = fl.2.2 ∧
        (∃ z, z ∈ t.reqs ∧ z.id = id ∧ z.stage = .held) ∧ s.sameMemory t) ∧
      (∀ cmp pc ps home bs, r.op = .ewatch cmp k → r.stage = .toHome → r.pieces = pc :: ps → s.home pc.pa = some home →
        s.devRead pc.pa 8 = some bs → (s.brick home).watches.length < 256 →
        (BitVec.ofNat 64 (ofBytes bs) ≠ cmp → ∃ t, exec (.ewatchArm id) s = .next t ∧ isSet t ∧ ∀ z, z ∈ t.reqs → z.id ≠ id) ∧
        (BitVec.ofNat 64 (ofBytes bs) = cmp → ∃ t, exec (.ewatchArm id) s = .next t ∧
          (t.brick home).watches = (s.brick home).watches ++ [⟨id, r.core, k, pc.pa, cmp⟩] ∧ ∃ z, z ∈ t.reqs ∧ z.id = id ∧ z.stage = .armed))

/-- At an address aligned to its width inside the PLB's atomic right, EATOM and EATOMSC complete their issue: one atomic request
with the operation, scope, operands and destination (for EATOMSC the core's next sequence number, which then moves on) stands
last on its way to the core's brick, and the strand holds behind the instruction. A misaligned address stops each on MISAL.
ATOMIC_REPLY without a fault writes the old value to g[d] (to P(d) for a doubleword), usable one core cycle after the next that
begins, and ends the hold; with one it stops the strand at the atomic on its cause and address. EFENCE without incomplete
requests only passes; else it keeps the list of those it waits for. EFENCE_CLEAR drops exactly the fences that wait for nothing.
(Where the spec leaves a choice: log entry 9.) [11_ordering_atomics.md R299; 11_ordering_atomics.md R301; 11_ordering_atomics.md
R303; 11_ordering_atomics.md R305; 11_ordering_atomics.md R306; 10_edge_memory.md R266] -/
def Obligations.AtomicsAndFences : Prop :=
  ∀ (s : State) (d a b o : BitVec 4) (sx w : BitVec 1),
    let p := s.p a
    let n := if w = 1 then 8 else 4
    let val := fun (r : BitVec 4) => if w = 1 then s.p r else (s.g r).zeroExtend 64
    let sends := fun (i : Instr) (sys sc : Bool) => ∃ t, exec i s = .next t ∧ t.nextId = s.nextId + 1 ∧
      t.reqs = s.reqs ++ [⟨s.nextId, s.cur, s.slot, s.ebrick s.cur, true, .atomic o sys (w == 1) sc (val b) (val d) d s.me.scSeq,
        wordPieces p.toNat n [], .toBrick, s.time, none, 0, false⟩] ∧
      s.st.left t.st ∧ t.st = { s.st with hold := .atomic, edgeIds := s.st.edgeIds ++ [s.nextId], pc := t.st.pc, fill := t.st.fill, here := t.st.here } ∧
      s.otherStrandsSame t ∧ s.sameMemory t ∧
      t.me = { s.me with strands := t.me.strands, scSeq := s.me.scSeq + if sc then 1 else 0 } ∧ ∀ l, l ≠ s.cur → t.core l = s.core l
    (p.toNat % n = 0 → s.me.plbCheck 2 [byteRange p n] = none →
      sends (.eatom d a b o sx w) (sx == 1) false ∧ sends (.eatomsc d a b o w) false true) ∧
    (p.toNat % n ≠ 0 → ∀ i, i = .eatom d a b o sx w ∨ i = .eatomsc d a b o w → ∃ t, exec i s = .next t ∧
      s.stopsOn t ⟨0x08, BitVec.ofNat 32 (p.toNat % 65536 * 65536 + if w = 1 then 3 else 2), 0⟩) ∧
    (∀ id q op sys dbl sc v c r m, s.req id = some q → q.op = .atomic op sys dbl sc v c r m → q.stage = .back →
      let x := (s.core q.core).strand q.slot
      (q.fault = none → ∃ t y, exec (.atomicReply id) s = .next t ∧ y = (t.core q.core).strand q.slot ∧ y.pc = x.pc ∧ y.fill = x.fill ∧ y.hold = .none ∧
        s.sameMemory t ∧ (∀ z, z ∈ t.reqs → z.id ≠ id) ∧
        (dbl = false → y.getG r = (if r = 0 then 0 else q.value.truncate 32) ∧ (∀ j, j ≠ r → y.getG j = x.getG j) ∧
          y.pend = x.pend ++ [⟨.g r, some ((s.core q.core).nextCycle + 1), false⟩]) ∧
        (dbl = true → r.toNat % 2 = 0 → y.getG r = (if r = 0 then 0 else q.value.truncate 32) ∧
          y.getG (r + 1) = (q.value >>> 32).truncate 32 ∧ (∀ j, j ≠ r → j ≠ r + 1 → y.getG j = x.getG j) ∧
          y.pend = x.pend ++ [⟨.g r, some ((s.core q.core).nextCycle + 1), false⟩, ⟨.g (r + 1), some ((s.core q.core).nextCycle + 1), false⟩])) ∧
      (∀ f, q.fault = some f → ∃ t y, exec (.atomicReply id) s = .next t ∧ y = (t.core q.core).strand q.slot ∧ y.run = .stopped ∧
        y.frame.cause = f.1 ∧ y.frame.eaddr = f.2.2 ∧ y.frame.epc = x.here.epc ∧ y.frame.eclb = x.here.eclb ∧ y.pc = x.here.epc ∧
        y.g = x.g ∧ s.sameMemory t)) ∧
    (s.st.edgeIds = [] → ∃ t, exec .efence s = .next t ∧ s.passesOnly t) ∧
    (s.st.edgeIds ≠ [] → ∃ t, exec .efence s = .next t ∧ s.st.passed t.st ∧ s.strandOnly t ∧
      t.st = { s.st with fences := s.st.fences ++ [s.st.edgeIds], pc := t.st.pc, fill := t.st.fill }) ∧
    ∃ t, exec (.efenceClear s.cur s.slot.toNat) s = .next t ∧ t.st = { s.st with fences := s.st.fences.filter fun f => f ≠ [] } ∧ s.strandOnly t

/-- With no watches: EDGE_REQUEST_ARRIVAL translates a small transfer or EATOM, moving it to its home, or back with the first
fault; an EATOMSC is announced in the present window, or kept unannounced during a takeover, where the window has 64 of its
brick or while an earlier one of its brick is unannounced. HOME_ACCESS gives a read its bytes, or EUE reason 3 at a piece that
has none; a store of one piece writes exactly its bytes where no line is held; an atomic takes the old value and the location
reads the operation's result. WINDOW_CLOSE before tick 64(w + 9) or with an earlier window standing does nothing, and else
performs the window's requests of that home in order of core and sequence number. A dirty line goes to its device 65,536 mesh
cycles after its last atomic, not before. HOST_READ changes nothing; HOST_WRITE within a line through a trained host port writes
its bytes, without one nothing. A store that touches the word of a watch, where no line is held, and leaves it different from
the compare value fires the watch: its tag is set, it leaves its table and its request ends; any other store leaves it armed.
(Where the spec leaves a choice: log entries 20, 22 and 23.) [10_edge_memory.md R261; 10_edge_memory.md R265;
11_ordering_atomics.md R295; 11_ordering_atomics.md R303; 11_ordering_atomics.md R304; 11_ordering_atomics.md R305;
11_ordering_atomics.md R306; 11_ordering_atomics.md R308; 10_edge_memory.md R278; 10_edge_memory.md R291] -/
def Obligations.RequestsAtBricks : Prop :=
  (∀ (s : State) (id b win : Nat) (q : EdgeReq), (∀ k, (s.brick k).watches = []) →
    let full := s.mgmt.takeover = true ∨ 64 ≤ (s.reqs.filter fun r => r.brick == q.brick && r.stage == .announced (s.time / 64)).length ∨
      ((s.reqs.takeWhile fun r => r.id != id).any fun r => r.brick == q.brick && r.stage == .unannounced) = true
    let mine := s.reqs.filter fun r => (match r.stage with | .announced _ => true | _ => false) && s.home (r.pieces.headD ⟨0, 0, 0, []⟩).pa == some b
    (s.req id = some q →
      (q.stage = .toBrick → (∃ k, q.op = .est k) ∨ (∃ n o z e l k, q.op = .eld n o z e l k) ∨ (∃ v k, q.op = .ewatch v k) ∨ (∃ o y w v c d m, q.op = .atomic o y w false v c d m) →
        let x := s.translatePieces q.brick q.write q.pieces
        (∀ f, x.fault = some f → ∃ t, exec (.edgeRequestArrival id) s = .next t ∧ t.req id = some { q with stage := .back, fault := some f }) ∧
        (x.fault = none → (q.write = true → ∀ p, p ∈ x.done → x.s.home p.pa ≠ none) →
          ∃ t, exec (.edgeRequestArrival id) s = .next t ∧ t.req id = some { q with stage := .toHome, pieces := x.done })) ∧
      (q.stage = .toBrick → (∃ o y w v c d m, q.op = .atomic o y w true v c d m) →
        let x := s.translatePieces q.brick q.write q.pieces
        (∀ f, x.fault = some f → ∃ t, exec (.edgeRequestArrival id) s = .next t ∧ t.req id = some { q with stage := .back, fault := some f }) ∧
        (x.fault = none → (q.write = true → ∀ p, p ∈ x.done → x.s.home p.pa ≠ none) →
          (full → ∃ t, exec (.edgeRequestArrival id) s = .next t ∧ t.req id = some { q with stage := .unannounced, pieces := x.done }) ∧
          (¬ full → ∃ t, exec (.edgeRequestArrival id) s = .next t ∧
            t.req id = some { q with stage := .announced (s.time / 64), pieces := x.done }))) ∧
      (q.stage = .unannounced → (full → ∃ t, exec (.edgeRequestArrival id) s = .next t ∧ t.req id = some q ∧ s.sameMemory t) ∧
        (¬ full → ∃ t, exec (.edgeRequestArrival id) s = .next t ∧ s.sameMemory t ∧
          t.req id = some { q with stage := .announced (s.time / 64) })) ∧
      (q.stage ≠ .toBrick → q.stage ≠ .unannounced → exec (.edgeRequestArrival id) s = .next s) ∧
      (q.stage = .toHome → q.write = false → (∃ n r u, q.op = .unit n r u) ∨ (∃ n o z e l k, q.op = .eld n o z e l k) →
        ((∀ p, p ∈ q.pieces → s.devRead p.pa p.n ≠ none) → ∃ t, exec (.homeAccess id) s = .next t ∧ s.sameMemory t ∧
          t.req id = some { q with stage := .back, pieces := q.pieces.map fun p => { p with data := (s.devRead p.pa p.n).getD [] } }) ∧
        (∀ pre p post, q.pieces = pre ++ p :: post → (∀ r, r ∈ pre → s.devRead r.pa r.n ≠ none) → s.devRead p.pa p.n = none →
          ∃ t, exec (.homeAccess id) s = .next t ∧ s.sameMemory t ∧
            t.req id = some { q with stage := .back, fault := some (0x1A, 3, BitVec.ofNat 64 p.va) })) ∧
      (∀ k p h, q.stage = .toHome → q.write = true → q.op = .est k → q.pieces = [p] → s.home p.pa = some h → (s.brick h).line p.pa = none →
        s.edgeWf → ∃ t, exec (.homeAccess id) s = .next t ∧ t.req id = some { q with stage := .back } ∧
          (∀ i, i < p.data.length → Memory.get t.edge (p.pa + i) = p.data.getD i 0) ∧
          (∀ x, (x < p.pa ∨ p.pa + p.data.length ≤ x) → Memory.get t.edge x = Memory.get s.edge x) ∧
          (∀ l, t.core l = s.core l) ∧ ∀ l, t.hub l = s.hub l) ∧
      (∀ o sys dbl sc v c d m p ps h bs, q.stage = .toHome → q.op = .atomic o sys dbl sc v c d m → q.pieces = p :: ps →
        let n := if dbl then 8 else 4
        p.pa % n = 0 → (∀ i, i < n → s.home (p.pa + i) = some h) → s.devRead p.pa n = some bs → (s.brick h).lines = [] →
        ∃ t, exec (.homeAccess id) s = .next t ∧ t.req id = some { q with stage := .back, value := BitVec.ofNat 64 (ofBytes bs) } ∧
          t.devRead p.pa n = some (toBytes n (atomNew o dbl (BitVec.ofNat 64 (ofBytes bs)) v c).toNat))) ∧
    ((s.time < 64 * (win + 9) ∨ (∃ r w, r ∈ mine ∧ r.stage = .announced w ∧ w < win) → exec (.windowClose b win) s = .next s) ∧
      (64 * (win + 9) ≤ s.time → (∀ r w, r ∈ mine → r.stage = .announced w → win ≤ w) →
        ∃ order : List EdgeReq, exec (.windowClose b win) s = .next (order.foldl State.performAtomic s) ∧
          (∀ r, r ∈ order ↔ r ∈ mine ∧ r.stage = .announced win) ∧ order.Pairwise fun r z => r.key.1 < z.key.1 ∨ (r.key.1 = z.key.1 ∧ r.key.2 ≤ z.key.2))) ∧
    (∀ l, (s.brick b).line (64 * win) = some l →
      (6 * (s.time - l.last) < 5 * 65536 → exec (.atomicLineWriteback b win) s = .next s) ∧
      (5 * 65536 ≤ 6 * (s.time - l.last) → l.dirty = true → l.data.length = 64 → s.edgeWf →
        ∃ t, exec (.atomicLineWriteback b win) s = .next t ∧
          (∀ i, i < 64 → Memory.get t.edge (64 * win + i) = l.data.getD i 0) ∧
          (∀ x, x < 64 * win ∨ 64 * win + 64 ≤ x → Memory.get t.edge x = Memory.get s.edge x))) ∧
    (∀ port pa len, exec (.hostRead port pa len) s = .next s) ∧
    (∀ port pa (bytes : List Byte), (s.hostPort port = false → exec (.hostWrite port pa bytes) s = .next s) ∧
      (∀ h, s.hostPort port = true → s.home pa = some h → bytes ≠ [] → pa % 64 + bytes.length ≤ 64 → (s.brick h).lines = [] → s.edgeWf →
        ∃ t, exec (.hostWrite port pa bytes) s = .next t ∧ (∀ i, i < bytes.length → Memory.get t.edge (pa + i) = bytes.getD i 0) ∧
          ∀ x, (x < pa ∨ pa + bytes.length ≤ x) → Memory.get t.edge x = Memory.get s.edge x))) ∧
    ∀ (s : State) (id h : Nat) (k : BitVec 6) (q z : EdgeReq) (p : Piece) (w : Watch),
      s.req id = some q → q.stage = .toHome → q.write = true → q.op = .est k → q.pieces = [p] → s.home p.pa = some h →
      (s.brick h).line p.pa = none → p.pa % 64 + p.data.length ≤ 64 → s.edgeWf → w ∈ (s.brick h).watches →
      (∀ u, u ∈ (s.brick h).watches → u.id = w.id → u = w) → w.pa % 8 = 0 → (∀ i, i < 8 → s.home (w.pa + i) = some h) →
      s.req w.id = some z → z.stage = .armed → (∀ j, ((s.core z.core).strand j).run ≠ .waiting) →
      let word := ofBytes ((List.range 8).map fun i =>
        if p.pa ≤ w.pa + i ∧ w.pa + i < p.pa + p.data.length then p.data.getD (w.pa + i - p.pa) 0 else Memory.get s.edge (w.pa + i))
      let fires := w.pa < p.pa + p.data.length ∧ p.pa < w.pa + 8 ∧ word ≠ w.cmp.toNat
      (fires → ∃ t, exec (.homeAccess id) s = .next t ∧ (t.core z.core).tag w.tag = ⟨.set, .none, false, 0, 0, 0⟩ ∧
        w ∉ (t.brick h).watches ∧ ∀ r, r ∈ t.reqs → r.id ≠ w.id) ∧
      (¬ fires → ∃ t, exec (.homeAccess id) s = .next t ∧ w ∈ (t.brick h).watches ∧ t.req w.id = some z)

/-- CATOM at an aligned address sends its operation with operands (compare and new value for CAS) and holds the strand; a
misaligned one stops it on MISAL. CJOIN sends the arrival, or with .rel and incomplete edge requests keeps it with the list it
waits for; CJOIN_REL_SEND sends every held arrival whose list is empty, in order, and an acquiring one then waits for its count;
g[d] is pending, with .acq the strand waits, else it passes. CJOIN.CFG holds the strand; CJQ and MONRD await g[d]; MONSET
passes, or stops on MONX for an illegal word. A reply with an acknowledgement ends the hold with g[d] (or P(d)) written; a value
alone is written to an awaited g[d]; a fault stops the strand at the instruction it left; a CJOIN's generation is written and
its acquiring strand waits for the fire; a fire releases exactly the unfrozen strands waiting for that generation, ready from
the next core cycle that begins; a hub's freeze freezes the core. An answer to a request that had been sent once more is noted.
(Where the spec leaves a choice: log entries 9 and 25.) [11_ordering_atomics.md R309; 11_ordering_atomics.md R310;
11_ordering_atomics.md R312; 11_ordering_atomics.md R313; 11_ordering_atomics.md R314; 13_power_time.md R352; 14_system_traps.md
R361] -/
def Obligations.HubInstructions : Prop :=
  ∀ (s : State) (d a o : BitVec 4) (w q r : BitVec 1) (j : BitVec 5) (m : BitVec 2) (sel : BitVec 5),
    let sends := fun (i : Instr) (op : HubOp) (P : Strand → Prop) => ∃ t, exec i s = .next t ∧ t.hubReqs = s.hubReqs ++ [⟨s.cur, s.slot, op⟩] ∧
      s.strandOnly ({ t with hubReqs := s.hubReqs } : State) ∧ P t.st
    let awaits := fun (y : Strand) => s.st.passed y ∧ y.pend = s.st.pend ++ [⟨.g d, none, false⟩] ∧ s.st.sameButPend y
    let p := (s.g a).toNat % 65536
    let val := fun (x : BitVec 4) => if w = 1 then s.p x else (s.g x).zeroExtend 64
    let new := val (d + if w = 1 then 2 else 1)
    let ids := s.st.edgeIds
    let v := s.g a
    let badMon := 5 ≤ v.toNat % 8 ∨ v.toNat / 2 ^ 17 ≠ 0 ∨ (v.getLsbD 10 = true ∧ v.toNat / 8 % 128 ≠ 0) ∨ (v.toNat % 8 ≠ 1 ∧ v.toNat / 2048 % 64 ≠ 0)
    (p % (if w = 1 then 8 else 4) = 0 → sends (.catom d a o w)
      (if o = 7 then .catom o (w == 1) (BitVec.ofNat 16 p) new (val d) d else .catom o (w == 1) (BitVec.ofNat 16 p) (val d) 0 d)
      fun y => s.st.left y ∧ y = { s.st with hold := .atomic, pc := y.pc, fill := y.fill, here := y.here }) ∧
    (p % (if w = 1 then 8 else 4) ≠ 0 → ∃ t, exec (.catom d a o w) s = .next t ∧
      s.stopsOn t ⟨0x08, BitVec.ofNat 16 p ++ (if w = 1 then 3#16 else 2#16), 0⟩) ∧
    (r = 0 ∨ ids = [] → (q = 0 → sends (.cjoin d 0 r j) (.join j d false) awaits) ∧
      (q = 1 → sends (.cjoin d 1 r j) (.join j d true) fun y => s.st.left y ∧ y.pend = s.st.pend ++ [⟨.g d, none, false⟩] ∧
        y = { s.st with run := .waiting, wait := .cjoinCount j d false, waitFrom := s.time, pend := y.pend, pc := y.pc, fill := y.fill, here := y.here })) ∧
    (ids ≠ [] → (∃ t, exec (.cjoin d 0 1 j) s = .next t ∧ s.strandOnly t ∧ s.st.passed t.st ∧ t.st.rel = s.st.rel ++ [⟨j, d, false, ids⟩] ∧
        t.st.pend = s.st.pend ++ [⟨.g d, none, false⟩] ∧ t.st.g = s.st.g) ∧
      (s.heldFault s.cur ids = none → ∃ t, exec (.cjoin d 1 1 j) s = .next t ∧ s.strandOnly t ∧ t.st.rel = s.st.rel ++ [⟨j, d, true, ids⟩] ∧
        s.st.left t.st ∧
        t.st = { s.st with
          run := .waiting, wait := .cjoinCount j d true, waitFrom := s.time, rel := t.st.rel, pend := t.st.pend, pc := t.st.pc,
          fill := t.st.fill, here := t.st.here } ∧
        t.st.pend = s.st.pend ++ [⟨.g d, none, false⟩]) ∧
      ∀ f, s.heldFault s.cur ids = some f → ∃ t, exec (.cjoin d 1 1 j) s = .next t ∧ s.stopsOn t f) ∧
    (let ready := s.st.rel.filter fun x => x.ids.isEmpty
     ∃ t, exec (.cjoinRelSend s.cur s.slot.toNat) s = .next t ∧
       t.hubReqs = s.hubReqs ++ (ready.map fun x => ⟨s.cur, s.slot, .join x.j x.d x.acq⟩) ∧
       s.strandOnly ({ t with hubReqs := s.hubReqs } : State) ∧
       t.st = { s.st with rel := s.st.rel.filter fun x => !x.ids.isEmpty, wait := t.st.wait } ∧
       ((∀ x, x ∈ ready → x.acq = false) → t.st.wait = s.st.wait) ∧
       ∀ pre x post, ready = pre ++ x :: post → x.acq = true → (∀ y, y ∈ post → y.acq = false) →
         t.st.wait = .cjoinCount x.j x.d false) ∧
    (sends (.cjoinCfg a j) (.cfg j v) fun y => s.st.left y ∧ y = { s.st with hold := .hubAck, pc := y.pc, fill := y.fill, here := y.here }) ∧
    (sends (.cjq d j) (.query j d) awaits) ∧ (sends (.monrd d sel m) (.monrd m sel d) awaits) ∧
    (¬ badMon → sends (.monset a m) (.monset m v) fun y => s.st.passed y ∧ y.pend = s.st.pend ∧ s.st.sameButPend y) ∧
    (badMon → ∃ t, exec (.monset a m) s = .next t ∧ s.stopsOn t ⟨0x1E, v, 0⟩) ∧
    ∀ (l : Nat) (k : BitVec 3) (rep : HubRep) (rest : List (Nat × BitVec 3 × HubRep)), s.hubReps = (l, k, rep) :: rest →
      let c := s.core l
      let x := c.strand k
      let retried := if l ∈ s.mgmt.resent then
        { s.mgmt with resent := s.mgmt.resent.erase l, recovered := s.mgmt.recovered ++ [(siteIx (s.mgmt.site l), 4)] } else s.mgmt
      let arrives := fun (P : Strand → Prop) => ∃ y, exec (.hubReplyArrival l) s =
        .next (({ s with hubReps := rest, mgmt := retried } : State).setCore l (c.setStrand k y)) ∧ P y
      (∀ z, rep = .value d false z true → arrives fun y => y.pc = x.pc ∧ y.fill = x.fill ∧ y.hold = .none ∧ y.getG d = (if d = 0 then 0 else z.truncate 32) ∧
        (∀ i, i ≠ d → y.getG i = x.getG i) ∧ y.pend = x.pend ++ [⟨.g d, some (c.nextCycle + 1), false⟩]) ∧
      (∀ z, rep = .value d true z true → d.toNat % 2 = 0 → arrives fun y => y.pc = x.pc ∧ y.fill = x.fill ∧ y.hold = .none ∧
        y.getG d = (if d = 0 then 0 else z.truncate 32) ∧ y.getG (d + 1) = (z >>> 32).truncate 32 ∧ ∀ i, i ≠ d → i ≠ d + 1 → y.getG i = x.getG i) ∧
      (∀ z, rep = .value d false z false → (⟨.g d, none, false⟩ : Pend) ∈ x.pend → arrives fun y => y.getG d = (if d = 0 then 0 else z.truncate 32) ∧
        (∀ i, i ≠ d → y.getG i = x.getG i) ∧ y = { x with g := y.g, pend := y.pend } ∧ ∀ e, e ∈ y.pend → e.reg = .g d → e.due ≠ none) ∧
      (rep = .ack → arrives fun y => y.pc = x.pc ∧ y.fill = x.fill ∧ y.hold = .none ∧ y.g = x.g) ∧
      (∀ cause info, rep = .fault cause info → arrives fun y => y.run = .stopped ∧ y.frame.cause = cause ∧ y.frame.einfo = info ∧ y.frame.epc = x.here.epc ∧
        y.pc = x.here.epc ∧ y.g = x.g) ∧
      (∀ gen, rep = .joined j d gen true → x.run = .waiting → x.wait = .cjoinCount j d false → arrives fun y => y.run = .waiting ∧ y.wait = .cjoinFire j gen ∧
        y.g = (x.answer d (gen.zeroExtend 32) (c.nextCycle + 1)).g) ∧
      (∀ gen, rep = .joined j d gen false → arrives fun y => y = x.answer d (gen.zeroExtend 32) (c.nextCycle + 1)) ∧
      (∀ gen, rep = .fire j gen → ∃ t, exec (.joinFire l j.toNat) s = .next t ∧ t.hubReps = rest ∧ s.sameMemory t ∧
        ∀ i, (t.core l).strand i = if (c.strand i).run = .waiting ∧ (c.strand i).wait = .cjoinFire j gen ∧ (c.strand i).frozen = false
          then (c.strand i).awake c.nextCycle else c.strand i) ∧
      (rep = .freeze → exec (.hubReplyArrival l) s = .next (({ s with hubReps := rest } : State).setCore l { c with frozen := true }))

/-- CATOM_PERFORM writes exactly the operation's result and replies with the old value; an uncorrectable word is a MEMUE reply
with nothing written. JOIN_ARRIVAL counts an arrival and replies the next generation; the N-th makes the count 0, moves the
generation on and sends a fire to exactly the hub's cores with a strand waiting for the join. HUB_REQUEST_ARRIVAL configures an
idle join (JOINX 1 for a bad N, 2 for a busy one), answers queries and monitor reads, sets a monitor anew, and accesses a hub
CSR. FAULT_OFFER numbers and buffers a record while fewer than 16 stand, else counts the refusal and sets OVF. FAULT_REOFFER
offers each stopped strand's waiting record and the oldest asynchronous one, under a number that the answer names.
FAULT_RECORD_WRITE moves the oldest buffered record to its queue unless that is full; FQHEAD_WRITE sets a queue's head. (Where
the spec leaves a choice: log entries 25 and 32.) [11_ordering_atomics.md R310; 11_ordering_atomics.md R312;
11_ordering_atomics.md R314; 13_power_time.md R352; 14_system_traps.md R361; 14_system_traps.md R362; 14_system_traps.md R363;
14_system_traps.md R376] -/
def Obligations.HubActions : Prop :=
  ∀ (s : State) (h : Nat) (q : HubReq) (rest : List HubReq),
    let u := s.hub h
    let replied := fun (t : State) (r : HubRep) => t.hubReqs = rest ∧ t.hubReps = s.hubReps ++ [(q.core, q.slot, r)]
    let hubIs := fun (t : State) (v : Hub) => t.hub h = v ∧ (∀ i, i ≠ h → t.hub i = s.hub i) ∧ ∀ l, t.core l = s.core l
    (s.hubReqs = q :: rest → hubOf q.core = h →
      (∀ o dbl addr v c d, q.op = .catom o dbl addr v c d →
        let n := if dbl then 8 else 4
        let old : Dword := BitVec.ofNat 64 (ofBytes (Memory.bytes u.sram addr.toNat n))
        ((∀ e, e ∈ u.ue → e / 8 ≠ addr.toNat / 8) → Memory.wf u.sram = true → ∃ t, exec (.catomPerform h) s = .next t ∧
          replied t (.value d dbl old true) ∧ hubIs t { u with sram := (t.hub h).sram } ∧
          Memory.bytes (t.hub h).sram addr.toNat n = toBytes n (atomNew o dbl old v c).toNat ∧
          ∀ x, ¬ inSpan addr.toNat n x → Memory.get (t.hub h).sram x = Memory.get u.sram x) ∧
        ((∃ e, e ∈ u.ue ∧ e / 8 = addr.toNat / 8) → ∃ t, exec (.catomPerform h) s = .next t ∧
          replied t (.fault 0x0D (BitVec.ofNat 32 (addr.toNat * 65536 + 1))) ∧ hubIs t u)) ∧
      (∀ j d acq, q.op = .join j d acq →
        let x := rd u.joins j
        (x.count.toNat + 1 < x.n.toNat → ∃ t, exec (.joinArrival h) s = .next t ∧ replied t (.joined j d (x.gen + 1) acq) ∧
          hubIs t { u with joins := wr u.joins j { x with count := x.count + 1, wait := x.wait || acq } }) ∧
        (x.n.toNat ≤ x.count.toNat + 1 → ∃ t fires, exec (.joinArrival h) s = .next t ∧ t.hubReqs = rest ∧
          t.hubReps = s.hubReps ++ (q.core, q.slot, .joined j d (x.gen + 1) acq) :: fires ∧
          (∀ f, f ∈ fires ↔ ∃ l, f = (l, 0, .fire j (x.gen + 1)) ∧ l ∈ hubCores h ∧ ∃ k, ((s.core l).strand k).waitsJoin j = true) ∧
          hubIs t { u with joins := wr u.joins j { x with count := 0, gen := x.gen + 1, wait := false } })) ∧
      (∀ j n, q.op = .cfg j n →
        let x := rd u.joins j
        (n.toNat ≠ 0 → n.toNat ≤ 1024 → x.count = 0 → x.wait = false → ∃ t, exec (.hubRequestArrival h) s = .next t ∧ replied t .ack ∧
          hubIs t { u with joins := wr u.joins j { x with n := n.truncate 11 } }) ∧
        ((n.toNat = 0 ∨ 1024 < n.toNat) → ∃ t, exec (.hubRequestArrival h) s = .next t ∧
          replied t (.fault 0x1C (BitVec.ofNat 32 (1 + 16 * j.toNat))) ∧ hubIs t u) ∧
        (n.toNat ≠ 0 → n.toNat ≤ 1024 → (x.count ≠ 0 ∨ x.wait = true) → ∃ t, exec (.hubRequestArrival h) s = .next t ∧
          replied t (.fault 0x1C (BitVec.ofNat 32 (2 + 16 * j.toNat))) ∧ hubIs t u)) ∧
      (∀ j d, q.op = .query j d → ∃ t, exec (.hubRequestArrival h) s = .next t ∧ hubIs t u ∧
        replied t (.value d false ((rd u.joins j).word.zeroExtend 64) false)) ∧
      (∀ m v, q.op = .monset m v → ∃ t, exec (.hubRequestArrival h) s = .next t ∧ t.hubReqs = rest ∧ t.hubReps = s.hubReps ∧
        hubIs t { u with monitors := wr u.monitors m { Monitor.reset with cfg := v } }) ∧
      (∀ m sel d, q.op = .monrd m sel d → ∃ t, exec (.hubRequestArrival h) s = .next t ∧ hubIs t u ∧
        replied t (.value d false (((rd u.monitors m).read sel).zeroExtend 64) false)) ∧
      (∀ op n d v, q.op = .csr op n d v → ∃ t, exec (.hubRequestArrival h) s = .next t ∧
        hubIs t (if op = 0 then u else u.setCsr op n v) ∧
        replied t (.value d false (((if op = 0 then u else u.setCsr op n v).csr n).zeroExtend 64) (op != 0))) ∧
      (∀ r stopped no, q.op = .offer r stopped no →
        (u.buf.length < 16 → ∃ t, exec (.faultOffer h) s = .next t ∧ replied t (.offer true stopped no) ∧
          (t.hub h).buf = u.buf ++ [r.withSeq (s.core q.core).recSeq] ∧ (t.core q.core).recSeq = (s.core q.core).recSeq + 1 ∧ s.sameMemory t) ∧
        (16 ≤ u.buf.length → ∃ t, exec (.faultOffer h) s = .next t ∧ replied t (.offer false stopped no) ∧
          hubIs t { u with refused := if u.refused = 0xFFFF then 0xFFFF else u.refused + 1, ovf := true }))) ∧
    (∀ l, (s.core l).quiescent = false → ∃ t, exec (.faultReoffer l) s = .next t ∧ s.sameMemory t ∧
      (∀ k, let x := (s.core l).strand k
        let due := x.offer = true ∧ x.offered = 0 ∧ x.notBefore ≤ (s.core l).cc
        let r := x.fault.getD (mkRec (s.coreSource l) x.frame false k.toNat s.time)
        (¬ due → (t.core l).strand k = x) ∧
        (due → ∃ no, s.nextId ≤ no ∧ (t.core l).strand k = { x with offered := no, fault := some r } ∧ ⟨l, k, .offer r true no⟩ ∈ t.hubReqs)) ∧
      ∀ r more, (s.core l).reports = r :: more → (s.core l).offers = 0 → (∀ n, (s.core l).reofferAt = some n → n ≤ (s.core l).cc) →
        ∃ no, s.nextId ≤ no ∧ (t.core l).offers = no ∧ (t.core l).reports = r :: more ∧ ⟨l, 0, .offer r false no⟩ ∈ t.hubReqs) ∧
    (∀ r more, h < 8192 → u.buf = r :: more →
      ((s.mgmt.queueOf r.part).full = true → exec (.faultRecordWrite h) s = .next s) ∧
      ((s.mgmt.queueOf r.part).full = false → ∃ t, exec (.faultRecordWrite h) s = .next t ∧ (t.hub h).buf = more ∧
        t.mgmt.faultQs = (s.mgmt.setQueue r.part (s.mgmt.queueOf r.part).push).faultQs ∧
        t.mgmt.mgq = (s.mgmt.setQueue r.part (s.mgmt.queueOf r.part).push).mgq)) ∧
    (∀ (p v : Nat), (64 ≤ p → exec (.fqheadWrite p v) s = .next s) ∧ (p < 64 → ∃ t, exec (.fqheadWrite p v) s = .next t ∧
      (rd t.mgmt.faultQs (BitVec.ofNat 6 p)).q = { (rd s.mgmt.faultQs (BitVec.ofNat 6 p)).q with head := BitVec.ofNat 64 (v % 2 ^ 32) } ∧
      t = { s with mgmt := { s.mgmt with faultQs := t.mgmt.faultQs } }))

/-- COLL of a legal aligned block whose buffers the PLB admits and whose tag is free completes: the tag is busy, the core's
count of the group and local rank is one more, and a collective of that group and number holds the participant. A misaligned
block stops it on MISAL, an illegal one on COLLX 1, a tag that is not free on TAGBSY; a second participant with its local rank
passes and its tag faults on COLLX 3. COLL.R on a tag faulted by EPF or EUE makes it busy and lets the held sequencers go on;
COLL.X begins the abort of a collective that is live or has failed otherwise than by an abort; otherwise both only pass. COLLW
writes 1 for a tag that is idle or of another operation, writes 0 and frees a set tag, raises a faulted one, and waits on a busy
one. COLLQ writes 0 where the tag holds no collective, with selector 1 the collective's number, and changes nothing else. (Where
the spec leaves a choice: log entries 25 and 26.) [12_collectives.md R318; 12_collectives.md R326; 12_collectives.md R328;
12_collectives.md R329; 06_local_memory.md R146; 06_local_memory.md R147] -/
def Obligations.CollectiveInstructions : Prop :=
  ∀ (s : State) (a d : BitVec 4) (k : BitVec 6) (sel : BitVec 2),
    let p := (s.g a).toNat % 65536
    let w := s.me.load p 128
    let q := collPart s.cur s.me.part s.slot w
    let grp := w / 2 ^ 16 % 256
    let e := s.mgmt.group grp
    let ranks := e.toNat % 4096 * (e.toNat / 2 ^ 24 % 64)
    let send := q.op ≠ 3 ∨ e.toNat / 2 ^ 12 % 4096 * (e.toNat / 2 ^ 24 % 64) + q.lidx = q.root
    let key := grp * 64 + q.lidx
    let n := lookup 0 s.me.collCount key
    let legal := p % 8 = 0 ∧ s.me.readFault p 128 = none ∧ badBlock w q e = false ∧
      (send → s.me.plbCheck 0 (q.ranges q.send q.sside (q.elements ranks).1) = none) ∧
      s.me.plbCheck 1 (q.ranges q.recv q.rside (q.elements ranks).2) = none
    let t0 := s.me.tag k
    (legal → s.me.tagFree q.tag = true →
      (∀ c, c ∈ s.colls → c.group = grp → c.n = n → c.st ≠ .failed ∧ ∀ z, z ∈ c.parts → z.lidx ≠ q.lidx) →
      ∃ t, exec (.coll a) s = .next t ∧ s.st.passed t.st ∧ s.st.sameButPend t.st ∧ t.st.pend = s.st.pend ∧ s.otherStrandsSame t ∧
        s.sameMemory t ∧ t.me.tag q.tag = ⟨.busy, .coll, true, 0, 0, 0⟩ ∧ (∀ j, j ≠ q.tag → t.me.tag j = s.me.tag j) ∧
        lookup 0 t.me.collCount key = n + 1 ∧ ∃ c, c ∈ t.colls ∧ c.group = grp ∧ c.n = n ∧ q ∈ c.parts) ∧
    (∀ c, legal → s.me.tagFree q.tag = true → s.cur < nobody → (∀ j, (s.me.strand j).run ≠ .waiting) → s.colls = [c] → c.group = grp → c.n = n →
      c.st = .matching → (∀ z, z ∈ c.parts → z.core ≠ nobody ∧ ¬ (z.core = s.cur ∧ z.tag = q.tag)) → (∃ z, z ∈ c.parts ∧ z.lidx = q.lidx) → ∃ t, exec (.coll a) s = .next t ∧ s.st.passed t.st ∧ s.sameMemory t ∧
        (t.me.tag q.tag).st = .faulted ∧ (t.me.tag q.tag).cause = 0x1D ∧ (t.me.tag q.tag).einfo = 3) ∧
    (legal → s.me.tagFree q.tag = false → ∃ t, exec (.coll a) s = .next t ∧ s.stopsOn t ⟨0x0C, q.tag.zeroExtend 32, 0⟩) ∧
    (p % 8 ≠ 0 → ∃ t, exec (.coll a) s = .next t ∧ s.stopsOn t ⟨0x08, BitVec.ofNat 16 p ++ 3#16, 0⟩) ∧
    (p % 8 = 0 → s.me.readFault p 128 = none → badBlock w q e = true → ∃ t, exec (.coll a) s = .next t ∧ s.stopsOn t ⟨0x1D, 1, 0⟩) ∧
    (∀ c, s.collOf s.cur k = some c →
      (t0.st = .faulted → (t0.cause = 0x19 ∨ t0.cause = 0x1A) → ∃ t, exec (.collR k) s = .next t ∧ s.st.passed t.st ∧ s.sameMemory t ∧
        t.me.tag k = { t0 with st := .busy, live := true, cause := 0, einfo := 0, eaddr := 0 } ∧
        ∀ z, z ∈ t.colls → z.id = c.id → ∀ b, b ∈ z.bricks → b.halted ≠ some (s.cur, k)) ∧
      (¬ (t0.st = .faulted ∧ (t0.cause = 0x19 ∨ t0.cause = 0x1A)) → ∃ t, exec (.collR k) s = .next t ∧ s.passesOnly t) ∧
      (¬ (c.st = .failed ∧ c.sub = 4) → c.st ≠ .complete → t0.st ≠ .set → ∃ t, exec (.collX k) s = .next t ∧ s.st.passed t.st ∧ s.sameMemory t ∧
        ∀ z, z ∈ t.colls → z.id = c.id → z.st = .aborting) ∧
      ((c.st = .failed ∧ c.sub = 4) ∨ c.st = .complete ∨ t0.st = .set → ∃ t, exec (.collX k) s = .next t ∧ s.passesOnly t) ∧
      ∃ t, exec (.collq d 1 k) s = .next t ∧ s.writesG t d (BitVec.ofNat 32 c.n) 2) ∧
    (s.collOf s.cur k = none → (∃ t, exec (.collR k) s = .next t ∧ s.passesOnly t) ∧ (∃ t, exec (.collX k) s = .next t ∧ s.passesOnly t) ∧
      ∃ t, exec (.collq d sel k) s = .next t ∧ s.writesG t d 0 2) ∧
    (∃ t, exec (.collq d sel k) s = .next t ∧ s.writesG t d (s.collWord k sel) 2) ∧
    (t0.st = .idle ∨ t0.holder ≠ .coll → ∃ t, exec (.collw d k) s = .next t ∧ s.writesG t d 1 1) ∧
    (s.st.frozen = false → t0.holder = .coll →
      (t0.st = .set → ∃ t, exec (.collw d k) s = .next t ∧ s.holdsG t d 0 ∧ s.pends t (.g d) 1 ∧ s.goesOn t ∧
        t.me.tag k = Tag.reset ∧ (∀ j, j ≠ k → t.me.tag j = s.me.tag j) ∧ s.sameMemory t ∧ s.otherStrandsSame t) ∧
      (t0.st = .faulted → ∃ t, exec (.collw d k) s = .next t ∧ s.stopsOn t ⟨t0.cause, t0.einfo, t0.eaddr⟩) ∧
      (t0.st = .busy → ∃ t, exec (.collw d k) s = .next t ∧ s.waitsFor t (.collw d k)))

/-- Where no strand of the module waits and no neighbouring module has told of a failure: COLL_MATCH does nothing until every
local rank has come; then a collective of one module with agreeing parameters begins on 32 bricks with nothing read, sent,
received or written, in a slot that no matched, running or aborting one has, and waits for a slot where all 8 are taken; one of
several modules whose ports are up takes such a slot and sends a match flit on every one of them, and begins once a right one
has come on each; disagreeing parameters fail it with COLLX 2, a set of ports all down with COLLX 5, and a wrong match flit with
its subcode. COLL_CHUNK_STEP of a sequencer that is held, or of one module with nothing left, does nothing; on one module it
writes the next chunk of one group once that is read, else reads the next one into the partials, and holds the brick, with the
participant's tag faulted, at a buffer's fault; between modules it sends the next complete chunk of one flit on the SUCC port,
with the groups' partials, the flit's number in the payload's last two bytes and Table 12.5's STREAM, and joins one received on
the PRED port. COLL_COMPLETE once every brick is done sets the tags of the core's participants, the collective being complete
with the last. COLL_ABORT_DONE fails an aborted one with COLLX 4. (Where the spec leaves a choice: log entries 25, 26 and 48.)
[12_collectives.md R317; 12_collectives.md R318; 12_collectives.md R322; 12_collectives.md R323; 12_collectives.md R324;
12_collectives.md R326; 12_collectives.md Table 12.3; 12_collectives.md Table 12.4; 12_collectives.md Table 12.5] -/
def Obligations.CollectiveProgress : Prop :=
  ∀ (s : State) (c : Coll) (b : Nat) (k : CollBrick), (∀ l j, ((s.core l).strand j).run ≠ .waiting) → s.coll c.id = some c →
    (∀ b p f, f ∈ (s.port b p).got → f.type = 5 → f.failure = 0) →
    let noneEarlier := ∀ x, x ∈ s.colls → x.group = c.group → x.n < c.n ∨ (x.n = c.n ∧ x.id < c.id) → x.st ≠ .matching ∧ x.st ≠ .matched ∧ x.st ≠ .waiting
    let all := c.localN ≤ c.parts.length
    let agreed := ∀ p, p ∈ c.parts → p.agrees c.lead = true
    let busy := s.colls.filter fun x => x.st == .matched || x.st == .running || x.st == .aborting
    let full := ∀ i, i < 8 → ∃ x, x ∈ busy ∧ x.slot = i
    let fresh := c.st = .matching ∨ c.st = .waiting
    let idle := (List.range 32).map fun b => (⟨b, 0, 0, 0, 0, 0, 0, 0, [], none⟩ : CollBrick)
    let begins := fun (t : State) => ∃ z, t.coll c.id = some z ∧ z.parts = c.parts ∧
      (¬ full → z.st = .running ∧ z.slot < 8 ∧ (∀ x, x ∈ busy → x.slot ≠ z.slot) ∧ z.bricks = idle) ∧ (full → z.st = .waiting)
    let failed := fun (t : State) (sub : Word) => (∃ z, t.coll c.id = some z ∧ z.st = .failed ∧ z.bricks = []) ∧
      ∀ p, p ∈ c.parts → p.core < nobody → p.done = false → ((s.core p.core).tag p.tag).holder = .coll →
        ((t.core p.core).tag p.tag).st = .faulted ∧ ((t.core p.core).tag p.tag).cause = 0x1D ∧
        ((t.core p.core).tag p.tag).einfo = sub ∧ ((t.core p.core).tag p.tag).live = false
    let brickIs := fun (t : State) (y : CollBrick) => ∃ z, t.coll c.id = some z ∧ z.bricks.find? (fun x => x.brick == b) = some y
    let chunks := fun (rs : List (Nat × Nat)) => (groupCount rs + c.per - 1) / c.per
    let rs := c.readRanges b
    let ws := c.writeRanges b
    let writable := k.write < chunks ws ∧ k.ready (chunkGroups ws c.per k.write) (c.gsize - 1) = true
    let step := exec (.collChunkStep c.id b) s
    (c.parts.length < c.localN → exec (.collMatch c.id) s = .next s) ∧
    (all → noneEarlier → fresh → c.gsize ≤ 1 → agreed →
      ∃ t, exec (.collMatch c.id) s = .next t ∧ begins t ∧ s.sameMemory t) ∧
    (all → noneEarlier → fresh → (∃ p, p ∈ c.parts ∧ p.agrees c.lead = false) →
      ∃ t, exec (.collMatch c.id) s = .next t ∧ failed t 2) ∧
    (all → noneEarlier → fresh → agreed → 1 < c.gsize →
      ((∃ b, b < 32 ∧ (s.allDown b c.succ = true ∨ s.allDown b c.pred = true)) → ∃ t, exec (.collMatch c.id) s = .next t ∧ failed t 5) ∧
      ((∀ b, b < 32 → s.upPorts b c.succ ≠ [] ∧ s.upPorts b c.pred ≠ []) → full → ∃ t z, exec (.collMatch c.id) s = .next t ∧
        s.sameMemory t ∧ t.coll c.id = some z ∧ z.st = .waiting ∧ z.parts = c.parts) ∧
      ((∀ b, b < 32 → s.upPorts b c.succ ≠ [] ∧ s.upPorts b c.pred ≠ []) → ¬ full → ∃ t, exec (.collMatch c.id) s = .next t ∧ s.sameMemory t ∧
        (∃ z, t.coll c.id = some z ∧ z.st = .matched ∧ z.parts = c.parts ∧ z.slot < 8 ∧ ∀ x, x ∈ busy → x.slot ≠ z.slot) ∧
        ∀ b p, b < 32 → p ∈ s.upPorts b (c.succ ||| c.pred) → ∃ f, (t.port b p).wire = (s.port b p).wire ++ [f] ∧ f.type = 5 ∧
          f.payload.take 10 = toBytes 1 c.group ++ toBytes 2 c.gsize ++ toBytes 1 c.localN ++ toBytes 2 c.mrank ++ toBytes 4 c.n)) ∧
    (all → noneEarlier → c.st = .matched →
      let has := fun (P : Nat → Prop) (b p : Nat) => ∃ f, (s.port b p).matchOf c.group = some f ∧ P (c.mismatch f p)
      ((∃ b p, b < 32 ∧ p ∈ s.upPorts b (c.succ ||| c.pred) ∧ (s.port b p).matchOf c.group = none) → exec (.collMatch c.id) s = .next s) ∧
      ((∀ b p, b < 32 → p ∈ s.upPorts b (c.succ ||| c.pred) → has (· = 0) b p) → ∃ t z, exec (.collMatch c.id) s = .next t ∧ s.sameMemory t ∧
        t.coll c.id = some z ∧ z.st = .running ∧ z.parts = c.parts ∧ z.slot = c.slot ∧ z.bricks = idle) ∧
      ∀ v, v ≠ 0 → (∀ b p, b < 32 → p ∈ s.upPorts b (c.succ ||| c.pred) → has (fun m => m = 0 ∨ m = v) b p) →
        (∃ b p, b < 32 ∧ p ∈ s.upPorts b (c.succ ||| c.pred) ∧ has (· = v) b p) →
        ∃ t, exec (.collMatch c.id) s = .next t ∧ failed t (BitVec.ofNat 32 v)) ∧
    (c.st = .running → c.bricks.find? (fun x => x.brick == b) = some k →
      (k.halted ≠ none → step = .next s) ∧
      (k.halted = none → c.gsize ≤ 1 →
        (¬ writable → chunks rs ≤ k.read → step = .next s) ∧
        (∀ g s', writable → chunkGroups ws c.per k.write = [g] → s.deliverGroup c b g (lookup (0, []) k.partials g).2 = (s', none) →
          s'.colls = s.colls → ∃ t, step = .next t ∧ brickIs t { k with write := k.write + 1 } ∧ s'.sameMemory t) ∧
        (∀ g, ¬ writable → k.read < chunks rs → chunkGroups rs c.per k.read = [g] →
          (∀ s' bs, s.reduceGroup c b g = (s', .ok bs) → s'.colls = s.colls → ∃ t, step = .next t ∧ s'.sameMemory t ∧
            brickIs t { k with partials := insert g (0, bs) k.partials, read := k.read + 1 }) ∧
          ∀ s' p f, s.reduceGroup c b g = (s', .error (p, f)) → s'.colls = s.colls → (∀ l j, ((s'.core l).strand j).run ≠ .waiting) →
            p.core < nobody → ((s'.core p.core).tag p.tag).holder = .coll → ∃ t, step = .next t ∧ brickIs t { k with halted := some (p.core, p.tag) } ∧
            ((t.core p.core).tag p.tag).st = .faulted ∧ ((t.core p.core).tag p.tag).cause = f.1)) ∧
      (∀ ph r gs p, k.halted = none → b < 32 → p < 6 → s.allDown b c.succ = false →
        s.allDown b c.pred = false → gs ≠ [] → c.flits gs = 1 →
        (c.toSend k = some (ph, r, gs) → k.sFlit = 0 → k.ready gs (if ph = 2 then r - 1 else c.gsize - 1) = true → s.upPorts b c.succ = [p] →
          (s.port b p).replayBuf.length < 512 → ∃ t, step = .next t ∧ s.sameMemory t ∧ brickIs t { k with sChunk := k.sChunk + 1, sFlit := 0 } ∧
            ∃ f, (t.port b p).wire = (s.port b p).wire ++ [f] ∧ f.type = 1 ∧ f.seq = (s.port b p).sendSeq ∧
              f.stream = BitVec.ofNat 32 (k.sChunk % 2 ^ 13 + 2 ^ 13 * (r % 2 ^ 12) + 2 ^ 25 * (ph % 4) + 2 ^ 27 * c.slot) ∧
              f.payload = ((((gs.take c.perFlit).map fun g => (lookup (0, []) k.partials g).2).flatten ++ List.replicate 238 0).take 238) ++ [0, 0]) ∧
        (∀ f rest, c.toSend k = none → c.toRecv k = some (ph, r, gs) → (ph = 2 → k.ready gs 0 = true) →
          c.pred.getLsbD p = true → (∀ q, q < 6 → c.pred.getLsbD q = true → q = p) → (s.port b p).got = f :: rest → f.type = 1 → f.index = 0 →
          f.stream = BitVec.ofNat 32 (k.rChunk % 2 ^ 13 + 2 ^ 13 * (r % 2 ^ 12) + 2 ^ 25 * (ph % 4) + 2 ^ 27 * c.peer) →
          (∀ g, g ∈ rest → g.type ≠ 1 ∨ g.stream ≠ f.stream) →
          ∃ t, step = .next t ∧ s.sameMemory t ∧ brickIs t (c.absorb k ph r gs [f.payload]) ∧ (t.port b p).got = rest))) ∧
    (∀ l, c.st = .running → l < nobody → (∀ x, x ∈ c.bricks → c.brickDone x = true) → ∃ t z, exec (.collComplete c.id l) s = .next t ∧
      t.coll c.id = some z ∧ s.sameMemory t ∧
      (∀ p, p ∈ c.parts → p.core = l → p.done = false → ((s.core l).tag p.tag).holder = .coll → (t.core l).tag p.tag = ⟨.set, .coll, false, 0, 0, 0⟩) ∧
      (∀ p, p ∈ z.parts → p.core = l → p.done = true) ∧ ((∀ p, p ∈ c.parts → p.core = l ∨ p.done = true) → z.st = .complete)) ∧
    (∀ l, (c.st ≠ .running ∨ ∃ x, x ∈ c.bricks ∧ c.brickDone x = false) → exec (.collComplete c.id l) s = .next s) ∧
    (c.st = .aborting → ∃ t, exec (.collAbortDone c.id) s = .next t ∧ failed t 4 ∧ s.sameMemory t) ∧
    (c.st ≠ .aborting → exec (.collAbortDone c.id) s = .next s)

/-- On a port that is up a received flit of 256 bytes with a right CRC acts by its type: data with the next SEQ is delivered
once and acknowledged, other data is answered with a NAK; an ACK drops the flits it covers from the replay buffer, a NAK also
sends the rest again; a wrong CRC or length counts in NLCRC and sends a NAK. What the forward error correction saw of it, given
behind its bytes, is noted in FECC, FECU and NLCORR. The replay timeout, 2,000 ticks after a flit's last send, sends the whole
buffer again and counts; of a port that is down, a flit kept goes on over the only other port of its set. After 16 replays the
port retrains, with an alert; it goes down, with another, after 10,000,000 ticks of retraining. Training ends up with at least 4
lanes of a right peer (degraded below 8), and down, with an alert, otherwise. A flit of a collective that has failed here is not
delivered to the sequencer. A counter write clears that counter alone. A port that is not up receives nothing. No memory
changes. (Where the spec leaves a choice: log entries 26, 27 and 48; the alert is number 4 of the model's own.)
[12_collectives.md R330; 12_collectives.md R331; 12_collectives.md R332; 12_collectives.md R333; 12_collectives.md Table 12.5]
-/
def Obligations.NirberLinks : Prop :=
  ∀ (s : State) (b p : Nat) (bytes : List Byte) (n : Nat), b < 32 → p < 6 →
    let x := s.port b p
    let f := NFlit.ofBytes bytes
    let good := 256 ≤ bytes.length ∧ crc64 (bytes.take 248) = BitVec.ofNat 64 (ofBytes ((bytes.drop 248).take 8))
    let fec := fun (i : Nat) => bytes.getD (256 + i) 0
    let y := { x with fecc := x.fecc ||| fec 0, fecu := x.fecu ||| fec 1,
                      corr := BitVec.ofNat 32 (min (x.corr.toNat + (fec 2).toNat) (2 ^ 32 - 1)) }
    let becomes := fun (i : Instr) (y : Nirber) => ∃ t, exec i s = .next t ∧ t.port b p = y ∧ s.sameMemory t ∧
      (∀ c q, (c ≠ b ∨ q ≠ p) → q < 6 → t.port c q = s.port c q) ∧ ∀ l, t.core l = s.core l
    let alerts := fun (t : State) => t.mgmt.alerts = s.mgmt.alerts ++ [4] ∧ ∃ r, t.mgmt.held = s.mgmt.held ++ [r]
    let goesDown := fun (i : Instr) (y : Nirber) => ∃ t, exec i s = .next t ∧ t.port b p = { y with replayBuf := (t.port b p).replayBuf } ∧
      (∀ e, e ∈ (t.port b p).replayBuf → e ∈ x.replayBuf) ∧ (x.replayBuf = [] → ∀ c q, (c ≠ b ∨ q ≠ p) → q < 6 → t.port c q = s.port c q) ∧
      alerts t ∧ s.sameMemory t ∧ ∀ l, t.core l = s.core l
    let rx := Instr.nirberFlitReceive b p bytes
    let over_ := x.skip.find? fun e => if f.type = 5 then f.group == e.1 && f.number == e.2.1 else f.stream.toNat / 2 ^ 27 == e.2.2
    let kept := x.replayBuf.filter fun g => decide (2048 ≤ (f.ack - g.1.seq).toNat)
    let due := x.st = 2 ∧ ∃ e, e ∈ x.replayBuf ∧ e.2 + 2000 ≤ s.time
    let up := n.testBit 8 = false ∧ 4 ≤ n % 16
    (x.st ≠ 2 → exec rx s = .next s) ∧
    (x.st = 2 → good → f.type = 1 → f.seq = x.recvSeq →
      becomes rx { y with recvSeq := x.recvSeq + 1, got := x.got ++ (if over_ = none then [f] else []), wire := x.wire ++ [⟨2, 0, x.recvSeq, 0, []⟩] }) ∧
    (x.st = 2 → good → f.type = 1 → f.seq ≠ x.recvSeq → becomes rx { y with wire := x.wire ++ [⟨3, 0, x.recvSeq - 1, 0, []⟩] }) ∧
    (x.st = 2 → good → f.type = 2 → ∃ t, exec rx s = .next t ∧ s.sameMemory t ∧ (t.port b p).replayBuf = kept) ∧
    (x.st = 2 → good → f.type = 3 → ∃ t, exec rx s = .next t ∧ s.sameMemory t ∧ (t.port b p).replayBuf.map Prod.fst = kept.map Prod.fst ∧
      (t.port b p).wire = x.wire ++ kept.map Prod.fst) ∧
    (x.st = 2 → good → f.type = 5 → (over_ = none → becomes rx { y with got := x.got ++ [f] }) ∧
      ∀ e, over_ = some e → becomes rx { y with skip := if f.failure = 0 then x.skip else x.skip.erase e }) ∧
    (x.st = 2 → ¬ good → becomes rx { y with crc := satInc x.crc, wire := x.wire ++ [⟨3, 0, x.recvSeq - 1, 0, []⟩] }) ∧
    (due → becomes (.nirberReplayTimeout b p) { x with
      wire := x.wire ++ x.replayBuf.map Prod.fst, replayBuf := x.replayBuf.map fun e => (e.1, s.time), replays := x.replays + 1,
      replay := satInc x.replay }) ∧
    (¬ due → x.st ≠ 0 ∨ x.replayBuf = [] → becomes (.nirberReplayTimeout b p) x) ∧
    (∀ e c q, x.st = 0 → x.replayBuf = [e] → s.colls = [c] → c.slot = e.1.stream.toNat / 2 ^ 27 → c.succ.getLsbD p = true →
      s.upPorts b c.succ = [q] → (s.port b q).replayBuf.length < 512 → ∃ t, exec (.nirberReplayTimeout b p) s = .next t ∧
        t.port b p = { x with replayBuf := [] } ∧ t.port b q = (s.port b q).send s.time e.1.stream e.1.payload ∧ s.sameMemory t ∧
        ∀ l, t.core l = s.core l) ∧
    (x.st = 2 → 16 ≤ x.replays → ∃ t, exec (.nirberRetrain b p) s = .next t ∧ alerts t ∧
      t.port b p = { x with st := 3, replays := 0, retrain := satInc x.retrain, retrainAt := s.time } ∧ s.sameMemory t ∧
      (∀ c q, (c ≠ b ∨ q ≠ p) → q < 6 → t.port c q = s.port c q) ∧ ∀ l, t.core l = s.core l) ∧
    (x.st ≠ 2 ∨ x.replays < 16 → exec (.nirberRetrain b p) s = .next s) ∧
    (x.st = 3 → x.retrainAt + 10000000 ≤ s.time → goesDown (.retrainTimeout b p) { x with st := 0 }) ∧
    (x.st ≠ 3 ∨ s.time < x.retrainAt + 10000000 → exec (.retrainTimeout b p) s = .next s) ∧
    (x.st = 1 ∨ x.st = 3 → (up → becomes (.nirberLinkTraining b p n)
        { x with st := 2, degr := decide (n % 16 < 8), misrail := false, peer := BitVec.ofNat 16 (n / 65536) }) ∧
      (¬ up → goesDown (.nirberLinkTraining b p n)
        { x with st := 0, degr := false, misrail := n.testBit 8, peer := BitVec.ofNat 16 (n / 65536) })) ∧
    (x.st ≠ 1 → x.st ≠ 3 → exec (.nirberLinkTraining b p n) s = .next s) ∧
    (becomes (.nlCounterWrite b p 0) { x with crc := 0 }) ∧ (becomes (.nlCounterWrite b p 1) { x with replay := 0 }) ∧
    (becomes (.nlCounterWrite b p 2) { x with retrain := 0 }) ∧ (becomes (.nlCounterWrite b p 3) { x with corr := 0 })

/-- PHASE of length 0 withdraws and writes 0. PHASE of another length passes with g[d] pending: the declaration is requested,
its reply due in 40 core cycles, and its request, of intensity + 1, asks for the slot of issue + 16 x onset or of issue + 48,
whichever is later, rounded up. Once its slot has ended, and not before, a request is charged to the first slot from the wanted
one on whose charge leaves room below ADMIT, and its declaration starts 16 times that slot; of two of one slot the one of the
lower column goes first. The reply writes the start less the issue cycle and admits the declaration; a declaration is active
from its start on and ends 256 x length domain cycles later. PHASEQ reads the declaration, the charge and tokens, or RDSTAT, and
stops on ILLOP for selector 3. No memory changes. (Where the spec leaves a choice: log entries 28 and 29.) [13_power_time.md
R338; 13_power_time.md R339; 13_power_time.md R348; 13_power_time.md R349; 13_power_time.md Table 13.3] -/
def Obligations.Declarations : Prop :=
  ∀ (s : State) (d a : BitVec 4) (l : Nat) (k : BitVec 3),
    let w := (s.g a).toNat
    let len := w / 65536
    let inten := w / 4096 % 16
    let onset := w % 4096
    let n := s.me.cc + s.me.stretched
    let up := fun (v : Nat) => (v + 15) / 16
    let dom := domainOf s.cur
    let x := s.core l
    let y := x.strand k
    let ld := domainOf l
    let z := s.domain ld
    let now := s.dcyc ld / 16
    let kept := z.charges.filter fun c => decide (now ≤ c.at_)
    (len = 0 → ∃ t, exec (.phase d a) s = .next t ∧ s.st.passed t.st ∧ s.holdsG t d 0 ∧ t.st.decl.st = .none ∧ s.sameMemory t ∧
      (s.st.decl.st ≠ .none → ∀ r, r ∈ (t.domain dom).requests → ¬ (r.core = s.cur ∧ r.slot = s.slot))) ∧
    (len ≠ 0 → ∃ t, exec (.phase d a) s = .next t ∧ s.st.passed t.st ∧ t.st.decl = ⟨.requested, inten, len, n, none⟩ ∧
      t.st.phases = s.st.phases ++ [⟨d, s.cc + 40, n, none⟩] ∧ t.st.pend = s.st.pend ++ [⟨.g d, none, false⟩] ∧ t.st.g = s.st.g ∧ s.sameMemory t ∧
      ∃ pre, (t.domain dom).requests = pre ++ [⟨s.cur, s.slot, inten + 1, n, max (up (n + 16 * onset)) (up (n + 48))⟩]) ∧
    ((∀ r, r ∈ z.requests → now ≤ r.issued / 16) → exec (.arbiterSlotEnd ld) s = .next (s.setDomain ld { z with charges := kept })) ∧
    (∀ r q, z.requests = [r, q] → r.issued / 16 = q.issued / 16 → q.issued / 16 < now → r.core % 1024 < q.core % 1024 → r.slot = q.slot →
      r.at_ = q.at_ → kept = [] → r.amount ≤ z.admitMax.toNat → q.amount ≤ z.admitMax.toNat → ∃ t m, exec (.arbiterSlotEnd ld) s = .next t ∧
        (t.domain ld).charges = [r, { q with at_ := m }] ∧ m = if r.amount + q.amount ≤ z.admitMax.toNat then r.at_ else r.at_ + 1) ∧
    (∀ r, z.requests = [r] → r.issued / 16 < now → r.core = l → r.slot = k → r.amount ≤ z.admitMax.toNat →
      let load := fun (m : Nat) => ((kept.filter fun c => c.at_ == m).map Charge.amount).foldl (· + ·) 0
      ∃ t m, exec (.arbiterSlotEnd ld) s = .next t ∧ r.at_ ≤ m ∧ load m + r.amount ≤ z.admitMax.toNat ∧
        (∀ j, r.at_ ≤ j → j < m → z.admitMax.toNat < load j + r.amount) ∧ (t.domain ld).charges = kept ++ [{ r with at_ := m }] ∧
        (t.domain ld).requests = [] ∧ (y.decl.st = .requested → y.decl.issued = r.issued → ((t.core l).strand k).decl.start = some (16 * m)) ∧
        s.sameMemory t) ∧
    (∀ p rest m, y.phases = p :: rest → p.due ≤ x.cc → (∀ r, r ∈ z.requests → ¬ (r.core = l ∧ r.slot = k ∧ r.issued = p.issued)) → p.start = some m →
      (⟨.g p.d, none, false⟩ : Pend) ∈ y.pend →
      ∃ t, exec (.phaseReply l k.toNat) s = .next t ∧ ((t.core l).strand k).phases = rest ∧ s.sameMemory t ∧
        ((t.core l).strand k).getG p.d = (if p.d = 0 then 0 else BitVec.ofNat 32 (m - p.issued)) ∧
        (y.decl.st = .requested → y.decl.issued = p.issued → ((t.core l).strand k).decl = { y.decl with st := .admitted })) ∧
    ((∀ p, p ∈ y.phases → x.cc < p.due) → exec (.phaseReply l k.toNat) s = .next s) ∧
    (∀ m, y.decl.start = some m →
      (y.decl.st = .admitted → (m ≤ x.cc + x.stretched → ∃ t, exec (.declarationStart l k.toNat) s = .next t ∧ s.sameMemory t ∧
          ((t.core l).strand k) = { y with decl := { y.decl with st := .active } }) ∧
        (x.cc + x.stretched < m → exec (.declarationStart l k.toNat) s = .next s)) ∧
      (y.decl.st = .active → (m + 256 * y.decl.length ≤ x.cc + x.stretched → ∃ t, exec (.declarationEnd l k.toNat) s = .next t ∧ s.sameMemory t ∧
          ((t.core l).strand k) = { y with decl := Decl.reset }) ∧
        (x.cc + x.stretched < m + 256 * y.decl.length → exec (.declarationEnd l k.toNat) s = .next s))) ∧
    (∃ t, exec (.phaseq d 0) s = .next t ∧ s.writesG t d (s.st.decl.word n) 4) ∧
    (∃ t, exec (.phaseq d 1) s = .next t ∧ s.writesG t d (BitVec.ofNat 32 ((s.domain dom).load (n / 16) + 2 ^ 12 * (s.domain dom).tokens +
      2 ^ 20 * min (s.domain dom).tokenQ.length 4095)) 4) ∧
    (∃ t, exec (.phaseq d 2) s = .next t ∧ s.writesG t d (s.domain dom).rdstat 4) ∧
    ∃ t, exec (.phaseq d 3) s = .next t ∧ s.stopsOn t ⟨0x01, s.st.curWord, 0⟩

/-- TIME writes the count to P(d); TIMEW passes at a count met and else waits, TIMEW_EXPIRY releasing it once met. The oldest
token request is granted when its 4 or 8 tokens are there and every core has made its requests of that domain cycle: the unit is
awake, they return 64 domain cycles later, and the strands that wait for it are ready in 4 core cycles. An idle unit is gated
after 256 or 1,024 cycles. A droop above the hub's threshold stretches its cores, then halves their issue window, then ends.
Over-current latches the reticle, withdraws boost, limits its domains and posts an alert for 1 ms. A grant changes divider and
boost; one to boost first raises the supply. Losing and regaining the reference sets UNSYNC and the slew; a 1 to OC clears
OCAUSE. (Where the spec leaves a choice: log entries 5 and 28.) [13_power_time.md R335; 13_power_time.md R337; 13_power_time.md
R341; 13_power_time.md R342; 13_power_time.md R344; 13_power_time.md R345; 13_power_time.md R350; 13_power_time.md R351;
01_machine.md R15] -/
def Obligations.TimeAndPowerEvents : Prop :=
  ∀ (s : State) (d a : BitVec 4) (l h dn ret mv : Nat) (k : BitVec 3) (v : Word) (ph : Int),
    let x := s.core l
    let y := x.strand k
    let z := s.domain dn
    let now := s.dcyc dn
    let u := s.hub h
    let m := s.mgmt
    let coreIs := fun (i : Instr) (c : Core) => exec i s = .next (s.setCore l c)
    let domIs := fun (i : Instr) (w : Domain) => exec i s = .next (s.setDomain dn w)
    let clocked := fun (i : Instr) (g : BitVec 3) (b : Bool) => ∃ t, exec i s = .next t ∧
      t.domain dn = { z with div := g, boost := b, want := none, settling := false, phase := (t.domain dn).phase } ∧
      (∀ j, j ≠ dn → t.domain j = s.domain j) ∧ t = { s with domains := t.domains, free := t.free }
    let mgmtIs := fun (i : Instr) (w : Mgmt) => exec i s = .next { s with mgmt := w }
    (d.toNat % 2 = 0 → ∃ t, exec (.time d) s = .next t ∧ t.g d = (if d = 0 then 0 else BitVec.ofNat 32 s.time) ∧
      t.g (d + 1) = BitVec.ofNat 32 (s.time / 2 ^ 32) ∧ (∀ r, r ≠ d → r ≠ d + 1 → t.g r = s.g r) ∧ s.st.passed t.st ∧ s.st.sameButG t.st ∧
      t.st.pend = s.st.pend ++ [⟨.g d, some (s.cc + 3), false⟩, ⟨.g (d + 1), some (s.cc + 3), false⟩] ∧ s.strandOnly t) ∧
    ((s.p a).toNat ≤ s.time → ∃ t, exec (.timew a) s = .next t ∧ s.passesOnly t) ∧
    (s.time < (s.p a).toNat → ∃ t, exec (.timew a) s = .next t ∧ s.waitsFor t (.timew (s.p a))) ∧
    (∀ n, y.run = .waiting → y.frozen = false → y.wait = .timew n →
      (n.toNat ≤ s.time → coreIs (.timewExpiry l k.toNat) (x.setStrand k (y.awake x.cc))) ∧
      (s.time < n.toNat → exec (.timewExpiry l k.toNat) s = .next s)) ∧
    (z.tokenQ = [] → exec (.inrushTokenGrant dn) s = .next s) ∧
    (∀ c vec rest, z.tokenQ = (c, l, vec) :: rest →
      let need := if vec then 4 else 8
      let asked := c < now ∨ ∀ e, e ∈ s.cores → domainOf e.1 = dn → now < e.2.cc + e.2.stretched
      (z.tokens < need ∨ ¬ asked → exec (.inrushTokenGrant dn) s = .next s) ∧
      (need ≤ z.tokens → asked → ∃ t, exec (.inrushTokenGrant dn) s = .next t ∧
        t.domain dn = { z with tokenQ := rest, tokens := z.tokens - need, returns := z.returns ++ [(now + 64, need)] } ∧
        (vec = true → (t.core l).vecOn = true ∧ (t.core l).tenOn = x.tenOn) ∧ (vec = false → (t.core l).tenOn = true ∧ (t.core l).vecOn = x.vecOn) ∧
        (∀ j, (t.core l).strand j = if (x.strand j).run = .waiting ∧ (x.strand j).wait = .token vec
          then { x.strand j with
            run := .ready, wait := .idle, notBefore := (if x.cc + x.stretched ≤ now ∨ x.half = true then x.cc else x.cc - 1) + 4 }
          else x.strand j) ∧ s.sameMemory t)) ∧
    (∀ c n rest, z.returns = (c, n) :: rest → (∀ r, r ∈ rest → now < r.1) →
      (c ≤ now → domIs (.tokenReturn dn) { z with tokens := z.tokens + n, returns := rest })) ∧
    (x.vecOn = true → 256 ≤ x.vecIdle → coreIs (.unitGate l 0) { x with vecOn := false, vecIdle := 0 }) ∧
    (x.tenOn = true → 1024 ≤ x.tenIdle → coreIs (.unitGate l 1) { x with tenOn := false, tenIdle := 0 }) ∧
    (u.drth = 0 ∨ mv ≤ u.drth.toNat → exec (.droopAlarm h mv) s = .next s) ∧
    (u.drth ≠ 0 → u.drth.toNat < mv → ∃ t, exec (.droopAlarm h mv) s = .next t ∧ s.sameMemory t ∧
      ∀ c, c ∈ hubCores h → t.core c = { s.core c with stretchLeft := u.stretch.toNat + 1, halfLeft := 0 }) ∧
    (x.stretchLeft = 1 → coreIs (.stretchEnd l) { x with stretchLeft := 0, halfLeft := 2 * ((s.hub (hubOf l)).halvewin.toNat + 1) }) ∧
    (x.stretchLeft ≠ 1 → exec (.stretchEnd l) s = .next s) ∧
    (x.halfLeft / 2 = 1 → coreIs (.halvedWindowEnd l) { x with halfLeft := 0 }) ∧
    (x.halfLeft / 2 ≠ 1 → exec (.halvedWindowEnd l) s = .next s) ∧
    (84 ≤ ret → exec (.overCurrentAlarm ret) s = .next s) ∧
    (ret < 84 → ∃ t, exec (.overCurrentAlarm ret) s = .next t ∧ s.sameMemory t ∧ t.mgmt.ocHolds = m.ocHolds ++ [(ret, s.time + 1000000)] ∧
      t.mgmt.alerts = m.alerts ++ [alertOc] ∧ t.mgmt.oc = true ∧ (m.oc = false → t.mgmt.ocause.toNat / 2 % 128 = ret) ∧
      ∀ i, i < m.gridR / 8 → (t.domain i).boost = false ∧ (m.onReticle ret i = true → (t.domain i).oclim = true ∧ (t.domain i).div ≠ 0)) ∧
    (∀ n rest, m.ocHolds = (ret, n) :: rest → n ≤ s.time → ∃ t, exec (.ocHoldEnd ret) s = .next t ∧ s.sameMemory t ∧ t.mgmt.ocHolds = rest ∧
      ∀ i, i < m.gridR / 8 → (∀ r, r ∈ rest → m.onReticle r.1 i = false) → (t.domain i).oclim = false) ∧
    (z.want = none → exec (.grantChange dn) s = .next s) ∧ (z.settling = false → exec (.boostSupplySettled dn) s = .next s) ∧
    (∀ g, z.want = some (g, false) → clocked (.grantChange dn) g false) ∧
    (∀ g, z.want = some (g, true) → domIs (.grantChange dn) { z with settling := true } ∧
      (z.settling = true → clocked (.boostSupplySettled dn) g true)) ∧
    (m.unsync = false → mgmtIs .referenceLoss { m with unsync := true, slew := none, lossCnt := if m.lossCnt = 0xFFFF then 0xFFFF else m.lossCnt + 1 }) ∧
    (m.unsync = true → exec .referenceLoss s = .next s ∧
      mgmtIs (.referenceReturn ph) { m with unsync := false, slew := if ph = 0 then none else some ph }) ∧
    (m.unsync = false → exec (.referenceReturn ph) s = .next s) ∧ (mgmtIs .slewComplete { m with slew := none }) ∧
    (v.getLsbD 0 = true → mgmtIs (.ocauseWrite v) { m with ocause := 0 }) ∧ (v.getLsbD 0 = false → exec (.ocauseWrite v) s = .next s)

/-- TRAP, BRK and HALT stop the strand with their immediate in EINFO; a handler is due where the entry names one, the strand is
no handler and the cause is not BRK or HALT, else the record is offered; BRK also posts an alert, whose record is held for the
leader. HANDLER_SPAWN starts the handler in the lowest free slot with slot, 256 + cause and EINFO in g1 to g3, or offers the
record if none is free. ERET of a stopped slot whose clause is sound and whose index lies in it makes the slot ready, from the
core cycle after, with a fill that resumes there, past the end with a fall-through; ERET.REL frees the slot then, its registers
keeping their values; else ERETX 1 to 4. FREEZE awaits the dealer's answer, or raises ILLOP or PRIV; LAUNCH sends its request
and holds, or raises MISAL. The one CLAUSE_FILL of a core cycle, on free banks, reads up to four 64-bit words of its clause;
with the last of a sound clause header and words stand in the buffer and the strand at the first instruction, or where it
resumes; an unreadable header stops it on its BOBST or MEMUE, no header on ILLCL 3, or 2 at fall-through, a malformed one on
ILLCL 4. (Where the spec leaves a choice: log entries 8, 10, 11 and 48.) [14_system_traps.md R356; 14_system_traps.md R357;
14_system_traps.md R358; 14_system_traps.md R378; 14_system_traps.md R379; 14_system_traps.md R380; 14_system_traps.md R381;
14_system_traps.md R382; 02_assembly_encoding.md R36; 02_assembly_encoding.md R41; 14_system_traps.md Table 14.2] -/
def Obligations.TrapsHandlersAndReturns : Prop :=
  ∀ (s : State) (imm : BitVec 12) (d a : BitVec 4) (sx : BitVec 1) (l : Nat) (k : BitVec 3),
    let follows := fun (y : Strand) (cause : BitVec 8) =>
      let h := s.st.trapEntry.isSome = true ∧ s.st.handler = false ∧ cause ≠ 0x21 ∧ cause ≠ 0x22
      (h → y.handlerDue = true ∧ y.offer = false) ∧ (¬ h → y.handlerDue = false ∧ y.offer = true)
    let j : BitVec 3 := (s.g a).truncate 3
    let t := s.me.strand j
    let lb := t.frame.eclb
    let hd := s.me.word lb
    let i := if hdrIndiv hd then 0 else t.frame.eidx.toNat + sx.toNat
    let slotOk := (s.g a).toNat < 8 ∧ j ≠ s.slot ∧ t.run = .stopped
    let stops := fun (ins : Instr) (tr : Trap) => ∃ u, exec ins s = .next u ∧ s.stopsOn u tr
    let later := fun (ins : Instr) (o : Later) => ∃ u, exec ins s = .next u ∧ s.st.passed u.st ∧ s.sameMemory u ∧ s.otherCoresSame u ∧
      u.me.later = s.me.later ++ [(s.cc + 1, o)] ∧ ∀ q, q ≠ s.slot → u.me.strand q = s.me.strand q
    let p := s.p a
    let x := s.core l
    let y := x.strand k
    let started := fun (z : Strand) (entry : Addr) => z.run = .ready ∧ z.handler = true ∧ z.fsel = k ∧ z.trapEntry = none ∧ z.pc = entry ∧
      z.fill = some ⟨entry, .enter, x.cc + 1, none, 0, []⟩ ∧ z.entryNo = y.entryNo ∧
      ∀ r, z.getG r = if r = 1 then k.zeroExtend 32 else if r = 2 then 256 + y.frame.cause.zeroExtend 32 else if r = 3 then y.frame.einfo else 0
    (∃ u, exec (.trap imm) s = .next u ∧ s.stopsOn u ⟨0x20, imm.zeroExtend 32, 0⟩ ∧ follows u.st 0x20) ∧
    (∃ u r, exec (.brk imm) s = .next u ∧ u.mgmt.alerts = s.mgmt.alerts ++ [alertBrk] ∧ u.mgmt.held = s.mgmt.held ++ [r] ∧ r.part = none ∧
      s.stopsOn ({ u with mgmt := s.mgmt, free := s.free } : State) ⟨0x21, imm.zeroExtend 32, 0⟩ ∧ follows u.st 0x21) ∧
    (∃ u, exec (.halt imm) s = .next u ∧ s.stopsOn u ⟨0x22, imm.zeroExtend 32, 0⟩ ∧ follows u.st 0x22) ∧
    (∀ entry, y.handlerDue = true → y.run = .stopped → y.frozen = false → y.trapEntry = some entry →
      (∀ f : BitVec 3, x.taken f = false → (∀ q : BitVec 3, q.toNat < f.toNat → x.taken q = true) →
        ∃ u, exec (.handlerSpawn l k.toNat) s = .next u ∧ s.sameMemory u ∧ (u.core l).strand k = { y with
            handlerDue := false, frame := { y.frame with handled := true } } ∧
          started ((u.core l).strand f) entry ∧
          ∀ q, q ≠ k → q ≠ f → (u.core l).strand q = x.strand q) ∧
      ((∀ f, x.taken f = true) → ∃ u, exec (.handlerSpawn l k.toNat) s = .next u ∧ s.sameMemory u ∧
        (u.core l).strand k = { y with handlerDue := false, offer := true, offered := 0, fault := none })) ∧
    (slotOk → s.me.fillFault lb.toNat 4 = none → s.me.isTarget lb = true → malformed hd lb = false →
      (i < hdrCount hd ∨ sx = 1 ∧ i = hdrCount hd → later (.eret a sx) (.resume j lb hd i)) ∧
      (hdrCount hd < i ∨ sx = 0 ∧ i = hdrCount hd → stops (.eret a sx) ⟨0x06, 2, 0⟩)) ∧
    (slotOk → s.me.fillFault lb.toNat 4 = none → s.me.isTarget lb = false ∨ malformed hd lb = true → stops (.eret a sx) ⟨0x06, 3, 0⟩) ∧
    (slotOk → s.me.fillFault lb.toNat 4 ≠ none → stops (.eret a sx) ⟨0x06, lb ++ 4#16, 0⟩) ∧
    (slotOk → later (.eretRel a) (.release j)) ∧
    (y.run = .stopped → (∀ b w n,
        let z := ((s.applyLater l (.resume k b w n)).core l).strand k
        (n ≠ hdrCount w → z = { y with
          run := .ready, handlerDue := false, offer := false, offered := 0, fault := none, notBefore := x.cc, pc := b,
          buf := ⟨false, b, w, []⟩, fill := some ⟨b, .resume n, x.cc, none, 0, []⟩ }) ∧
        (n = hdrCount w → z.run = .ready ∧ z.fill = some ⟨b + BitVec.ofNat 16 (4 * (n + 1)), .fall, x.cc, none, 0, []⟩)) ∧
      (let u := s.applyLater l (.release k)
       (u.core l).strand k = { Strand.reset with
         g := y.g, m := y.m, pc := y.pc, status := y.status, stamp := y.stamp, frame := y.frame, fsel := y.fsel, inbind := y.inbind,
         astat := y.astat, undecl := y.undecl, tpr := y.tpr, proj := y.proj, map := y.map, notBefore := x.cc + 1 } ∧ s.sameMemory u ∧
       ∀ q, q ≠ k → (u.core l).strand q = x.strand q)) ∧
    (¬ slotOk → stops (.eret a sx) ⟨0x06, 1, 0⟩ ∧ stops (.eretRel a) ⟨0x06, 1, 0⟩) ∧
    ((s.g a).toNat < 64 → s.me.priv = true → ∃ u, exec (.freeze d a) s = .next u ∧ s.st.passed u.st ∧ s.st.sameButPend u.st ∧ s.sameMemory u ∧
      u.st.pend = s.st.pend ++ [⟨.g d, none, false⟩] ∧ u.mgmt.freezeAns = s.mgmt.freezeAns ++ [(s.cur, s.slot, d, s.g a)]) ∧
    (64 ≤ (s.g a).toNat → stops (.freeze d a) ⟨0x01, s.st.curWord, 0⟩) ∧
    ((s.g a).toNat < 64 → s.me.priv = false → stops (.freeze d a) ⟨0x04, 0, 0⟩) ∧
    (p.toNat % 128 = 0 → s.me.plbCheck 0 [byteRange p 128] = none → s.me.plbCheck 1 [byteRange p 128] = none →
      ∃ u, exec (.launch d a) s = .next u ∧ s.st.left u.st ∧ s.sameMemory u ∧
        u.st = { s.st with hold := .atomic, edgeIds := s.st.edgeIds ++ [s.nextId], pc := u.st.pc, fill := u.st.fill, here := u.st.here } ∧
        u.reqs = s.reqs ++ [⟨s.nextId, s.cur, s.slot, s.ebrick s.cur, true, .launch d p.toNat 0 0, wordPieces p.toNat 128 [], .toBrick, s.time, none, 0, false⟩]) ∧
    (p.toNat % 128 ≠ 0 → stops (.launch d a) ⟨0x08, (p.truncate 16 : BitVec 16) ++ 7#16, 0⟩) ∧
    (∀ f, y.fill = some f → y.run = .ready → y.hold = .none → y.frozen = false → x.frozen = false → f.asked ≤ x.cc → f.first = none → f.got = [] →
      (∀ j, j ≠ k → (x.strand j).fill = none) → x.filled = false → x.banks = [] → x.copies = [] →
      let w := x.word f.addr
      let n := hdrCount w
      let words := (f.addr.toNat + 4 * n + 3) / 8 - f.addr.toNat / 8 + 1
      let dword := fun (i : Nat) => (BitVec.ofNat 64 (x.load (8 * (f.addr.toNat / 8 + i)) 8) : Dword)
      let at_ := match f.why with | .resume i => i | .thaw i => i | _ => 0
      let place := match f.why with
        | .fall => y.buf.addr + BitVec.ofNat 16 (4 * hdrCount y.buf.hdr) | .jump p => p.epc | _ => f.addr
      let fails := fun (tr : Trap) (epc : Addr) => ∃ u, exec (.clauseFill l k.toNat) s = .next u ∧ s.sameMemory u ∧ (u.core l).filled = true ∧
        ((u.core l).strand k).run = .stopped ∧ ((u.core l).strand k).frame.cause = tr.cause ∧ ((u.core l).strand k).frame.einfo = tr.einfo ∧
        ((u.core l).strand k).frame.epc = epc ∧ ((u.core l).strand k).g = y.g
      (∀ tr, x.fillFault f.addr.toNat 4 = some tr → fails tr f.addr) ∧
      (x.fillFault f.addr.toNat 4 = none → x.isTarget f.addr = false → fails ⟨0x02, f.addr ++ (if f.why = .fall then 2#16 else 3#16), 0⟩ place) ∧
      (x.fillFault f.addr.toNat (4 * (n + 1)) = none → x.isTarget f.addr = true →
        (malformed w f.addr = true → f.addr.toNat + 4 * n ≤ 0xFFFC → words ≤ 4 → fails ⟨0x02, f.addr ++ 4#16, 0⟩ f.addr) ∧
        (malformed w f.addr = false → words ≤ 4 → at_ < n → (hdrIndiv w = true → at_ = 0) →
          ∃ u, exec (.clauseFill l k.toNat) s = .next u ∧ s.sameMemory u ∧ (u.core l).filled = true ∧
            ((u.core l).strand k).buf = ⟨true, f.addr, w, (List.range n).map fun q => x.word (f.addr + BitVec.ofNat 16 (4 * (q + 1)))⟩ ∧
            ((u.core l).strand k).pc = f.addr + BitVec.ofNat 16 (4 * (at_ + 1)) ∧ ((u.core l).strand k).fill = none ∧
            ((u.core l).strand k).notBefore = max y.notBefore (x.cc + 1) ∧ ((u.core l).strand k).g = y.g) ∧
        (malformed w f.addr = false → 4 < words → ∃ u, exec (.clauseFill l k.toNat) s = .next u ∧ s.sameMemory u ∧ (u.core l).filled = true ∧
          (u.core l).strand k = { y with fill := some { f with first := some x.cc, hdr := w, got := (List.range 4).map dword } }))) ∧
    (x.filled = true → exec (.clauseFill l k.toNat) s = .next s)

/-- An unlisted number stops each on ILLOP; else a privileged access of an unprivileged skein on PRIV. A hub register's access
is sent to the hub, a read awaiting g[d] and a write holding the strand. Of its own slot a strand's frame registers are written
once it is stopped, its window registers never. Any other access passes with g[d] pending for two cycles and is performed then,
first the write, then g[d] takes the register's value. Performed: INBIND, UNDECL, FSEL, SIGSEED take the new value, old OR mask
or old AND NOT mask; ASTAT clears the bits named (CSRS none), SRAMCE clears; STRANDCAP outside 1 to 8 and ISSUEPOL above 2 keep
their value; a PLB entry changes, both words at once, when its high word is written; STATUS, CTAG, LXY, EBRICK, RDSTAT, MODID
and TIMEQ ignore writes and read their values. (Where the spec leaves a choice: log entry 12.) [14_system_traps.md R376;
14_system_traps.md R383; 14_system_traps.md R359; 14_system_traps.md Table 14.9; 04_strands_control.md R84; 10_edge_memory.md
R267; 13_power_time.md Table 13.5] -/
def Obligations.ControlRegisters : Prop :=
  ∀ (s : State) (d a : BitVec 4) (n : BitVec 12) (l : Nat) (k : BitVec 3) (op : BitVec 2) (v : Word),
    let listed := n.toNat ≤ 4 ∨ (8 ≤ n.toNat ∧ n.toNat ≤ 0xE) ∨ (0x10 ≤ n.toNat ∧ n.toNat ≤ 0x1F) ∨ (0x100 ≤ n.toNat ∧ n.toNat ≤ 0x108) ∨
      (0x110 ≤ n.toNat ∧ n.toNat ≤ 0x12F) ∨ (0x200 ≤ n.toNat ∧ n.toNat ≤ 0x203) ∨ n = 0x280 ∨ (0x300 ≤ n.toNat ∧ n.toNat ≤ 0x302)
    let readPriv := n = 0x106 ∨ n = 0x107 ∨ n = 0x108 ∨ (0x110 ≤ n.toNat ∧ n.toNat ≤ 0x12F) ∨ n = 0x203 ∨ n = 0x302
    let writePriv := readPriv ∨ n = 3 ∨ n = 0x102 ∨ n = 0x103 ∨ n = 0x105 ∨ n = 0x200 ∨ n = 0x201 ∨ n = 0x202
    let hub := 0x200 ≤ n.toNat ∧ n.toNat ≤ 0x203
    let forms : List (Instr × BitVec 2 × Word) := [(.csrr d n, 0, 0), (.csrw d a n, 1, s.g a), (.csrs d a n, 2, s.g a), (.csrc d a n, 3, s.g a)]
    let x := s.core l
    let y := x.strand k
    let done := fun (c : BitVec 12) => s.performCsr l ⟨k, op, c, d, v⟩
    let after := fun (c : BitVec 12) => (done c).core l
    let new := fun (old : Word) => if op = 0 then old else if op = 1 then v else if op = 2 then old ||| v else old &&& ~~~v
    let reads := fun (c : BitVec 12) (w : Word) => ((after c).strand k).getG d = (if d = 0 then 0 else w) ∧
      (∀ r, r ≠ d → ((after c).strand k).getG r = y.getG r) ∧ s.sameMemory (done c)
    (∀ i o w, (i, o, w) ∈ forms →
      (¬ listed → ∃ t, exec i s = .next t ∧ s.stopsOn t ⟨0x01, s.st.curWord, 0⟩) ∧
      (listed → s.me.priv = false → (o = 0 ∧ readPriv ∨ o ≠ 0 ∧ writePriv) → ∃ t, exec i s = .next t ∧ s.stopsOn t ⟨0x04, 0, 0⟩) ∧
      (listed → (s.me.priv = true ∨ o = 0 ∧ ¬ readPriv ∨ o ≠ 0 ∧ ¬ writePriv) →
        (hub → ∃ u, exec i s = .next u ∧ u.hubReqs = s.hubReqs ++ [⟨s.cur, s.slot, .csr o n d w⟩] ∧ s.strandOnly ({ u with hubReqs := s.hubReqs } : State) ∧
          (o = 0 → s.st.passed u.st ∧ s.st.sameButPend u.st ∧ u.st.pend = s.st.pend ++ [⟨.g d, none, false⟩]) ∧ (o ≠ 0 → s.st.left u.st ∧ u.st = { s.st with hold := .hubAck, pc := u.st.pc, fill := u.st.fill, here := u.st.here })) ∧
        (¬ hub → ∃ t, exec i s = .next t ∧ s.passesPend t [⟨.g d, some (s.cc + 2), false⟩]
          { s.me with later := s.me.later ++ [(s.cc + 2, .csr ⟨s.slot, o, n, d, w⟩)] }))) ∧
    (∀ c, s.applyLater l (.csr ⟨k, op, c, d, v⟩) = done c) ∧
    (reads 0 y.status ∧ ((after 0).strand k).status = y.status) ∧
    (reads 1 (new y.inbind) ∧ ((after 1).strand k).inbind = new y.inbind) ∧
    (((after 2).strand k).astat = if op = 1 ∨ op = 3 then astatClear y.astat v else y.astat) ∧
    (reads 3 (new y.undecl) ∧ ((after 3).strand k).undecl = new y.undecl) ∧
    (((after 4).strand k).fsel = (new (y.fsel.zeroExtend 32)).truncate 3 ∧ reads 4 (((after 4).strand k).fsel.zeroExtend 32)) ∧
    (op = 0 → y.fsel ≠ k → (x.strand y.fsel).run = .stopped → reads 8 (x.strand y.fsel).frame.causeWord ∧
      reads 9 ((x.strand y.fsel).frame.epc.zeroExtend 32) ∧ reads 0xC (x.strand y.fsel).frame.einfo ∧ ∀ r : BitVec 4, reads (0x010 + r.zeroExtend 12) ((x.strand y.fsel).getG r)) ∧
    (op = 1 → y.fsel ≠ k → (x.strand y.fsel).run = .stopped → ∀ r : BitVec 4, r ≠ 0 →
      ((after (0x010 + r.zeroExtend 12)).strand y.fsel).getG r = v ∧ (after 0x00A).strand y.fsel = { x.strand y.fsel with
        frame := { (x.strand y.fsel).frame with eclb := v.truncate 16 } }) ∧
    (op = 1 → y.fsel = k → (y.run = .stopped → ((after 0x00A).strand k).frame.eclb = v.truncate 16) ∧
      ∀ r j : BitVec 4, j ≠ d → ((after (0x010 + r.zeroExtend 12)).strand k).getG j = y.getG j) ∧
    (op = 1 → (1 ≤ v.toNat ∧ v.toNat ≤ 8 → (after 0x102).cap = v.truncate 4) ∧ (¬ (1 ≤ v.toNat ∧ v.toNat ≤ 8) → (after 0x102).cap = x.cap ∧ reads 0x102 (x.cap.zeroExtend 32)) ∧
      (v.toNat ≤ 2 → (after 0x103).pol = v.truncate 2) ∧ (2 < v.toNat → (after 0x103).pol = x.pol)) ∧
    ((∃ lo hi : Word, reads 0x100 lo ∧ reads 0x101 hi ∧ ∀ j : BitVec 6, (hi ++ lo : Dword).getLsbD j.toNat = decide ((x.tag j).st = .set)) ∧
      (after 0x100).tags = x.tags ∧ (after 0x101).tags = x.tags) ∧
    (reads 0x104 (BitVec.ofNat 32 (l % 1024 + 65536 * (l / 1024)))) ∧
    (op ≠ 0 → (after 0x105).sramce = 0 ∧ reads 0x105 0) ∧ ((after 0x107).sigSeed = new x.sigSeed ∧ reads 0x107 (new x.sigSeed)) ∧
    (reads 0x108 (BitVec.ofNat 32 (s.ebrick l))) ∧ (reads 0x280 (s.domain (domainOf l)).rdstat) ∧ (reads 0x300 0x01020331) ∧ (reads 0x301 s.mgmt.timeq) ∧
    (op = 1 → ∀ e : BitVec 4, (after (0x110 + 2 * e.zeroExtend 12)).plb = x.plb ∧
      (rd (after (0x110 + 2 * e.zeroExtend 12)).plbLow e = some v) ∧
      ∀ low, rd x.plbLow e = some low → rd (after (0x111 + 2 * e.zeroExtend 12)).plb e = plbStore (v ++ low) ∧
        ∀ j, j ≠ e → rd (after (0x111 + 2 * e.zeroExtend 12)).plb j = rd x.plb j) ∧
    (op = 1 ∨ op = 2 → v.getLsbD 0 = true → (done 0x302).mgmt.ocause = 0)

/-- The dealer serves the enabled queues in descending PRIO, then ascending number. With no record loading, launches accepted
and no takeover, DEALER_SELECTION takes a partition that a remap has moved, else the first ready record that can start: it is
loading and becomes its queue's sentinel; else nothing changes. LAUNCH_LOAD waits while a partition stands in the rectangle of a
launch or resume; a record with reserved bits, KIND 3 or a rectangle outside the grid fails with cause 1, and a failing record
starts no partition; a launch whose image passes its checks adds its partition, gives every core the skein, its partition,
privilege, signature seed and place in the skein tree, and sends the code down the tree; once nothing of it stands there any
more the partition runs and every core has its start message. CONFIG_CLASS_MESSAGE sends the oldest flit of the class at a
core's router on to every output of its entry in lockstep once each has a credit, gives back the credit of its input, and
delivers to the core what the last flit of a transfer brings: code to SRAM, a splice to its port; then the dealer's next flit
enters there while fewer than 4 stand. SPLICE_ACCEPT waits for the core's splice point and for the last strand of the
predecessor to be gone; then the core belongs to the successor. (Where the spec leaves a choice: log entries 33, 34, 37, 38, 44
and 48.) [01_machine.md R23; 04_strands_control.md R106; 06_local_memory.md R136; 14_system_traps.md R368; 14_system_traps.md
R369; 14_system_traps.md R371; 14_system_traps.md R423; 03_block_numbers.md R70; 07_messages.md R168; 07_messages.md R172;
07_messages.md R173; 15_wafer_boot.md R405] -/
def Obligations.DealerStarts : Prop :=
  ∀ (s : State) (c : Nat),
    let m := s.mgmt
    let x := s.core c
    let prio := fun (q : Nat) => qPrio (m.queue (BitVec.ofNat 6 q))
    let with_ := fun (n : Mgmt) => ({ s with mgmt := n } : State)
    let moved := m.parts.find? fun p => p.st == .frozen && m.remapDone p
    let under := fun (p : PartRec) => (∃ e, e ∈ m.cfgNet ∧ e.2.1.record = p.recVa) ∨ ∃ l z, l ∈ p.cores ∧ z ∈ (s.core l).cfgIn ∧ z.rec_ = p.recVa
    let outs := x.cfgOuts.filter (· < 4)
    let to_ := fun (o : Nat) => (m.torus c o).1
    let entered := fun (l : List CfgFlit) => if 4 ≤ l.length then (l, m.cfgNet) else
      match takeFirst (fun a : Nat × CfgMsg × Nat => a.1 == c) m.cfgNet with
      | none => (l, m.cfgNet)
      | some ((_, z, k), net) => (l ++ [z.flit k], if k + 1 < z.flits then (c, z, k + 1) :: net else net)
    let start : Msg := ⟨BitVec.ofNat 128 (6 * 2 ^ 22 + 2 ^ 28 + 2 ^ 33 + 2 ^ 34), [(0, 0)]⟩
    m.served.Pairwise (fun a b => prio b < prio a ∨ (prio a = prio b ∧ a < b)) ∧
    (∀ q, q ∈ m.served ↔ q < 64 ∧ qEn (m.queue (BitVec.ofNat 6 q)) = true) ∧
    (m.loading ≠ none ∨ m.bootProg.getLsbD 4 = false ∨ m.takeover = true → exec .dealerSelection s = .next s) ∧
    (m.loading = none → m.bootProg.getLsbD 4 = true → m.takeover = false →
      (∀ p, moved = some p → ∃ q, exec .dealerSelection s = .next (with_ { m with loading := some q }) ∧
        q.recVa = p.recVa ∧ q.kind = 1 ∧ q.image = p.save) ∧
      (moved = none → ∀ u, s.firstReady m.served = (u, none) → exec .dealerSelection s = .next u) ∧
      ∀ u p, moved = none → s.firstReady m.served = (u, some p) → ∃ t, exec .dealerSelection s = .next t ∧ t.mgmt.loading = some p ∧
        t.mgmt.sentinels.filter (fun e => e.1 == p.queue) = [(p.queue, p.recVa)]) ∧
    (m.loading = none → exec .launchLoad s = .next s) ∧
    (∀ p, m.loading = some p →
      (m.takeover = true → exec .launchLoad s = .next s) ∧
      (m.takeover = false → p.st ≠ .loading → p.kind ≠ 2 → m.inTheWay p ≠ [] → exec .launchLoad s = .next s) ∧
      (m.takeover = false → p.st = .loading → (under p → exec .launchLoad s = .next s) ∧
        (¬ under p → p.kind = 0 → (∀ l j, l ∈ p.cores → ((s.core l).strand j).run ≠ .waiting) → ∃ t, exec .launchLoad s = .next t ∧
          t.mgmt.loading = none ∧ (∀ q, q ∈ t.mgmt.parts → q.recVa = p.recVa → q.st = .running) ∧
          ∀ l, l ∈ p.cores → ∃ z, z ∈ (t.core l).locals ∧ z.msg = start)) ∧
      (p.resv = true ∨ p.kind = 3 ∨ m.gridC < 16 * (p.col0 + p.ncol) ∨ m.gridR < 8 * (p.row0 + p.nrow) → m.recordCause p = 1) ∧
      (m.takeover = false → p.st ≠ .loading → p.kind = 2 ∨ m.inTheWay p = [] →
        (m.recordCause p ≠ 0 → p.remap = false → ∃ t, exec .launchLoad s = .next t ∧ t.mgmt.loading = none ∧ t.mgmt.parts = m.parts) ∧
        ∀ u g, m.recordCause p = 0 → p.kind = 0 → (s.writeStatus p 2 0 0 0 0).readImage p.image = (u, .image g) → u.imageCause p g = none →
          ∃ t r, exec .launchLoad s = .next t ∧ t.mgmt.loading = some r ∧ r = { p with rowdiv := BitVec.ofNat 4 g.rowdiv, st := .loading } ∧
            t.mgmt.parts = m.parts.filter (fun q => q.recVa != p.recVa) ++ [r] ∧ t.mgmt.cfgNet = m.cfgNet ++ [(p.coreAt 0 0, .code p.recVa g.sections, 0)] ∧
            t.mgmt.sent = m.sent ++ [(p.coreAt 0 0, .code p.recVa g.sections)] ∧
            ∀ l, l ∈ p.cores → (t.core l).skein = p.recVa ∧ (t.core l).part = some p.part ∧ (t.core l).priv = p.priv ∧
              (t.core l).sigSeed = p.sigs ∧ (t.core l).cfgOuts = (if (p.rel l).2 = 0 ∧ (p.rel l).1 + 1 < 16 * p.ncol then [1] else []) ++
                (if (p.rel l).2 + 1 < 8 * p.nrow then [2] else []) ++ [4])) ∧
    (x.cfgIn = [] ∨ (∃ o, o ∈ outs ∧ s.credit c o cfgClass = false) → ∃ t, exec (.configClassMessage c) s = .next t ∧
      ((t.core c).cfgIn, t.mgmt.cfgNet) = entered x.cfgIn ∧ (∀ l, l ≠ c → t.core l = s.core l) ∧
      (t.core c).used = x.used ∧ (t.core c).owed = x.owed ∧ (t.core c).sram = x.sram ∧ (t.core c).cfg = x.cfg) ∧
    (∀ z rest, x.cfgIn = z :: rest →
      ((∀ o, o ∈ outs → s.credit c o cfgClass = true) → (outs.map to_).Nodup → c ∉ outs.map to_ → ∃ t, exec (.configClassMessage c) s = .next t ∧
        ((t.core c).cfgIn, t.mgmt.cfgNet) = entered rest ∧
        (∀ o, o ∈ outs → (t.core (to_ o)).cfgIn = (s.core (to_ o)).cfgIn ++ [{ z with port := opposite o }] ∧
          countOf (o, cfgClass) (t.core c).used = countOf (o, cfgClass) x.used + 1) ∧
        (z.port < 4 → countOf (z.port, cfgClass) (t.core c).owed = countOf (z.port, cfgClass) x.owed + 1) ∧
        (z.brings = none → (t.core c).sram = x.sram ∧ (t.core c).cfg = x.cfg) ∧
        (∀ r g plb, z.brings = some (.splice r g plb) → (∃ p, p ∈ m.parts ∧ p.recVa = r) →
          (t.core c).cfg = if (x.cfg.any fun a => a.record == r) || x.skein == r then x.cfg else x.cfg ++ [.splice r g plb]) ∧
        (∀ r ss p sec, z.brings = some (.code r ss) → (m.parts.find? fun p => p.recVa == r) = some p → mine (p.rel c).1 (p.rel c).2 ss = [sec] →
          Memory.wf x.sram = true → sec.addr + sec.data.length ≤ 65536 →
          ∀ i, i < sec.data.length → Memory.get (t.core c).sram (sec.addr + i) = sec.data.getD i 0))) ∧
    ∀ r g plb rest, x.cfg = .splice r g plb :: rest →
      (x.splice = false ∨ x.residents ≠ [] → exec (.spliceAccept c) s = .next s) ∧
      ∀ p, x.splice = true → x.residents = [] → (m.parts.find? fun q => q.recVa == r) = some p → (∀ q, q ∈ m.parts → q.succOf ≠ some r) →
        ∃ t, exec (.spliceAccept c) s = .next t ∧ (t.core c).skein = r ∧ (t.core c).part = some p.part ∧ (t.core c).sigSeed = p.sigs ∧
          (t.core c).priv = p.priv

/-- EXIT_REPORT is held once the core of a partition, not frozen, has no strand, copy, injection, live tag or edge operation
left. DRAIN_PROBE ends a skein whose every core holds its report with no spawn waiting and no flit at its router, where a
message that stands at its core with its whole payload has left none: the partition goes, and its cores lose routes and streams.
FREEZE_WAVE freezes a hub of a freezing partition and sends freeze to its 128 cores. ROUTER_DRAINED: a frozen router without
messages whose neighbours in the partition have stopped is drained. CORE_QUIESCENT: a frozen core whose issued work is done
freezes its strands. CONTEXT_SAVE of a cluster all drained and quiescent writes the image's header where it is the first, the
hub's segment and a segment for each core, which begins with the bytes of its SRAM, and empties the cores; a page it may not
write posts a SAVEF record to the management queue and stalls it. FREEZE_ANSWER answers 2 for a partition freezing already, 1
for none running, 3 for one without a save area, and else begins the freeze. Otherwise each does nothing. (Where the spec leaves
a choice: log entries 35, 36 and 48.) [14_system_traps.md R370; 14_system_traps.md R371; 14_system_traps.md R372;
14_system_traps.md R373; 14_system_traps.md R374; 14_system_traps.md R381; 13_power_time.md R420; 07_messages.md R178;
10_edge_memory.md R282] -/
def Obligations.FreezesAndEnds : Prop :=
  ∀ (s : State) (c h pn k : Nat) (d : BitVec 4) (n : Word),
    let m := s.mgmt
    let x := s.core c
    let tags := tagNums.any fun j => (x.tag j).live
    let busy := x.part = none ∨ x.frozen = true ∨ x.exitRep = .held ∨ x.residents ≠ [] ∨ x.copies ≠ [] ∨ x.inject ≠ [] ∨ tags = true ∨ s.edgeCount c ≠ 0
    let ending := m.parts.find? fun q => q.part == pn && q.st == .running && !(m.parts.any fun r => r.succOf == some q.recVa)
    let quietAt := fun (p : PartRec) (l : Nat) => (s.core l).skein = p.recVa ∧ (s.core l).exitRep = .held ∧ (s.core l).inputs = [] ∧ (s.core l).ways = [] ∧
      (s.core l).emits = [] ∧ (∀ z, z ∈ (s.core l).locals → z.st = .stands ∧ z.whole = true) ∧ (s.core l).spawnQ = []
    let freezing := m.parts.find? fun q => (q.st == .freezing || q.st == .saving) && q.hubs.contains h
    let u := s.hub h
    let stopped := ∀ a l, a < 4 → s.neighbour c a = some l → (s.core l).frozen = true
    let ready := u.frozen = true ∧ u.saved = false ∧ u.savef = false ∧
      (∀ l, l ∈ hubCores h → (s.core l).quiescent = true ∧ (s.core l).drained = true) ∧
      (∀ r, r ∈ s.hubReqs → hubOf r.core ≠ h) ∧ ∀ r, r ∈ s.hubReps → hubOf r.1 ≠ h
    let b := s.ebrick ((hubCores h).headD 0)
    let place := fun (p : PartRec) => (h / 64 - p.row0) * p.ncol + (h % 64 - p.col0)
    let seg := fun (p : PartRec) => p.save + 0x10000 + place p * (20608 * 1024)
    let fault := fun (p : PartRec) => s.saveFault b p.domain ((if place p = 0 then pages p.save 65536 else []) ++ pages (seg p) (20608 * 1024))
    let headed := fun (v : State) (p : PartRec) => if place p = 0 then v.brickWrite b p.save (p.header v.time v.mgmt.serial.toNat) else v
    let hubSaved := fun (v : State) (p : PartRec) => v.brickWrite b (seg p) ({ u with buf := recordsSaved 16 p.part u.buf }.segment
      (((hubCores h).filter fun l => (v.core l).exitRep == ExitSt.held).map clusterPos) p.rowdiv)
    let asked := takeFirst (fun f : Nat × BitVec 3 × BitVec 4 × Word => f.1 == c && f.2.1 == BitVec.ofNat 3 k) m.freezeAns
    (busy → exec (.exitReport c) s = .next s) ∧
    (¬ busy → ∃ t, exec (.exitReport c) s = .next t ∧ (t.core c).exitRep = .held) ∧
    (ending = none → exec (.drainProbe pn) s = .next s) ∧
    (∀ p, ending = some p →
      ((∀ l, l ∈ p.cores → quietAt p l) → ∃ t, exec (.drainProbe pn) s = .next t ∧ t.mgmt.parts = m.parts.filter (fun q => q.recVa != p.recVa) ∧
        ∀ l, l ∈ p.cores → (t.core l).routes = Vector.replicate 64 0 ∧ (t.core l).streams = Vector.replicate 16 Stream.reset ∧
          (t.core l).part = none) ∧
      (¬ (∀ l, l ∈ p.cores → quietAt p l) → exec (.drainProbe pn) s = .next s)) ∧
    (freezing = none ∨ u.frozen = true → exec (.freezeWave h) s = .next s) ∧
    (freezing ≠ none → u.frozen = false → exec (.freezeWave h) s =
      .next { s.setHub h { u with frozen := true, saved := false, savef := false } with
        hubReps := s.hubReps ++ (hubCores h).map fun l => (l, 0, HubRep.freeze) }) ∧
    (x.frozen = true → x.drained = false → x.inputs = [] → stopped → exec (.routerDrained c) s = .next (s.setCore c { x with drained := true })) ∧
    (x.frozen = false ∨ x.drained = true ∨ x.inputs ≠ [] ∨ ¬ stopped → exec (.routerDrained c) s = .next s) ∧
    (x.frozen = true → x.quiescent = false → s.coreSettled c = true → ∃ t, exec (.coreQuiescent c) s = .next t ∧ (t.core c).quiescent = true ∧
      (∀ j, (x.strand j).resident = true → ((t.core c).strand j).frozen = true) ∧ s.sameMemory t) ∧
    (x.frozen = false ∨ x.quiescent = true ∨ s.coreSettled c = false → exec (.coreQuiescent c) s = .next s) ∧
    (freezing = none ∨ ¬ ready → exec (.contextSave h) s = .next s) ∧
    (∀ p, freezing = some p → ready →
      (∀ v va, fault p = (v, some va) → ∃ t r, exec (.contextSave h) s = .next t ∧ (t.hub h).savef = true ∧ t.mgmt.held = v.mgmt.held ++ [r] ∧
        r.d2 = BitVec.ofNat 64 va ∧ r.d0.toNat % 256 = 0x23) ∧
      (∀ v, fault p = (v, none) → ∃ t, exec (.contextSave h) s = .next t ∧ (t.hub h).saved = true ∧
        ((hubCores h).zipIdx.foldl (fun y e => y.saveCore b (seg p + 0x20000 + e.2 * 0x28000) e.1) (hubSaved (headed v p) p)).sameMemory t ∧
        (h < 7680 → ∀ l, l ∈ hubCores h → (t.core l).residents = []) ∧ ∃ q, q ∈ t.mgmt.parts ∧ q.recVa = p.recVa ∧ q.st = .saving)) ∧
    (∀ a l n, (s.parked l n).segment.take 65536 = (List.range 65536).map (fun i => Memory.get (s.core l).sram i) ∧
      ∀ e, Memory.get (s.saveCore b a l).edge e =
        Memory.get (({ s with nextId := s.nextId + 1 } : State).brickWrite b a (s.parked l (nobody + s.nextId)).segment).edge e) ∧
    (asked = none → exec (.freezeAnswer c k) s = .next s) ∧
    ∀ rest, asked = some ((c, BitVec.ofNat 3 k, d, n), rest) →
      let going := m.parts.any fun p => p.part == n.toNat && (p.st == .freezing || p.st == .saving)
      let target := m.parts.find? fun p => p.part == n.toNat && p.st == .running
      let answers := fun (v : Word) => exec (.freezeAnswer c k) s = .next (({ s with mgmt := { m with freezeAns := rest } } : State).setCore c
        (x.setStrand (BitVec.ofNat 3 k) ((x.strand (BitVec.ofNat 3 k)).answer d v (x.nextCycle + 1))))
      (going = true → answers 2) ∧ (going = false → target = none → answers 1) ∧
      ∀ p, going = false → target = some p → (∀ q, q ∈ m.parts → p.succOf ≠ some q.recVa) → (p.save = 0 → answers 3) ∧
        (p.save ≠ 0 → ∃ t q, exec (.freezeAnswer c k) s = .next t ∧ q ∈ t.mgmt.parts ∧ q.recVa = p.recVa ∧ q.st = .freezing)

/-- REGISTER_WRITE needs a host port, 4 or 8 aligned bytes and an offset in BAR0, else nothing changes; 8 bytes write the
register, a low half is staged, a high half writes both. Shown for the arguments, MGMTCMD (which starts a command of code 1 to
5, refuses another with reason 1 and is ignored during one), BOOTCFG (ILG 7 stores 6), MIGCTL (a threshold outside 4 to 20
stores 20, MISSED clears) and MQHEAD (the head moves). QUEUE_DESCRIPTOR_WRITE writes TAILVA or the control bits of a queue. A
command's event with another command or none in progress changes nothing. ETINV on unaligned arguments is refused with reason 4;
else it drops the range from every lookaside and is done once every request that it found translated through what it drops is
performed. RETRY clears SAVEF in the hubs of a partition, refused with 4 for a number above 63 and 2 for a partition that is not
resident. MAPCOMMIT outside salvage is refused with 5, else copies A and B hold the stamped map of record. ABORT drops the
partition and what is spliced behind it; RELEASE frees a stopped strand and is refused with 3 otherwise. (Where the spec leaves
a choice: log entries 22, 38, 39, 40 and 48.) [10_edge_memory.md R271; 10_edge_memory.md R281; 10_edge_memory.md R282;
14_system_traps.md R364; 14_system_traps.md R368; 14_system_traps.md R384; 14_system_traps.md R385; 15_wafer_boot.md R392;
15_wafer_boot.md R403; 10_edge_memory.md Table 10.7; 14_system_traps.md Table 14.5; 15_wafer_boot.md Table 15.3] -/
def Obligations.ManagementWindow : Prop :=
  ∀ (s : State) (port off len q half b v : Nat) (w : BitVec 64),
    let m := s.mgmt
    let with_ := fun (n : Mgmt) => ({ s with mgmt := n } : State)
    let done := fun (t : State) (reason : Nat) =>
      t.mgmt.cmdStat = BitVec.ofNat 32 ((if reason = 0 then 2 else 3) + 256 * reason + 65536 * m.cmd.toNat)
    let refuses := fun (i : Instr) (reason : Nat) => ∃ t, exec i s = .next t ∧ t = with_ { m with cmdStat := t.mgmt.cmdStat } ∧ done t reason
    let inProgress := fun (code : Nat) => m.cmdStat.toNat % 4 = 1 ∧ m.cmd = BitVec.ofNat 64 code ∧ m.takeover = false
    let resident := m.parts.filter fun p => p.part == m.arg0.toNat && p.resident
    let mq := (s.brick b).mq
    let ahead := fun (i : Nat) => (i + 2 ^ 32 - mq.head.toNat % 2 ^ 32) % 2 ^ 32
    let unpassed := fun (e : (Nat × Nat) × Nat) => decide (ahead (v % 2 ^ 32) ≤ ahead e.2)
    let dropped := fun (u : Tlb) => m.etinvHits (u.va / 2 ^ u.bits * 2 ^ u.bits) (2 ^ u.bits)
    let hit := fun (r : EdgeReq) => r.translated = true ∧ ∃ p, p ∈ r.pieces ∧ (m.etinvHits p.va p.n = true ∨
      ∃ e u, e ∈ s.bricks ∧ u ∈ e.2.tlb ∧ dropped u = true ∧ p.va / 2 ^ u.bits = u.va / 2 ^ u.bits)
    let key := (port, off / 8 * 8)
    let kept := m.staged.filter fun e => e.1 != key
    (s.hostPort port = false ∨ (len ≠ 4 ∧ len ≠ 8) ∨ off % len ≠ 0 ∨ 2 ^ 26 ≤ off → exec (.registerWrite port off len w) s = .next s) ∧
    (s.hostPort port = true → off % 8 = 0 → off < 2 ^ 26 →
      exec (.registerWrite port off 8 w) s = .next ((with_ { m with staged := kept }).writeWindow off w.toNat) ∧
      exec (.registerWrite port off 4 w) s = .next (with_ { m with staged := kept ++ [(key, w.truncate 32)] }) ∧
      ∀ low, (m.staged.find? fun e => e.1 == key) = some (key, low) → exec (.registerWrite port (off + 4) 4 w) s =
        .next ((with_ { m with staged := kept }).writeWindow off (low.toNat + 2 ^ 32 * (w.toNat % 2 ^ 32)))) ∧
    s.writeWindow 0x108 v = with_ { m with arg0 := BitVec.ofNat 64 v } ∧ s.writeWindow 0x110 v = with_ { m with arg1 := BitVec.ofNat 64 v } ∧
    s.writeWindow 0x118 v = with_ { m with arg2 := BitVec.ofNat 64 v } ∧
    (m.cmdStat.toNat % 4 = 1 → s.writeWindow 0x100 v = s) ∧
    (m.cmdStat.toNat % 4 ≠ 1 → v < 256 → s.writeWindow 0x100 v =
      with_ { m with cmd := BitVec.ofNat 64 v, cmdStat := BitVec.ofNat 32 (if 1 ≤ v ∧ v ≤ 5 then 1 + 65536 * v else 3 + 256 + 65536 * v) }) ∧
    exec (.bootcfgWrite (w.truncate 32)) s = .next
      (with_ { m with flashCfg := BitVec.ofNat 32 (let x := w.toNat % 2 ^ 15; if x / 2 ^ 12 = 7 then x - 2 ^ 12 else x) }) ∧
    (∃ t, exec (.migctlWrite b v) s = .next t ∧ (b < 32 → (t.brick b).th = (if 4 ≤ v % 32 ∧ v % 32 ≤ 20 then BitVec.ofNat 5 v else 20) ∧
      (t.brick b).en = v.testBit 5 ∧ (t.brick b).missed = 0) ∧ (32 ≤ b → t = s) ∧ s.sameMemory t) ∧
    (32 ≤ b → exec (.mqheadWrite b v) s = .next s) ∧
    (b < 32 → (s.brick b).counters = [] → exec (.mqheadWrite b v) s =
      .next (s.setBrick b { s.brick b with mq := { mq with head := BitVec.ofNat 64 v }, qfull := false, queued := (s.brick b).queued.filter unpassed })) ∧
    (64 ≤ q ∨ 2 ≤ half → exec (.queueDescriptorWrite q half w) s = .next s) ∧
    (q < 64 → half < 2 → ∃ t, exec (.queueDescriptorWrite q half w) s = .next t ∧ t.mgmt.queues = wr m.queues (BitVec.ofNat 6 q)
      (BitVec.ofNat 128 (if half = 0 then (m.queue (BitVec.ofNat 6 q)).toNat / 2 ^ 64 * 2 ^ 64 + w.toNat % 2 ^ 57
        else (m.queue (BitVec.ofNat 6 q)).toNat % 2 ^ 64 + 2 ^ 64 * (w.toNat % 2 ^ 7)))) ∧
    (∀ i code, (i, code) ∈ [(Instr.etinv, 1), (.retry, 2), (.mapcommit, 3), (.abort, 4), (.release, 5)] →
      (¬ inProgress code → exec i s = .next s) ∧
      (inProgress code → (code = 2 ∨ code = 5 ∨ (code = 4 ∧ m.loading = none)) → (64 ≤ m.arg0.toNat → refuses i 4) ∧
        (m.arg0.toNat < 64 → resident = [] → refuses i 2))) ∧
    (inProgress 1 → (m.arg0.toNat % 65536 ≠ 0 ∨ m.arg1.toNat % 65536 ≠ 0 → refuses .etinv 4) ∧
      (m.arg0.toNat % 65536 = 0 → m.arg1.toNat % 65536 = 0 → ∃ t, exec .etinv s = .next t ∧ s.sameMemory t ∧
        (∀ e u, e ∈ t.bricks → u ∈ e.2.tlb → dropped u = false) ∧
        (m.etinv = none → (∀ r, r ∈ s.reqs → ¬ hit r) → done t 0) ∧
        (m.etinv = none → (∃ r, r ∈ s.reqs ∧ hit r) → ∃ ids, t.mgmt = { m with etinv := some ids } ∧ ∀ r, r ∈ s.reqs → hit r → r.id ∈ ids) ∧
        ∀ ids, m.etinv = some ids → ((∀ r, r ∈ s.reqs → r.translated = true → r.id ∉ ids) → done t 0) ∧
          ((∃ r, r ∈ s.reqs ∧ r.translated = true ∧ r.id ∈ ids) → t.mgmt = m))) ∧
    (inProgress 2 → m.arg0.toNat < 64 → resident ≠ [] → ∃ t, exec .retry s = .next t ∧ done t 0 ∧ s.sameMemory t ∧
      ∀ p h, p ∈ resident → h ∈ p.hubs → (t.hub h).savef = false) ∧
    (inProgress 3 → (m.bootCause.getLsbD 3 = false → refuses .mapcommit 5) ∧
      (m.bootCause.getLsbD 3 = true → ∃ t, exec .mapcommit s = .next t ∧ done t 0 ∧ t.mgmt.copyA = m.recMap.stamp 2 m.serial s.time ∧
        t.mgmt.copyB = t.mgmt.copyA ∧ t.mgmt.recMap = t.mgmt.copyA ∧ t.mgmt.map = m.map ∧ s.sameMemory t)) ∧
    (inProgress 4 → m.loading = none → m.arg0.toNat < 64 → ∀ p, resident = [p] →
      ((∀ q, q ∈ m.parts → q.succOf = none) → ∃ t, exec .abort s = .next t ∧ done t 0 ∧
        t.mgmt.parts = m.parts.filter (fun r => r.recVa != p.recVa) ∧ ∀ l, l ∈ p.cores → (t.core l).part = none) ∧
      (∀ q, m.parts = [p, q] → p.succOf = none → q.succOf = some p.recVa → q.recVa ≠ p.recVa → ∃ t, exec .abort s = .next t ∧ done t 0 ∧
        t.mgmt.parts = [])) ∧
    (inProgress 5 → m.arg0.toNat < 64 → ∀ p rest, resident = p :: rest →
      let c := m.arg1.toNat % 1024
      let r := m.arg1.toNat / 1024 % 1024
      let l := p.coreAt c r
      let k : BitVec 3 := BitVec.ofNat 3 m.arg2.toNat
      let stopped := c < 16 * p.ncol ∧ r < 8 * p.nrow ∧ ((s.core l).strand k).run = .stopped
      (¬ stopped → refuses .release 3) ∧
      (stopped → ∃ t, exec .release s = .next t ∧ done t 0 ∧ ((t.core l).strand k).run = .free ∧ s.sameMemory t))

/-- POWER_ON of stage 1 on a module without power starts it from reset with its flash, fuses and defects; a stage n from 2 to 8
completes step n once step n - 1 is complete, after 7 launches are accepted; a stage out of turn changes nothing. DISCOVERY_FLIT
adds a site the flood reaches in step 4. CXL_LINK_TRAINING sets a port's link state while step 8 runs. POWER_REMOVAL leaves
power off and keeps serial, flash and map copies. Step 7 first deals the bring-up skein over the whole grid. The third
HEARTBEAT_MISS in a row begins a takeover; the next HEARTBEAT makes the lowest standby that has missed three leader under a new
epoch, and slews, and what a loading record has sent down its tree is sent again; otherwise it clears the count. TRANSIENT_ERROR
logs the error and counts it at its site. CONTROL_REPLY_TIMEOUT sends the request once more, and is a lasting failure of the
site when it comes again. LASTING_FAILURE of an unmarked site, while no other is pending, freezes the running partitions it
strikes; where it strikes none, the map of record and copy A mark it; before step 6 it does nothing. FREEZE_COMPLETE, once every
hub has saved, writes STATUS with state frozen and then TEND into the record, and frees the rectangle or keeps the record frozen
for a remap. (Where the spec leaves a choice: log entries 27, 42, 43, 44 and 48.) [10_edge_memory.md R264; 14_system_traps.md
R372; 15_wafer_boot.md R391; 15_wafer_boot.md R392; 15_wafer_boot.md R399; 15_wafer_boot.md R400; 15_wafer_boot.md R401;
15_wafer_boot.md R404; 15_wafer_boot.md R405; 15_wafer_boot.md R406; 15_wafer_boot.md Table 15.5; 01_machine.md R26] -/
def Obligations.BootAndFailures : Prop :=
  ∀ (s : State) (n x y b p kind site pn c : Nat),
    let m := s.mgmt
    let k := siteIx (x, y)
    let with_ := fun (n : Mgmt) => ({ s with mgmt := n } : State)
    let claims := fun (i : BitVec 2) => m.alive.getLsbD i.toNat = true ∧ i ≠ m.leader ∧ 3 ≤ rd m.missed i
    let early := m.transients.filter fun e => decide (s.time < e.2 + 3600000000000)
    let frozen := m.parts.find? fun q => q.part == pn && (q.st == .freezing || q.st == .saving)
    let told := fun (q : PartRec) => s.dealWrite (q.recVa + 48) (6 + 4096 * q.sprio.toNat + 2 ^ 16 * q.accepted)
    let ends := fun (q : PartRec) (t : State) => ((told q).dealWrite (q.recVa + 64) (told q).time).sameMemory t
    (s.power = true → exec (.powerOn 1) s = .next s) ∧
    (s.power = false → m.alive ≠ 0 → ∃ t, exec (.powerOn 1) s = .next t ∧ t.power = true ∧ t.mgmt.bootStep = 1 ∧ t.time = State.reset.time ∧
      t.cores = State.reset.cores ∧ t.edge = [] ∧ t.mgmt.bootCfg = m.flashCfg ∧ t.mgmt.serial = m.serial ∧ t.mgmt.flashCfg = m.flashCfg ∧
      t.mgmt.alive = m.alive ∧ t.mgmt.badSites = m.badSites ∧ t.mgmt.badLinks = m.badLinks ∧ t.mgmt.badHubs = m.badHubs ∧ t.mgmt.firmware = m.firmware ∧
      t.mgmt.copyA = m.copyA ∧ t.mgmt.copyB = m.copyB ∧ t.mgmt.copyC = m.copyC ∧ some t.mgmt.leader = lowest m.alive ∧ ∀ b p, b < 32 → p < 6 → (t.port b p).st = 1) ∧
    (n ≠ 1 → s.power = false ∨ m.bootStep + 1 ≠ n ∨ m.takeover = true → exec (.powerOn n) s = .next s) ∧
    (2 ≤ n → n ≤ 8 → s.power = true → m.bootStep + 1 = n → m.takeover = false →
      (n = 4 → ∀ j, j < 1072512 → m.floods j = false) → (n = 7 → s.bootDeal.2 = true) → (n = 8 → ∀ j (q : BitVec 2), j < 32 → (rd (s.brick j).cxl q).link ≠ 1) →
      ∃ t, exec (.powerOn n) s = .next t ∧ t.mgmt.bootStep = n ∧ t.mgmt.bootProg.getLsbD 4 = decide (7 ≤ n) ∧ s.sameMemory t) ∧
    (s.power = true → m.bootStep = 6 → m.takeover = false → m.gridC ≠ 0 → m.gridR ≠ 0 → m.loading = none → m.bringUp = 0 → ∃ t q, exec (.powerOn 7) s = .next t ∧
      t.mgmt.bootProg = m.bootProg ∧ t.mgmt.bringUp = 1 ∧ t.mgmt.loading = some q ∧ q.st = .loading ∧ q.ncol = m.gridC / 16 ∧ q.nrow = m.gridR / 8) ∧
    (s.power = true → m.bootStep = 3 → x < 1064 → m.floods k = true →
      exec (.discoveryFlit x y) s = .next { s with mgmt := { m with discovered := m.discovered ++ [k] } }) ∧
    (s.power = false ∨ m.bootStep ≠ 3 ∨ 1064 ≤ x ∨ m.floods k = false → exec (.discoveryFlit x y) s = .next s) ∧
    (s.power = false ∨ m.bootStep ≠ 7 ∨ 32 ≤ b ∨ 4 ≤ p → exec (.cxlLinkTraining b p kind) s = .next s) ∧
    (s.power = true → m.bootStep = 7 → b < 32 → p < 4 → ∃ t, exec (.cxlLinkTraining b p kind) s = .next t ∧ s.sameMemory t ∧
      let z : Cxl := rd (t.brick b).cxl (BitVec.ofNat 2 p)
      z.link = (if kind % 4 = 1 then 2 else if kind % 4 = 3 then 1 else 0) ∧ z.host = (rd (s.brick b).cxl (BitVec.ofNat 2 p)).host ∧
        z.lanes = (if kind % 4 = 1 then (if kind.testBit 2 then 16 else 8) else 0)) ∧
    (∃ t, exec .powerRemoval s = .next t ∧ t.power = false ∧ t.mgmt.serial = m.serial ∧ t.mgmt.flashCfg = m.flashCfg ∧ t.mgmt.copyA = m.copyA ∧
      t.mgmt.copyB = m.copyB ∧ t.mgmt.copyC = m.copyC) ∧
    (m.takeover = true → (∀ i, ¬ claims i) → exec .heartbeat s = .next s) ∧
    (∀ i, m.takeover = true → claims i → (∀ j : BitVec 2, j.toNat < i.toNat → ¬ claims j) → ∃ t, exec .heartbeat s = .next t ∧
      t.mgmt.leader = i ∧ t.mgmt.epoch = m.epoch + 1 ∧ t.mgmt.takeover = false ∧ t.mgmt.missed = Vector.replicate 4 0 ∧ t.mgmt.slew ≠ none ∧
      ∀ q, m.parts = [q] → q.st = .loading → t.mgmt.cfgNet = m.cfgNet.filter (fun e => e.2.1.record != q.recVa) ++
        (m.sent.filter fun e => e.2.record == q.recVa).map fun e => (e.1, e.2, 0)) ∧
    (m.takeover = false → m.bootStep ≠ 0 → exec .heartbeat s = .next { s with mgmt := { m with missed := Vector.replicate 4 0 } }) ∧
    (n < 4 → n ≠ m.leader.toNat → m.alive.getLsbD n = true → m.bootStep ≠ 0 → exec (.heartbeatMiss n) s =
      .next { s with mgmt := { m with missed := wr m.missed (BitVec.ofNat 2 n) (rd m.missed (BitVec.ofNat 2 n) + 1), takeover := m.takeover || decide (3 ≤ rd m.missed (BitVec.ofNat 2 n) + 1) } }) ∧
    (4 ≤ n ∨ n = m.leader.toNat ∨ m.alive.getLsbD n = false ∨ m.bootStep = 0 → exec (.heartbeatMiss n) s = .next s) ∧
    (5 ≤ kind ∨ s.power = false → exec (.transientError site kind) s = .next s) ∧
    (kind < 5 → kind ≠ 2 → s.power = true → (early.filter fun e => e.1 == site).length < 64 → m.errlog.full = false →
      ∃ t, exec (.transientError site kind) s = .next t ∧ t.mgmt.transients = early ++ [(site, s.time)] ∧
        t.mgmt.errlog.tail = BitVec.ofNat 64 ((m.errlog.tail.toNat + 1) % 2 ^ 32)) ∧
    ((∀ r, r ∈ s.hubReqs → r.core ≠ c) → exec (.controlReplyTimeout c) s = .next s) ∧
    ((∃ r, r ∈ s.hubReqs ∧ r.core = c) →
      (c ∉ m.resent → exec (.controlReplyTimeout c) s = .next (with_ { m with resent := m.resent ++ [c] })) ∧
      (c ∈ m.resent → 6 ≤ m.bootStep → exec (.controlReplyTimeout c) s =
        exec (.lastingFailure (siteIx (m.site c)) 0) (with_ { m with resent := m.resent.erase c }))) ∧
    (m.bootStep < 6 → exec (.lastingFailure site kind) s = .next s) ∧
    (m.failures = [] → 1072512 ≤ site ∨ 4 ≤ kind ∨ m.map.marked site kind = true → exec (.lastingFailure site kind) s = .next s) ∧
    (6 ≤ m.bootStep → site < 1072512 → kind < 4 → m.map.marked site kind = false → m.failures = [] → (∀ r, r ∈ m.parts → r.remap = false) →
      ((∀ r, r ∈ m.parts → r.succOf = none) → (∃ q, q ∈ m.struck site kind ∧ q.st = .running) → ∃ t, exec (.lastingFailure site kind) s = .next t ∧
        t.mgmt.failures = [(site, kind)] ∧ ∀ q, q ∈ m.struck site kind → q.st = .running →
          ∃ r, r ∈ t.mgmt.parts ∧ r.recVa = q.recVa ∧ r.st = .freezing ∧ r.remap = true) ∧
      (m.struck site kind = [] → kind = 0 → ∃ t, exec (.lastingFailure site kind) s = .next t ∧ t.mgmt.failures = [] ∧
        t.mgmt.copyA = t.mgmt.recMap ∧ lookup 0 t.mgmt.recMap.sites site = 1 ∧ s.sameMemory t)) ∧
    (frozen = none → exec (.freezeComplete pn) s = .next s) ∧
    ∀ q, frozen = some q →
      ((∃ h, h ∈ q.hubs ∧ (s.hub h).saved = false) → exec (.freezeComplete pn) s = .next s) ∧
      ((∀ h, h ∈ q.hubs → (s.hub h).saved = true) → q.remap = false → m.failures = [] → ∃ t, exec (.freezeComplete pn) s = .next t ∧
        t.mgmt.parts = m.parts.filter (fun r => r.recVa != q.recVa) ∧ ∀ h, h ∈ q.hubs → (t.hub h).frozen = false ∧ (t.hub h).saved = false) ∧
      ((∀ h, h ∈ q.hubs → (s.hub h).saved = true) → m.failures = [] → ∃ t, exec (.freezeComplete pn) s = .next t ∧ ends q t) ∧
      ((∀ h, h ∈ q.hubs → (s.hub h).saved = true) → q.remap = true → m.failures = [] → ∃ t r, exec (.freezeComplete pn) s = .next t ∧
        r ∈ t.mgmt.parts ∧ r.recVa = q.recVa ∧ r.st = .frozen)
end

