-- ==== Sys2Proof/Laws/Memory.lean ====
section
/-! SUPPORT. The laws of sparse maps, vectors and memories: reading after writing, and the canonical form that every memory
operation keeps. -/

namespace Sys2Proof.Machine

/-! ### Sparse maps -/

theorem lookup_insert_self {α : Type} (d : α) (k : Nat) (v : α) (l : List (Nat × α)) : lookup d (insert k v l) k = v := by
  induction l with
  | nil => simp [insert, lookup]
  | cons e t ih =>
    obtain ⟨j, w⟩ := e
    simp only [insert]
    split
    · rename_i h
      simp [lookup, Nat.ne_of_lt h, ih]
    · split <;> simp [lookup]

theorem lookup_insert_ne {α : Type} (d : α) {k k' : Nat} (h : k' ≠ k) (v : α) (l : List (Nat × α)) :
    lookup d (insert k v l) k' = lookup d l k' := by
  induction l with
  | nil => simp [insert, lookup, h.symm]
  | cons e t ih =>
    obtain ⟨j, w⟩ := e
    simp only [insert]
    split
    · simp only [lookup, ih]
    · split
      · rename_i hj
        subst hj
        simp [lookup, h.symm]
      · simp [lookup, h.symm]

/-- The later of two writes of one key stands. -/
theorem insert_insert {α : Type} {k : Nat} (v w : α) (l : List (Nat × α)) : insert k w (insert k v l) = insert k w l := by
  induction l with
  | nil => simp [insert]
  | cons e t ih =>
    obtain ⟨j, x⟩ := e
    by_cases h1 : j < k
    · simp [insert, h1, ih]
    · by_cases h2 : j = k
      · simp [insert, h2]
      · simp [insert, h1, h2]

/-! ### Vectors -/

@[simp] theorem rd_wr_self {α : Type} {k : Nat} (v : Vector α (2 ^ k)) (i : BitVec k) (x : α) : rd (wr v i x) i = x := by
  simp [rd, wr]

theorem rd_wr_ne {α : Type} {k : Nat} (v : Vector α (2 ^ k)) {i j : BitVec k} (h : j ≠ i) (x : α) : rd (wr v i x) j = rd v j := by
  have : i.toNat ≠ j.toNat := fun e => h (BitVec.eq_of_toNat_eq e.symm)
  simp [rd, wr, Vector.getElem_set_ne, this]

/-- The later of two writes of one element stands. -/
theorem wr_wr {α : Type} {k : Nat} (v : Vector α (2 ^ k)) (i : BitVec k) (x y : α) : wr (wr v i x) i y = wr v i y := by
  simp [wr]

/-! ### Memory -/

namespace Memory

theorem wfFrom_mono {lo lo' : Nat} {m : List Host.Cell} (h : wfFrom lo m = true) (hl : lo' ≤ lo) : wfFrom lo' m = true := by
  cases m with
  | nil => rfl
  | cons e t =>
    obtain ⟨a, v⟩ := e
    simp only [wfFrom, Bool.and_eq_true, decide_eq_true_eq] at h ⊢
    exact ⟨⟨by omega, h.1.2⟩, h.2⟩

theorem get_below {m : List Host.Cell} : ∀ {lo a : Nat}, wfFrom lo m = true → a < lo → get m a = 0 := by
  induction m with
  | nil => intros; rfl
  | cons e t ih =>
    intro lo a h hl
    obtain ⟨b, v⟩ := e
    simp only [wfFrom, Bool.and_eq_true, decide_eq_true_eq] at h
    have : b ≠ a := by omega
    simp only [get, this, if_false]
    exact ih h.2 (by omega)

theorem set_wfFrom {m : List Host.Cell} : ∀ {lo : Nat} (a : Nat) (v : Byte), wfFrom lo m = true → lo ≤ a → wfFrom lo (set a v m) = true := by
  induction m with
  | nil =>
    intro lo a v _ hl
    simp only [set]
    split
    · rfl
    · simp only [wfFrom, Bool.and_eq_true, decide_eq_true_eq, and_true]
      exact ⟨hl, by simpa using ‹¬ v = 0›⟩
  | cons e t ih =>
    intro lo a v h hl
    obtain ⟨b, w⟩ := e
    have h' := h
    simp only [wfFrom, Bool.and_eq_true, decide_eq_true_eq] at h
    simp only [set]
    split
    · rename_i hb
      simp only [wfFrom, Bool.and_eq_true, decide_eq_true_eq]
      exact ⟨h.1, ih a v h.2 (by omega)⟩
    · split
      · rename_i hb
        subst hb
        split
        · exact wfFrom_mono h.2 (by omega)
        · simp only [wfFrom, Bool.and_eq_true, decide_eq_true_eq]
          exact ⟨⟨h.1.1, by simpa using ‹¬ v = 0›⟩, h.2⟩
      · split
        · exact h'
        · simp only [wfFrom, Bool.and_eq_true, decide_eq_true_eq]
          exact ⟨⟨hl, by simpa using ‹¬ v = 0›⟩, ⟨by omega, h.1.2⟩, h.2⟩

theorem get_set_self {m : List Host.Cell} : ∀ {lo : Nat} (a : Nat) (v : Byte), wfFrom lo m = true → get (set a v m) a = v := by
  induction m with
  | nil =>
    intro lo a v _
    simp only [set]
    split <;> simp [get, *]
  | cons e t ih =>
    intro lo a v h
    obtain ⟨b, w⟩ := e
    have h' := h
    simp only [wfFrom, Bool.and_eq_true, decide_eq_true_eq] at h
    simp only [set]
    split
    · rename_i hb
      simp only [get, Nat.ne_of_lt hb, if_false]
      exact ih a v h.2
    · split
      · rename_i hb
        subst hb
        split
        · rename_i hv
          rw [get_below h.2 (by omega), hv]
        · simp [get]
      · split
        · rename_i hb hv
          have hne : b ≠ a := hb
          simp only [get, hne, if_false, hv]
          exact get_below h.2 (by omega)
        · simp [get]

theorem get_set_ne {m : List Host.Cell} {a a' : Nat} (h : a' ≠ a) (v : Byte) : get (set a v m) a' = get m a' := by
  induction m with
  | nil =>
    simp only [set]
    split
    · rfl
    · simp [get, h.symm]
  | cons e t ih =>
    obtain ⟨b, w⟩ := e
    simp only [set]
    split
    · simp only [get, ih]
    · split
      · rename_i hb
        subst hb
        split
        · simp [get, h.symm]
        · simp [get, h.symm]
      · split
        · rfl
        · simp [get, h.symm]

/-- A write keeps the canonical form. -/
theorem set_wf {m : List Host.Cell} (h : wf m = true) (a : Nat) (v : Byte) : wf (set a v m) = true := set_wfFrom a v h (Nat.zero_le a)

theorem write_wf (bs : List Byte) : ∀ {m : List Host.Cell} (a : Nat), wf m = true → wf (write m a bs) = true := by
  induction bs with
  | nil => intro m a h; exact h
  | cons b t ih => intro m a h; exact ih (a + 1) (set_wf h _ b)

theorem writeCells_wf (cs : List Host.Cell) : ∀ {m : List Host.Cell}, wf m = true → wf (writeCells m cs) = true := by
  induction cs with
  | nil => intro m h; exact h
  | cons e t ih => intro m h; exact ih (set_wf h e.1 e.2)

theorem flatWrite_wf (bs : List Byte) : ∀ {m : List Host.Cell} (a : Nat), wf m = true → wf (flatWrite m a bs) = true := by
  induction bs with
  | nil => intro m a h; exact h
  | cons b t ih => intro m a h; exact ih (a + 1) (set_wf h a b)

theorem nil_wf : wf [] = true := rfl

/-- A wrapping write leaves every byte outside its range alone. -/
theorem get_write_other (bs : List Byte) : ∀ (m : List Host.Cell) (a x : Nat), (∀ i < bs.length, x ≠ (a + i) % 65536) →
    get (write m a bs) x = get m x := by
  induction bs with
  | nil => intros; rfl
  | cons b t ih =>
    intro m a x h
    have h0 : x ≠ a % 65536 := by simpa using h 0 (by simp)
    rw [write, ih _ (a + 1) x (fun i hi => by
      have := h (i + 1) (by simpa using hi)
      rwa [show a + 1 + i = a + (i + 1) by omega]), get_set_ne h0]

/-- A wrapping write of at most the whole memory holds each of its bytes. -/
theorem get_write_at (bs : List Byte) : ∀ {m : List Host.Cell} (a : Nat), wf m = true → bs.length ≤ 65536 →
    ∀ i < bs.length, get (write m a bs) ((a + i) % 65536) = bs.getD i 0 := by
  induction bs with
  | nil => intro m a _ _ i hi; simp at hi
  | cons b t ih =>
    intro m a h hl i hi
    cases i with
    | zero =>
      rw [write, get_write_other t _ (a + 1) _ (fun j hj => ?_), Nat.add_zero, get_set_self (a % 65536) b h]
      · simp
      · simp only [List.length_cons] at hl
        omega
    | succ j =>
      have := ih (a + 1) (set_wf h (a % 65536) b) (by simp at hl; omega) j (by simpa using hi)
      rw [write, show a + (j + 1) = a + 1 + j by omega, this]
      simp

end Memory

end Sys2Proof.Machine
end

