-- ==== Sys2Proof/Laws/State.lean ====
section
/-! SUPPORT. One lemma per field per update: what each named update of the state, of a core and of a strand leaves alone, and
what it sets. -/

namespace Sys2Proof.Machine

/-! ### The whole state -/

@[simp] theorem State.setCore_power (s : State) (l : Nat) (c : Core) : (s.setCore l c).power = s.power := rfl
@[simp] theorem State.setCore_cycles (s : State) (l : Nat) (c : Core) : (s.setCore l c).cycles = s.cycles := rfl
@[simp] theorem State.setCore_hubs (s : State) (l : Nat) (c : Core) : (s.setCore l c).hubs = s.hubs := rfl
@[simp] theorem State.setCore_domains (s : State) (l : Nat) (c : Core) : (s.setCore l c).domains = s.domains := rfl
@[simp] theorem State.setCore_bricks (s : State) (l : Nat) (c : Core) : (s.setCore l c).bricks = s.bricks := rfl
@[simp] theorem State.setCore_edge (s : State) (l : Nat) (c : Core) : (s.setCore l c).edge = s.edge := rfl
@[simp] theorem State.setCore_poison (s : State) (l : Nat) (c : Core) : (s.setCore l c).poison = s.poison := rfl
@[simp] theorem State.setCore_reqs (s : State) (l : Nat) (c : Core) : (s.setCore l c).reqs = s.reqs := rfl
@[simp] theorem State.setCore_hubReqs (s : State) (l : Nat) (c : Core) : (s.setCore l c).hubReqs = s.hubReqs := rfl
@[simp] theorem State.setCore_hubReps (s : State) (l : Nat) (c : Core) : (s.setCore l c).hubReps = s.hubReps := rfl
@[simp] theorem State.setCore_colls (s : State) (l : Nat) (c : Core) : (s.setCore l c).colls = s.colls := rfl
@[simp] theorem State.setCore_mgmt (s : State) (l : Nat) (c : Core) : (s.setCore l c).mgmt = s.mgmt := rfl
@[simp] theorem State.setCore_time (s : State) (l : Nat) (c : Core) : (s.setCore l c).time = s.time := rfl
@[simp] theorem State.setCore_cur (s : State) (l : Nat) (c : Core) : (s.setCore l c).cur = s.cur := rfl
@[simp] theorem State.setCore_slot (s : State) (l : Nat) (c : Core) : (s.setCore l c).slot = s.slot := rfl
@[simp] theorem State.setCore_agenda (s : State) (l : Nat) (c : Core) : (s.setCore l c).agenda = s.agenda := rfl
@[simp] theorem State.setCore_free (s : State) (l : Nat) (c : Core) : (s.setCore l c).free = s.free := rfl
@[simp] theorem State.setCore_nextId (s : State) (l : Nat) (c : Core) : (s.setCore l c).nextId = s.nextId := rfl
@[simp] theorem State.setCore_clocks (s : State) (l : Nat) (c : Core) : (s.setCore l c).clocks = s.clocks := rfl
@[simp] theorem State.modCore_power (s : State) (l : Nat) (f : Core → Core) : (s.modCore l f).power = s.power := rfl
@[simp] theorem State.modCore_cycles (s : State) (l : Nat) (f : Core → Core) : (s.modCore l f).cycles = s.cycles := rfl
@[simp] theorem State.modCore_hubs (s : State) (l : Nat) (f : Core → Core) : (s.modCore l f).hubs = s.hubs := rfl
@[simp] theorem State.modCore_domains (s : State) (l : Nat) (f : Core → Core) : (s.modCore l f).domains = s.domains := rfl
@[simp] theorem State.modCore_bricks (s : State) (l : Nat) (f : Core → Core) : (s.modCore l f).bricks = s.bricks := rfl
@[simp] theorem State.modCore_edge (s : State) (l : Nat) (f : Core → Core) : (s.modCore l f).edge = s.edge := rfl
@[simp] theorem State.modCore_poison (s : State) (l : Nat) (f : Core → Core) : (s.modCore l f).poison = s.poison := rfl
@[simp] theorem State.modCore_reqs (s : State) (l : Nat) (f : Core → Core) : (s.modCore l f).reqs = s.reqs := rfl
@[simp] theorem State.modCore_hubReqs (s : State) (l : Nat) (f : Core → Core) : (s.modCore l f).hubReqs = s.hubReqs := rfl
@[simp] theorem State.modCore_hubReps (s : State) (l : Nat) (f : Core → Core) : (s.modCore l f).hubReps = s.hubReps := rfl
@[simp] theorem State.modCore_colls (s : State) (l : Nat) (f : Core → Core) : (s.modCore l f).colls = s.colls := rfl
@[simp] theorem State.modCore_mgmt (s : State) (l : Nat) (f : Core → Core) : (s.modCore l f).mgmt = s.mgmt := rfl
@[simp] theorem State.modCore_time (s : State) (l : Nat) (f : Core → Core) : (s.modCore l f).time = s.time := rfl
@[simp] theorem State.modCore_cur (s : State) (l : Nat) (f : Core → Core) : (s.modCore l f).cur = s.cur := rfl
@[simp] theorem State.modCore_slot (s : State) (l : Nat) (f : Core → Core) : (s.modCore l f).slot = s.slot := rfl
@[simp] theorem State.modCore_agenda (s : State) (l : Nat) (f : Core → Core) : (s.modCore l f).agenda = s.agenda := rfl
@[simp] theorem State.modCore_free (s : State) (l : Nat) (f : Core → Core) : (s.modCore l f).free = s.free := rfl
@[simp] theorem State.modCore_nextId (s : State) (l : Nat) (f : Core → Core) : (s.modCore l f).nextId = s.nextId := rfl
@[simp] theorem State.modCore_clocks (s : State) (l : Nat) (f : Core → Core) : (s.modCore l f).clocks = s.clocks := rfl
@[simp] theorem State.setHub_power (s : State) (l : Nat) (c : Hub) : (s.setHub l c).power = s.power := rfl
@[simp] theorem State.setHub_cycles (s : State) (l : Nat) (c : Hub) : (s.setHub l c).cycles = s.cycles := rfl
@[simp] theorem State.setHub_cores (s : State) (l : Nat) (c : Hub) : (s.setHub l c).cores = s.cores := rfl
@[simp] theorem State.setHub_domains (s : State) (l : Nat) (c : Hub) : (s.setHub l c).domains = s.domains := rfl
@[simp] theorem State.setHub_bricks (s : State) (l : Nat) (c : Hub) : (s.setHub l c).bricks = s.bricks := rfl
@[simp] theorem State.setHub_edge (s : State) (l : Nat) (c : Hub) : (s.setHub l c).edge = s.edge := rfl
@[simp] theorem State.setHub_poison (s : State) (l : Nat) (c : Hub) : (s.setHub l c).poison = s.poison := rfl
@[simp] theorem State.setHub_reqs (s : State) (l : Nat) (c : Hub) : (s.setHub l c).reqs = s.reqs := rfl
@[simp] theorem State.setHub_hubReqs (s : State) (l : Nat) (c : Hub) : (s.setHub l c).hubReqs = s.hubReqs := rfl
@[simp] theorem State.setHub_hubReps (s : State) (l : Nat) (c : Hub) : (s.setHub l c).hubReps = s.hubReps := rfl
@[simp] theorem State.setHub_colls (s : State) (l : Nat) (c : Hub) : (s.setHub l c).colls = s.colls := rfl
@[simp] theorem State.setHub_mgmt (s : State) (l : Nat) (c : Hub) : (s.setHub l c).mgmt = s.mgmt := rfl
@[simp] theorem State.setHub_time (s : State) (l : Nat) (c : Hub) : (s.setHub l c).time = s.time := rfl
@[simp] theorem State.setHub_cur (s : State) (l : Nat) (c : Hub) : (s.setHub l c).cur = s.cur := rfl
@[simp] theorem State.setHub_slot (s : State) (l : Nat) (c : Hub) : (s.setHub l c).slot = s.slot := rfl
@[simp] theorem State.setHub_agenda (s : State) (l : Nat) (c : Hub) : (s.setHub l c).agenda = s.agenda := rfl
@[simp] theorem State.setHub_free (s : State) (l : Nat) (c : Hub) : (s.setHub l c).free = s.free := rfl
@[simp] theorem State.setHub_nextId (s : State) (l : Nat) (c : Hub) : (s.setHub l c).nextId = s.nextId := rfl
@[simp] theorem State.setHub_clocks (s : State) (l : Nat) (c : Hub) : (s.setHub l c).clocks = s.clocks := rfl
@[simp] theorem State.modHub_power (s : State) (l : Nat) (f : Hub → Hub) : (s.modHub l f).power = s.power := rfl
@[simp] theorem State.modHub_cycles (s : State) (l : Nat) (f : Hub → Hub) : (s.modHub l f).cycles = s.cycles := rfl
@[simp] theorem State.modHub_cores (s : State) (l : Nat) (f : Hub → Hub) : (s.modHub l f).cores = s.cores := rfl
@[simp] theorem State.modHub_domains (s : State) (l : Nat) (f : Hub → Hub) : (s.modHub l f).domains = s.domains := rfl
@[simp] theorem State.modHub_bricks (s : State) (l : Nat) (f : Hub → Hub) : (s.modHub l f).bricks = s.bricks := rfl
@[simp] theorem State.modHub_edge (s : State) (l : Nat) (f : Hub → Hub) : (s.modHub l f).edge = s.edge := rfl
@[simp] theorem State.modHub_poison (s : State) (l : Nat) (f : Hub → Hub) : (s.modHub l f).poison = s.poison := rfl
@[simp] theorem State.modHub_reqs (s : State) (l : Nat) (f : Hub → Hub) : (s.modHub l f).reqs = s.reqs := rfl
@[simp] theorem State.modHub_hubReqs (s : State) (l : Nat) (f : Hub → Hub) : (s.modHub l f).hubReqs = s.hubReqs := rfl
@[simp] theorem State.modHub_hubReps (s : State) (l : Nat) (f : Hub → Hub) : (s.modHub l f).hubReps = s.hubReps := rfl
@[simp] theorem State.modHub_colls (s : State) (l : Nat) (f : Hub → Hub) : (s.modHub l f).colls = s.colls := rfl
@[simp] theorem State.modHub_mgmt (s : State) (l : Nat) (f : Hub → Hub) : (s.modHub l f).mgmt = s.mgmt := rfl
@[simp] theorem State.modHub_time (s : State) (l : Nat) (f : Hub → Hub) : (s.modHub l f).time = s.time := rfl
@[simp] theorem State.modHub_cur (s : State) (l : Nat) (f : Hub → Hub) : (s.modHub l f).cur = s.cur := rfl
@[simp] theorem State.modHub_slot (s : State) (l : Nat) (f : Hub → Hub) : (s.modHub l f).slot = s.slot := rfl
@[simp] theorem State.modHub_agenda (s : State) (l : Nat) (f : Hub → Hub) : (s.modHub l f).agenda = s.agenda := rfl
@[simp] theorem State.modHub_free (s : State) (l : Nat) (f : Hub → Hub) : (s.modHub l f).free = s.free := rfl
@[simp] theorem State.modHub_nextId (s : State) (l : Nat) (f : Hub → Hub) : (s.modHub l f).nextId = s.nextId := rfl
@[simp] theorem State.modHub_clocks (s : State) (l : Nat) (f : Hub → Hub) : (s.modHub l f).clocks = s.clocks := rfl
@[simp] theorem State.setDomain_power (s : State) (l : Nat) (c : Domain) : (s.setDomain l c).power = s.power := rfl
@[simp] theorem State.setDomain_cycles (s : State) (l : Nat) (c : Domain) : (s.setDomain l c).cycles = s.cycles := rfl
@[simp] theorem State.setDomain_cores (s : State) (l : Nat) (c : Domain) : (s.setDomain l c).cores = s.cores := rfl
@[simp] theorem State.setDomain_hubs (s : State) (l : Nat) (c : Domain) : (s.setDomain l c).hubs = s.hubs := rfl
@[simp] theorem State.setDomain_bricks (s : State) (l : Nat) (c : Domain) : (s.setDomain l c).bricks = s.bricks := rfl
@[simp] theorem State.setDomain_edge (s : State) (l : Nat) (c : Domain) : (s.setDomain l c).edge = s.edge := rfl
@[simp] theorem State.setDomain_poison (s : State) (l : Nat) (c : Domain) : (s.setDomain l c).poison = s.poison := rfl
@[simp] theorem State.setDomain_reqs (s : State) (l : Nat) (c : Domain) : (s.setDomain l c).reqs = s.reqs := rfl
@[simp] theorem State.setDomain_hubReqs (s : State) (l : Nat) (c : Domain) : (s.setDomain l c).hubReqs = s.hubReqs := rfl
@[simp] theorem State.setDomain_hubReps (s : State) (l : Nat) (c : Domain) : (s.setDomain l c).hubReps = s.hubReps := rfl
@[simp] theorem State.setDomain_colls (s : State) (l : Nat) (c : Domain) : (s.setDomain l c).colls = s.colls := rfl
@[simp] theorem State.setDomain_mgmt (s : State) (l : Nat) (c : Domain) : (s.setDomain l c).mgmt = s.mgmt := rfl
@[simp] theorem State.setDomain_time (s : State) (l : Nat) (c : Domain) : (s.setDomain l c).time = s.time := rfl
@[simp] theorem State.setDomain_cur (s : State) (l : Nat) (c : Domain) : (s.setDomain l c).cur = s.cur := rfl
@[simp] theorem State.setDomain_slot (s : State) (l : Nat) (c : Domain) : (s.setDomain l c).slot = s.slot := rfl
@[simp] theorem State.setDomain_agenda (s : State) (l : Nat) (c : Domain) : (s.setDomain l c).agenda = s.agenda := rfl
@[simp] theorem State.setDomain_free (s : State) (l : Nat) (c : Domain) : (s.setDomain l c).free = s.free := rfl
@[simp] theorem State.setDomain_nextId (s : State) (l : Nat) (c : Domain) : (s.setDomain l c).nextId = s.nextId := rfl
@[simp] theorem State.setDomain_clocks (s : State) (l : Nat) (c : Domain) : (s.setDomain l c).clocks = s.clocks := rfl
@[simp] theorem State.modDomain_power (s : State) (l : Nat) (f : Domain → Domain) : (s.modDomain l f).power = s.power := rfl
@[simp] theorem State.modDomain_cycles (s : State) (l : Nat) (f : Domain → Domain) : (s.modDomain l f).cycles = s.cycles := rfl
@[simp] theorem State.modDomain_cores (s : State) (l : Nat) (f : Domain → Domain) : (s.modDomain l f).cores = s.cores := rfl
@[simp] theorem State.modDomain_hubs (s : State) (l : Nat) (f : Domain → Domain) : (s.modDomain l f).hubs = s.hubs := rfl
@[simp] theorem State.modDomain_bricks (s : State) (l : Nat) (f : Domain → Domain) : (s.modDomain l f).bricks = s.bricks := rfl
@[simp] theorem State.modDomain_edge (s : State) (l : Nat) (f : Domain → Domain) : (s.modDomain l f).edge = s.edge := rfl
@[simp] theorem State.modDomain_poison (s : State) (l : Nat) (f : Domain → Domain) : (s.modDomain l f).poison = s.poison := rfl
@[simp] theorem State.modDomain_reqs (s : State) (l : Nat) (f : Domain → Domain) : (s.modDomain l f).reqs = s.reqs := rfl
@[simp] theorem State.modDomain_hubReqs (s : State) (l : Nat) (f : Domain → Domain) : (s.modDomain l f).hubReqs = s.hubReqs := rfl
@[simp] theorem State.modDomain_hubReps (s : State) (l : Nat) (f : Domain → Domain) : (s.modDomain l f).hubReps = s.hubReps := rfl
@[simp] theorem State.modDomain_colls (s : State) (l : Nat) (f : Domain → Domain) : (s.modDomain l f).colls = s.colls := rfl
@[simp] theorem State.modDomain_mgmt (s : State) (l : Nat) (f : Domain → Domain) : (s.modDomain l f).mgmt = s.mgmt := rfl
@[simp] theorem State.modDomain_time (s : State) (l : Nat) (f : Domain → Domain) : (s.modDomain l f).time = s.time := rfl
@[simp] theorem State.modDomain_cur (s : State) (l : Nat) (f : Domain → Domain) : (s.modDomain l f).cur = s.cur := rfl
@[simp] theorem State.modDomain_slot (s : State) (l : Nat) (f : Domain → Domain) : (s.modDomain l f).slot = s.slot := rfl
@[simp] theorem State.modDomain_agenda (s : State) (l : Nat) (f : Domain → Domain) : (s.modDomain l f).agenda = s.agenda := rfl
@[simp] theorem State.modDomain_free (s : State) (l : Nat) (f : Domain → Domain) : (s.modDomain l f).free = s.free := rfl
@[simp] theorem State.modDomain_nextId (s : State) (l : Nat) (f : Domain → Domain) : (s.modDomain l f).nextId = s.nextId := rfl
@[simp] theorem State.modDomain_clocks (s : State) (l : Nat) (f : Domain → Domain) : (s.modDomain l f).clocks = s.clocks := rfl
@[simp] theorem State.setBrick_power (s : State) (l : Nat) (c : Brick) : (s.setBrick l c).power = s.power := rfl
@[simp] theorem State.setBrick_cycles (s : State) (l : Nat) (c : Brick) : (s.setBrick l c).cycles = s.cycles := rfl
@[simp] theorem State.setBrick_cores (s : State) (l : Nat) (c : Brick) : (s.setBrick l c).cores = s.cores := rfl
@[simp] theorem State.setBrick_hubs (s : State) (l : Nat) (c : Brick) : (s.setBrick l c).hubs = s.hubs := rfl
@[simp] theorem State.setBrick_domains (s : State) (l : Nat) (c : Brick) : (s.setBrick l c).domains = s.domains := rfl
@[simp] theorem State.setBrick_edge (s : State) (l : Nat) (c : Brick) : (s.setBrick l c).edge = s.edge := rfl
@[simp] theorem State.setBrick_poison (s : State) (l : Nat) (c : Brick) : (s.setBrick l c).poison = s.poison := rfl
@[simp] theorem State.setBrick_reqs (s : State) (l : Nat) (c : Brick) : (s.setBrick l c).reqs = s.reqs := rfl
@[simp] theorem State.setBrick_hubReqs (s : State) (l : Nat) (c : Brick) : (s.setBrick l c).hubReqs = s.hubReqs := rfl
@[simp] theorem State.setBrick_hubReps (s : State) (l : Nat) (c : Brick) : (s.setBrick l c).hubReps = s.hubReps := rfl
@[simp] theorem State.setBrick_colls (s : State) (l : Nat) (c : Brick) : (s.setBrick l c).colls = s.colls := rfl
@[simp] theorem State.setBrick_mgmt (s : State) (l : Nat) (c : Brick) : (s.setBrick l c).mgmt = s.mgmt := rfl
@[simp] theorem State.setBrick_time (s : State) (l : Nat) (c : Brick) : (s.setBrick l c).time = s.time := rfl
@[simp] theorem State.setBrick_cur (s : State) (l : Nat) (c : Brick) : (s.setBrick l c).cur = s.cur := rfl
@[simp] theorem State.setBrick_slot (s : State) (l : Nat) (c : Brick) : (s.setBrick l c).slot = s.slot := rfl
@[simp] theorem State.setBrick_agenda (s : State) (l : Nat) (c : Brick) : (s.setBrick l c).agenda = s.agenda := rfl
@[simp] theorem State.setBrick_free (s : State) (l : Nat) (c : Brick) : (s.setBrick l c).free = s.free := rfl
@[simp] theorem State.setBrick_nextId (s : State) (l : Nat) (c : Brick) : (s.setBrick l c).nextId = s.nextId := rfl
@[simp] theorem State.setBrick_clocks (s : State) (l : Nat) (c : Brick) : (s.setBrick l c).clocks = s.clocks := rfl
@[simp] theorem State.modBrick_power (s : State) (l : Nat) (f : Brick → Brick) : (s.modBrick l f).power = s.power := rfl
@[simp] theorem State.modBrick_cycles (s : State) (l : Nat) (f : Brick → Brick) : (s.modBrick l f).cycles = s.cycles := rfl
@[simp] theorem State.modBrick_cores (s : State) (l : Nat) (f : Brick → Brick) : (s.modBrick l f).cores = s.cores := rfl
@[simp] theorem State.modBrick_hubs (s : State) (l : Nat) (f : Brick → Brick) : (s.modBrick l f).hubs = s.hubs := rfl
@[simp] theorem State.modBrick_domains (s : State) (l : Nat) (f : Brick → Brick) : (s.modBrick l f).domains = s.domains := rfl
@[simp] theorem State.modBrick_edge (s : State) (l : Nat) (f : Brick → Brick) : (s.modBrick l f).edge = s.edge := rfl
@[simp] theorem State.modBrick_poison (s : State) (l : Nat) (f : Brick → Brick) : (s.modBrick l f).poison = s.poison := rfl
@[simp] theorem State.modBrick_reqs (s : State) (l : Nat) (f : Brick → Brick) : (s.modBrick l f).reqs = s.reqs := rfl
@[simp] theorem State.modBrick_hubReqs (s : State) (l : Nat) (f : Brick → Brick) : (s.modBrick l f).hubReqs = s.hubReqs := rfl
@[simp] theorem State.modBrick_hubReps (s : State) (l : Nat) (f : Brick → Brick) : (s.modBrick l f).hubReps = s.hubReps := rfl
@[simp] theorem State.modBrick_colls (s : State) (l : Nat) (f : Brick → Brick) : (s.modBrick l f).colls = s.colls := rfl
@[simp] theorem State.modBrick_mgmt (s : State) (l : Nat) (f : Brick → Brick) : (s.modBrick l f).mgmt = s.mgmt := rfl
@[simp] theorem State.modBrick_time (s : State) (l : Nat) (f : Brick → Brick) : (s.modBrick l f).time = s.time := rfl
@[simp] theorem State.modBrick_cur (s : State) (l : Nat) (f : Brick → Brick) : (s.modBrick l f).cur = s.cur := rfl
@[simp] theorem State.modBrick_slot (s : State) (l : Nat) (f : Brick → Brick) : (s.modBrick l f).slot = s.slot := rfl
@[simp] theorem State.modBrick_agenda (s : State) (l : Nat) (f : Brick → Brick) : (s.modBrick l f).agenda = s.agenda := rfl
@[simp] theorem State.modBrick_free (s : State) (l : Nat) (f : Brick → Brick) : (s.modBrick l f).free = s.free := rfl
@[simp] theorem State.modBrick_nextId (s : State) (l : Nat) (f : Brick → Brick) : (s.modBrick l f).nextId = s.nextId := rfl
@[simp] theorem State.modBrick_clocks (s : State) (l : Nat) (f : Brick → Brick) : (s.modBrick l f).clocks = s.clocks := rfl
@[simp] theorem State.modMe_power (s : State) (f : Core → Core) : (s.modMe f).power = s.power := rfl
@[simp] theorem State.modMe_cycles (s : State) (f : Core → Core) : (s.modMe f).cycles = s.cycles := rfl
@[simp] theorem State.modMe_hubs (s : State) (f : Core → Core) : (s.modMe f).hubs = s.hubs := rfl
@[simp] theorem State.modMe_domains (s : State) (f : Core → Core) : (s.modMe f).domains = s.domains := rfl
@[simp] theorem State.modMe_bricks (s : State) (f : Core → Core) : (s.modMe f).bricks = s.bricks := rfl
@[simp] theorem State.modMe_edge (s : State) (f : Core → Core) : (s.modMe f).edge = s.edge := rfl
@[simp] theorem State.modMe_poison (s : State) (f : Core → Core) : (s.modMe f).poison = s.poison := rfl
@[simp] theorem State.modMe_reqs (s : State) (f : Core → Core) : (s.modMe f).reqs = s.reqs := rfl
@[simp] theorem State.modMe_hubReqs (s : State) (f : Core → Core) : (s.modMe f).hubReqs = s.hubReqs := rfl
@[simp] theorem State.modMe_hubReps (s : State) (f : Core → Core) : (s.modMe f).hubReps = s.hubReps := rfl
@[simp] theorem State.modMe_colls (s : State) (f : Core → Core) : (s.modMe f).colls = s.colls := rfl
@[simp] theorem State.modMe_mgmt (s : State) (f : Core → Core) : (s.modMe f).mgmt = s.mgmt := rfl
@[simp] theorem State.modMe_time (s : State) (f : Core → Core) : (s.modMe f).time = s.time := rfl
@[simp] theorem State.modMe_cur (s : State) (f : Core → Core) : (s.modMe f).cur = s.cur := rfl
@[simp] theorem State.modMe_slot (s : State) (f : Core → Core) : (s.modMe f).slot = s.slot := rfl
@[simp] theorem State.modMe_agenda (s : State) (f : Core → Core) : (s.modMe f).agenda = s.agenda := rfl
@[simp] theorem State.modMe_free (s : State) (f : Core → Core) : (s.modMe f).free = s.free := rfl
@[simp] theorem State.modMe_nextId (s : State) (f : Core → Core) : (s.modMe f).nextId = s.nextId := rfl
@[simp] theorem State.modMe_clocks (s : State) (f : Core → Core) : (s.modMe f).clocks = s.clocks := rfl
@[simp] theorem State.modSt_power (s : State) (f : Strand → Strand) : (s.modSt f).power = s.power := rfl
@[simp] theorem State.modSt_cycles (s : State) (f : Strand → Strand) : (s.modSt f).cycles = s.cycles := rfl
@[simp] theorem State.modSt_hubs (s : State) (f : Strand → Strand) : (s.modSt f).hubs = s.hubs := rfl
@[simp] theorem State.modSt_domains (s : State) (f : Strand → Strand) : (s.modSt f).domains = s.domains := rfl
@[simp] theorem State.modSt_bricks (s : State) (f : Strand → Strand) : (s.modSt f).bricks = s.bricks := rfl
@[simp] theorem State.modSt_edge (s : State) (f : Strand → Strand) : (s.modSt f).edge = s.edge := rfl
@[simp] theorem State.modSt_poison (s : State) (f : Strand → Strand) : (s.modSt f).poison = s.poison := rfl
@[simp] theorem State.modSt_reqs (s : State) (f : Strand → Strand) : (s.modSt f).reqs = s.reqs := rfl
@[simp] theorem State.modSt_hubReqs (s : State) (f : Strand → Strand) : (s.modSt f).hubReqs = s.hubReqs := rfl
@[simp] theorem State.modSt_hubReps (s : State) (f : Strand → Strand) : (s.modSt f).hubReps = s.hubReps := rfl
@[simp] theorem State.modSt_colls (s : State) (f : Strand → Strand) : (s.modSt f).colls = s.colls := rfl
@[simp] theorem State.modSt_mgmt (s : State) (f : Strand → Strand) : (s.modSt f).mgmt = s.mgmt := rfl
@[simp] theorem State.modSt_time (s : State) (f : Strand → Strand) : (s.modSt f).time = s.time := rfl
@[simp] theorem State.modSt_cur (s : State) (f : Strand → Strand) : (s.modSt f).cur = s.cur := rfl
@[simp] theorem State.modSt_slot (s : State) (f : Strand → Strand) : (s.modSt f).slot = s.slot := rfl
@[simp] theorem State.modSt_agenda (s : State) (f : Strand → Strand) : (s.modSt f).agenda = s.agenda := rfl
@[simp] theorem State.modSt_free (s : State) (f : Strand → Strand) : (s.modSt f).free = s.free := rfl
@[simp] theorem State.modSt_nextId (s : State) (f : Strand → Strand) : (s.modSt f).nextId = s.nextId := rfl
@[simp] theorem State.modSt_clocks (s : State) (f : Strand → Strand) : (s.modSt f).clocks = s.clocks := rfl
@[simp] theorem State.setG_power (s : State) (d : BitVec 4) (v : Word) (n : Nat) : (s.setG d v n).power = s.power := rfl
@[simp] theorem State.setG_cycles (s : State) (d : BitVec 4) (v : Word) (n : Nat) : (s.setG d v n).cycles = s.cycles := rfl
@[simp] theorem State.setG_hubs (s : State) (d : BitVec 4) (v : Word) (n : Nat) : (s.setG d v n).hubs = s.hubs := rfl
@[simp] theorem State.setG_domains (s : State) (d : BitVec 4) (v : Word) (n : Nat) : (s.setG d v n).domains = s.domains := rfl
@[simp] theorem State.setG_bricks (s : State) (d : BitVec 4) (v : Word) (n : Nat) : (s.setG d v n).bricks = s.bricks := rfl
@[simp] theorem State.setG_edge (s : State) (d : BitVec 4) (v : Word) (n : Nat) : (s.setG d v n).edge = s.edge := rfl
@[simp] theorem State.setG_poison (s : State) (d : BitVec 4) (v : Word) (n : Nat) : (s.setG d v n).poison = s.poison := rfl
@[simp] theorem State.setG_reqs (s : State) (d : BitVec 4) (v : Word) (n : Nat) : (s.setG d v n).reqs = s.reqs := rfl
@[simp] theorem State.setG_hubReqs (s : State) (d : BitVec 4) (v : Word) (n : Nat) : (s.setG d v n).hubReqs = s.hubReqs := rfl
@[simp] theorem State.setG_hubReps (s : State) (d : BitVec 4) (v : Word) (n : Nat) : (s.setG d v n).hubReps = s.hubReps := rfl
@[simp] theorem State.setG_colls (s : State) (d : BitVec 4) (v : Word) (n : Nat) : (s.setG d v n).colls = s.colls := rfl
@[simp] theorem State.setG_mgmt (s : State) (d : BitVec 4) (v : Word) (n : Nat) : (s.setG d v n).mgmt = s.mgmt := rfl
@[simp] theorem State.setG_time (s : State) (d : BitVec 4) (v : Word) (n : Nat) : (s.setG d v n).time = s.time := rfl
@[simp] theorem State.setG_cur (s : State) (d : BitVec 4) (v : Word) (n : Nat) : (s.setG d v n).cur = s.cur := rfl
@[simp] theorem State.setG_slot (s : State) (d : BitVec 4) (v : Word) (n : Nat) : (s.setG d v n).slot = s.slot := rfl
@[simp] theorem State.setG_agenda (s : State) (d : BitVec 4) (v : Word) (n : Nat) : (s.setG d v n).agenda = s.agenda := rfl
@[simp] theorem State.setG_free (s : State) (d : BitVec 4) (v : Word) (n : Nat) : (s.setG d v n).free = s.free := rfl
@[simp] theorem State.setG_nextId (s : State) (d : BitVec 4) (v : Word) (n : Nat) : (s.setG d v n).nextId = s.nextId := rfl
@[simp] theorem State.setG_clocks (s : State) (d : BitVec 4) (v : Word) (n : Nat) : (s.setG d v n).clocks = s.clocks := rfl
@[simp] theorem State.setP_power (s : State) (d : BitVec 4) (v : Dword) (n : Nat) : (s.setP d v n).power = s.power := rfl
@[simp] theorem State.setP_cycles (s : State) (d : BitVec 4) (v : Dword) (n : Nat) : (s.setP d v n).cycles = s.cycles := rfl
@[simp] theorem State.setP_hubs (s : State) (d : BitVec 4) (v : Dword) (n : Nat) : (s.setP d v n).hubs = s.hubs := rfl
@[simp] theorem State.setP_domains (s : State) (d : BitVec 4) (v : Dword) (n : Nat) : (s.setP d v n).domains = s.domains := rfl
@[simp] theorem State.setP_bricks (s : State) (d : BitVec 4) (v : Dword) (n : Nat) : (s.setP d v n).bricks = s.bricks := rfl
@[simp] theorem State.setP_edge (s : State) (d : BitVec 4) (v : Dword) (n : Nat) : (s.setP d v n).edge = s.edge := rfl
@[simp] theorem State.setP_poison (s : State) (d : BitVec 4) (v : Dword) (n : Nat) : (s.setP d v n).poison = s.poison := rfl
@[simp] theorem State.setP_reqs (s : State) (d : BitVec 4) (v : Dword) (n : Nat) : (s.setP d v n).reqs = s.reqs := rfl
@[simp] theorem State.setP_hubReqs (s : State) (d : BitVec 4) (v : Dword) (n : Nat) : (s.setP d v n).hubReqs = s.hubReqs := rfl
@[simp] theorem State.setP_hubReps (s : State) (d : BitVec 4) (v : Dword) (n : Nat) : (s.setP d v n).hubReps = s.hubReps := rfl
@[simp] theorem State.setP_colls (s : State) (d : BitVec 4) (v : Dword) (n : Nat) : (s.setP d v n).colls = s.colls := rfl
@[simp] theorem State.setP_mgmt (s : State) (d : BitVec 4) (v : Dword) (n : Nat) : (s.setP d v n).mgmt = s.mgmt := rfl
@[simp] theorem State.setP_time (s : State) (d : BitVec 4) (v : Dword) (n : Nat) : (s.setP d v n).time = s.time := rfl
@[simp] theorem State.setP_cur (s : State) (d : BitVec 4) (v : Dword) (n : Nat) : (s.setP d v n).cur = s.cur := rfl
@[simp] theorem State.setP_slot (s : State) (d : BitVec 4) (v : Dword) (n : Nat) : (s.setP d v n).slot = s.slot := rfl
@[simp] theorem State.setP_agenda (s : State) (d : BitVec 4) (v : Dword) (n : Nat) : (s.setP d v n).agenda = s.agenda := rfl
@[simp] theorem State.setP_free (s : State) (d : BitVec 4) (v : Dword) (n : Nat) : (s.setP d v n).free = s.free := rfl
@[simp] theorem State.setP_nextId (s : State) (d : BitVec 4) (v : Dword) (n : Nat) : (s.setP d v n).nextId = s.nextId := rfl
@[simp] theorem State.setP_clocks (s : State) (d : BitVec 4) (v : Dword) (n : Nat) : (s.setP d v n).clocks = s.clocks := rfl
@[simp] theorem State.setM_power (s : State) (d : BitVec 2) (v : Word) (n : Nat) : (s.setM d v n).power = s.power := rfl
@[simp] theorem State.setM_cycles (s : State) (d : BitVec 2) (v : Word) (n : Nat) : (s.setM d v n).cycles = s.cycles := rfl
@[simp] theorem State.setM_hubs (s : State) (d : BitVec 2) (v : Word) (n : Nat) : (s.setM d v n).hubs = s.hubs := rfl
@[simp] theorem State.setM_domains (s : State) (d : BitVec 2) (v : Word) (n : Nat) : (s.setM d v n).domains = s.domains := rfl
@[simp] theorem State.setM_bricks (s : State) (d : BitVec 2) (v : Word) (n : Nat) : (s.setM d v n).bricks = s.bricks := rfl
@[simp] theorem State.setM_edge (s : State) (d : BitVec 2) (v : Word) (n : Nat) : (s.setM d v n).edge = s.edge := rfl
@[simp] theorem State.setM_poison (s : State) (d : BitVec 2) (v : Word) (n : Nat) : (s.setM d v n).poison = s.poison := rfl
@[simp] theorem State.setM_reqs (s : State) (d : BitVec 2) (v : Word) (n : Nat) : (s.setM d v n).reqs = s.reqs := rfl
@[simp] theorem State.setM_hubReqs (s : State) (d : BitVec 2) (v : Word) (n : Nat) : (s.setM d v n).hubReqs = s.hubReqs := rfl
@[simp] theorem State.setM_hubReps (s : State) (d : BitVec 2) (v : Word) (n : Nat) : (s.setM d v n).hubReps = s.hubReps := rfl
@[simp] theorem State.setM_colls (s : State) (d : BitVec 2) (v : Word) (n : Nat) : (s.setM d v n).colls = s.colls := rfl
@[simp] theorem State.setM_mgmt (s : State) (d : BitVec 2) (v : Word) (n : Nat) : (s.setM d v n).mgmt = s.mgmt := rfl
@[simp] theorem State.setM_time (s : State) (d : BitVec 2) (v : Word) (n : Nat) : (s.setM d v n).time = s.time := rfl
@[simp] theorem State.setM_cur (s : State) (d : BitVec 2) (v : Word) (n : Nat) : (s.setM d v n).cur = s.cur := rfl
@[simp] theorem State.setM_slot (s : State) (d : BitVec 2) (v : Word) (n : Nat) : (s.setM d v n).slot = s.slot := rfl
@[simp] theorem State.setM_agenda (s : State) (d : BitVec 2) (v : Word) (n : Nat) : (s.setM d v n).agenda = s.agenda := rfl
@[simp] theorem State.setM_free (s : State) (d : BitVec 2) (v : Word) (n : Nat) : (s.setM d v n).free = s.free := rfl
@[simp] theorem State.setM_nextId (s : State) (d : BitVec 2) (v : Word) (n : Nat) : (s.setM d v n).nextId = s.nextId := rfl
@[simp] theorem State.setM_clocks (s : State) (d : BitVec 2) (v : Word) (n : Nat) : (s.setM d v n).clocks = s.clocks := rfl
@[simp] theorem State.setV_power (s : State) (d : BitVec 4) (v : VReg) (n : Nat) : (s.setV d v n).power = s.power := rfl
@[simp] theorem State.setV_cycles (s : State) (d : BitVec 4) (v : VReg) (n : Nat) : (s.setV d v n).cycles = s.cycles := rfl
@[simp] theorem State.setV_hubs (s : State) (d : BitVec 4) (v : VReg) (n : Nat) : (s.setV d v n).hubs = s.hubs := rfl
@[simp] theorem State.setV_domains (s : State) (d : BitVec 4) (v : VReg) (n : Nat) : (s.setV d v n).domains = s.domains := rfl
@[simp] theorem State.setV_bricks (s : State) (d : BitVec 4) (v : VReg) (n : Nat) : (s.setV d v n).bricks = s.bricks := rfl
@[simp] theorem State.setV_edge (s : State) (d : BitVec 4) (v : VReg) (n : Nat) : (s.setV d v n).edge = s.edge := rfl
@[simp] theorem State.setV_poison (s : State) (d : BitVec 4) (v : VReg) (n : Nat) : (s.setV d v n).poison = s.poison := rfl
@[simp] theorem State.setV_reqs (s : State) (d : BitVec 4) (v : VReg) (n : Nat) : (s.setV d v n).reqs = s.reqs := rfl
@[simp] theorem State.setV_hubReqs (s : State) (d : BitVec 4) (v : VReg) (n : Nat) : (s.setV d v n).hubReqs = s.hubReqs := rfl
@[simp] theorem State.setV_hubReps (s : State) (d : BitVec 4) (v : VReg) (n : Nat) : (s.setV d v n).hubReps = s.hubReps := rfl
@[simp] theorem State.setV_colls (s : State) (d : BitVec 4) (v : VReg) (n : Nat) : (s.setV d v n).colls = s.colls := rfl
@[simp] theorem State.setV_mgmt (s : State) (d : BitVec 4) (v : VReg) (n : Nat) : (s.setV d v n).mgmt = s.mgmt := rfl
@[simp] theorem State.setV_time (s : State) (d : BitVec 4) (v : VReg) (n : Nat) : (s.setV d v n).time = s.time := rfl
@[simp] theorem State.setV_cur (s : State) (d : BitVec 4) (v : VReg) (n : Nat) : (s.setV d v n).cur = s.cur := rfl
@[simp] theorem State.setV_slot (s : State) (d : BitVec 4) (v : VReg) (n : Nat) : (s.setV d v n).slot = s.slot := rfl
@[simp] theorem State.setV_agenda (s : State) (d : BitVec 4) (v : VReg) (n : Nat) : (s.setV d v n).agenda = s.agenda := rfl
@[simp] theorem State.setV_free (s : State) (d : BitVec 4) (v : VReg) (n : Nat) : (s.setV d v n).free = s.free := rfl
@[simp] theorem State.setV_nextId (s : State) (d : BitVec 4) (v : VReg) (n : Nat) : (s.setV d v n).nextId = s.nextId := rfl
@[simp] theorem State.setV_clocks (s : State) (d : BitVec 4) (v : VReg) (n : Nat) : (s.setV d v n).clocks = s.clocks := rfl
@[simp] theorem State.setT_power (s : State) (d : BitVec 3) (v : Tile) (n : Nat) : (s.setT d v n).power = s.power := rfl
@[simp] theorem State.setT_cycles (s : State) (d : BitVec 3) (v : Tile) (n : Nat) : (s.setT d v n).cycles = s.cycles := rfl
@[simp] theorem State.setT_hubs (s : State) (d : BitVec 3) (v : Tile) (n : Nat) : (s.setT d v n).hubs = s.hubs := rfl
@[simp] theorem State.setT_domains (s : State) (d : BitVec 3) (v : Tile) (n : Nat) : (s.setT d v n).domains = s.domains := rfl
@[simp] theorem State.setT_bricks (s : State) (d : BitVec 3) (v : Tile) (n : Nat) : (s.setT d v n).bricks = s.bricks := rfl
@[simp] theorem State.setT_edge (s : State) (d : BitVec 3) (v : Tile) (n : Nat) : (s.setT d v n).edge = s.edge := rfl
@[simp] theorem State.setT_poison (s : State) (d : BitVec 3) (v : Tile) (n : Nat) : (s.setT d v n).poison = s.poison := rfl
@[simp] theorem State.setT_reqs (s : State) (d : BitVec 3) (v : Tile) (n : Nat) : (s.setT d v n).reqs = s.reqs := rfl
@[simp] theorem State.setT_hubReqs (s : State) (d : BitVec 3) (v : Tile) (n : Nat) : (s.setT d v n).hubReqs = s.hubReqs := rfl
@[simp] theorem State.setT_hubReps (s : State) (d : BitVec 3) (v : Tile) (n : Nat) : (s.setT d v n).hubReps = s.hubReps := rfl
@[simp] theorem State.setT_colls (s : State) (d : BitVec 3) (v : Tile) (n : Nat) : (s.setT d v n).colls = s.colls := rfl
@[simp] theorem State.setT_mgmt (s : State) (d : BitVec 3) (v : Tile) (n : Nat) : (s.setT d v n).mgmt = s.mgmt := rfl
@[simp] theorem State.setT_time (s : State) (d : BitVec 3) (v : Tile) (n : Nat) : (s.setT d v n).time = s.time := rfl
@[simp] theorem State.setT_cur (s : State) (d : BitVec 3) (v : Tile) (n : Nat) : (s.setT d v n).cur = s.cur := rfl
@[simp] theorem State.setT_slot (s : State) (d : BitVec 3) (v : Tile) (n : Nat) : (s.setT d v n).slot = s.slot := rfl
@[simp] theorem State.setT_agenda (s : State) (d : BitVec 3) (v : Tile) (n : Nat) : (s.setT d v n).agenda = s.agenda := rfl
@[simp] theorem State.setT_free (s : State) (d : BitVec 3) (v : Tile) (n : Nat) : (s.setT d v n).free = s.free := rfl
@[simp] theorem State.setT_nextId (s : State) (d : BitVec 3) (v : Tile) (n : Nat) : (s.setT d v n).nextId = s.nextId := rfl
@[simp] theorem State.setT_clocks (s : State) (d : BitVec 3) (v : Tile) (n : Nat) : (s.setT d v n).clocks = s.clocks := rfl
@[simp] theorem State.setA_power (s : State) (d : BitVec 2) (v : Acc) (n : Nat) : (s.setA d v n).power = s.power := rfl
@[simp] theorem State.setA_cycles (s : State) (d : BitVec 2) (v : Acc) (n : Nat) : (s.setA d v n).cycles = s.cycles := rfl
@[simp] theorem State.setA_hubs (s : State) (d : BitVec 2) (v : Acc) (n : Nat) : (s.setA d v n).hubs = s.hubs := rfl
@[simp] theorem State.setA_domains (s : State) (d : BitVec 2) (v : Acc) (n : Nat) : (s.setA d v n).domains = s.domains := rfl
@[simp] theorem State.setA_bricks (s : State) (d : BitVec 2) (v : Acc) (n : Nat) : (s.setA d v n).bricks = s.bricks := rfl
@[simp] theorem State.setA_edge (s : State) (d : BitVec 2) (v : Acc) (n : Nat) : (s.setA d v n).edge = s.edge := rfl
@[simp] theorem State.setA_poison (s : State) (d : BitVec 2) (v : Acc) (n : Nat) : (s.setA d v n).poison = s.poison := rfl
@[simp] theorem State.setA_reqs (s : State) (d : BitVec 2) (v : Acc) (n : Nat) : (s.setA d v n).reqs = s.reqs := rfl
@[simp] theorem State.setA_hubReqs (s : State) (d : BitVec 2) (v : Acc) (n : Nat) : (s.setA d v n).hubReqs = s.hubReqs := rfl
@[simp] theorem State.setA_hubReps (s : State) (d : BitVec 2) (v : Acc) (n : Nat) : (s.setA d v n).hubReps = s.hubReps := rfl
@[simp] theorem State.setA_colls (s : State) (d : BitVec 2) (v : Acc) (n : Nat) : (s.setA d v n).colls = s.colls := rfl
@[simp] theorem State.setA_mgmt (s : State) (d : BitVec 2) (v : Acc) (n : Nat) : (s.setA d v n).mgmt = s.mgmt := rfl
@[simp] theorem State.setA_time (s : State) (d : BitVec 2) (v : Acc) (n : Nat) : (s.setA d v n).time = s.time := rfl
@[simp] theorem State.setA_cur (s : State) (d : BitVec 2) (v : Acc) (n : Nat) : (s.setA d v n).cur = s.cur := rfl
@[simp] theorem State.setA_slot (s : State) (d : BitVec 2) (v : Acc) (n : Nat) : (s.setA d v n).slot = s.slot := rfl
@[simp] theorem State.setA_agenda (s : State) (d : BitVec 2) (v : Acc) (n : Nat) : (s.setA d v n).agenda = s.agenda := rfl
@[simp] theorem State.setA_free (s : State) (d : BitVec 2) (v : Acc) (n : Nat) : (s.setA d v n).free = s.free := rfl
@[simp] theorem State.setA_nextId (s : State) (d : BitVec 2) (v : Acc) (n : Nat) : (s.setA d v n).nextId = s.nextId := rfl
@[simp] theorem State.setA_clocks (s : State) (d : BitVec 2) (v : Acc) (n : Nat) : (s.setA d v n).clocks = s.clocks := rfl
@[simp] theorem State.awaitG_power (s : State) (d : BitVec 4) : (s.awaitG d).power = s.power := rfl
@[simp] theorem State.awaitG_cycles (s : State) (d : BitVec 4) : (s.awaitG d).cycles = s.cycles := rfl
@[simp] theorem State.awaitG_hubs (s : State) (d : BitVec 4) : (s.awaitG d).hubs = s.hubs := rfl
@[simp] theorem State.awaitG_domains (s : State) (d : BitVec 4) : (s.awaitG d).domains = s.domains := rfl
@[simp] theorem State.awaitG_bricks (s : State) (d : BitVec 4) : (s.awaitG d).bricks = s.bricks := rfl
@[simp] theorem State.awaitG_edge (s : State) (d : BitVec 4) : (s.awaitG d).edge = s.edge := rfl
@[simp] theorem State.awaitG_poison (s : State) (d : BitVec 4) : (s.awaitG d).poison = s.poison := rfl
@[simp] theorem State.awaitG_reqs (s : State) (d : BitVec 4) : (s.awaitG d).reqs = s.reqs := rfl
@[simp] theorem State.awaitG_hubReqs (s : State) (d : BitVec 4) : (s.awaitG d).hubReqs = s.hubReqs := rfl
@[simp] theorem State.awaitG_hubReps (s : State) (d : BitVec 4) : (s.awaitG d).hubReps = s.hubReps := rfl
@[simp] theorem State.awaitG_colls (s : State) (d : BitVec 4) : (s.awaitG d).colls = s.colls := rfl
@[simp] theorem State.awaitG_mgmt (s : State) (d : BitVec 4) : (s.awaitG d).mgmt = s.mgmt := rfl
@[simp] theorem State.awaitG_time (s : State) (d : BitVec 4) : (s.awaitG d).time = s.time := rfl
@[simp] theorem State.awaitG_cur (s : State) (d : BitVec 4) : (s.awaitG d).cur = s.cur := rfl
@[simp] theorem State.awaitG_slot (s : State) (d : BitVec 4) : (s.awaitG d).slot = s.slot := rfl
@[simp] theorem State.awaitG_agenda (s : State) (d : BitVec 4) : (s.awaitG d).agenda = s.agenda := rfl
@[simp] theorem State.awaitG_free (s : State) (d : BitVec 4) : (s.awaitG d).free = s.free := rfl
@[simp] theorem State.awaitG_nextId (s : State) (d : BitVec 4) : (s.awaitG d).nextId = s.nextId := rfl
@[simp] theorem State.awaitG_clocks (s : State) (d : BitVec 4) : (s.awaitG d).clocks = s.clocks := rfl
@[simp] theorem State.advance_power (s : State) : (s.advance).power = s.power := rfl
@[simp] theorem State.advance_cycles (s : State) : (s.advance).cycles = s.cycles := rfl
@[simp] theorem State.advance_hubs (s : State) : (s.advance).hubs = s.hubs := rfl
@[simp] theorem State.advance_domains (s : State) : (s.advance).domains = s.domains := rfl
@[simp] theorem State.advance_bricks (s : State) : (s.advance).bricks = s.bricks := rfl
@[simp] theorem State.advance_edge (s : State) : (s.advance).edge = s.edge := rfl
@[simp] theorem State.advance_poison (s : State) : (s.advance).poison = s.poison := rfl
@[simp] theorem State.advance_reqs (s : State) : (s.advance).reqs = s.reqs := rfl
@[simp] theorem State.advance_hubReqs (s : State) : (s.advance).hubReqs = s.hubReqs := rfl
@[simp] theorem State.advance_hubReps (s : State) : (s.advance).hubReps = s.hubReps := rfl
@[simp] theorem State.advance_colls (s : State) : (s.advance).colls = s.colls := rfl
@[simp] theorem State.advance_mgmt (s : State) : (s.advance).mgmt = s.mgmt := rfl
@[simp] theorem State.advance_time (s : State) : (s.advance).time = s.time := rfl
@[simp] theorem State.advance_cur (s : State) : (s.advance).cur = s.cur := rfl
@[simp] theorem State.advance_slot (s : State) : (s.advance).slot = s.slot := rfl
@[simp] theorem State.advance_agenda (s : State) : (s.advance).agenda = s.agenda := rfl
@[simp] theorem State.advance_free (s : State) : (s.advance).free = s.free := rfl
@[simp] theorem State.advance_nextId (s : State) : (s.advance).nextId = s.nextId := rfl
@[simp] theorem State.advance_clocks (s : State) : (s.advance).clocks = s.clocks := rfl
@[simp] theorem State.trap_power (s : State) (f : Trap) : (s.trap f).power = s.power := rfl
@[simp] theorem State.trap_cycles (s : State) (f : Trap) : (s.trap f).cycles = s.cycles := rfl
@[simp] theorem State.trap_hubs (s : State) (f : Trap) : (s.trap f).hubs = s.hubs := rfl
@[simp] theorem State.trap_domains (s : State) (f : Trap) : (s.trap f).domains = s.domains := rfl
@[simp] theorem State.trap_bricks (s : State) (f : Trap) : (s.trap f).bricks = s.bricks := rfl
@[simp] theorem State.trap_edge (s : State) (f : Trap) : (s.trap f).edge = s.edge := rfl
@[simp] theorem State.trap_poison (s : State) (f : Trap) : (s.trap f).poison = s.poison := rfl
@[simp] theorem State.trap_reqs (s : State) (f : Trap) : (s.trap f).reqs = s.reqs := rfl
@[simp] theorem State.trap_hubReqs (s : State) (f : Trap) : (s.trap f).hubReqs = s.hubReqs := rfl
@[simp] theorem State.trap_hubReps (s : State) (f : Trap) : (s.trap f).hubReps = s.hubReps := rfl
@[simp] theorem State.trap_colls (s : State) (f : Trap) : (s.trap f).colls = s.colls := rfl
@[simp] theorem State.trap_mgmt (s : State) (f : Trap) : (s.trap f).mgmt = s.mgmt := rfl
@[simp] theorem State.trap_time (s : State) (f : Trap) : (s.trap f).time = s.time := rfl
@[simp] theorem State.trap_cur (s : State) (f : Trap) : (s.trap f).cur = s.cur := rfl
@[simp] theorem State.trap_slot (s : State) (f : Trap) : (s.trap f).slot = s.slot := rfl
@[simp] theorem State.trap_agenda (s : State) (f : Trap) : (s.trap f).agenda = s.agenda := rfl
@[simp] theorem State.trap_free (s : State) (f : Trap) : (s.trap f).free = s.free := rfl
@[simp] theorem State.trap_nextId (s : State) (f : Trap) : (s.trap f).nextId = s.nextId := rfl
@[simp] theorem State.trap_clocks (s : State) (f : Trap) : (s.trap f).clocks = s.clocks := rfl
@[simp] theorem State.flagged_power (s : State) (n : Nat) (b : BitVec 7) (fp : Bool) : (s.flagged n b fp).power = s.power := rfl
@[simp] theorem State.flagged_cycles (s : State) (n : Nat) (b : BitVec 7) (fp : Bool) : (s.flagged n b fp).cycles = s.cycles := rfl
@[simp] theorem State.flagged_hubs (s : State) (n : Nat) (b : BitVec 7) (fp : Bool) : (s.flagged n b fp).hubs = s.hubs := rfl
@[simp] theorem State.flagged_domains (s : State) (n : Nat) (b : BitVec 7) (fp : Bool) : (s.flagged n b fp).domains = s.domains := rfl
@[simp] theorem State.flagged_bricks (s : State) (n : Nat) (b : BitVec 7) (fp : Bool) : (s.flagged n b fp).bricks = s.bricks := rfl
@[simp] theorem State.flagged_edge (s : State) (n : Nat) (b : BitVec 7) (fp : Bool) : (s.flagged n b fp).edge = s.edge := rfl
@[simp] theorem State.flagged_poison (s : State) (n : Nat) (b : BitVec 7) (fp : Bool) : (s.flagged n b fp).poison = s.poison := rfl
@[simp] theorem State.flagged_reqs (s : State) (n : Nat) (b : BitVec 7) (fp : Bool) : (s.flagged n b fp).reqs = s.reqs := rfl
@[simp] theorem State.flagged_hubReqs (s : State) (n : Nat) (b : BitVec 7) (fp : Bool) : (s.flagged n b fp).hubReqs = s.hubReqs := rfl
@[simp] theorem State.flagged_hubReps (s : State) (n : Nat) (b : BitVec 7) (fp : Bool) : (s.flagged n b fp).hubReps = s.hubReps := rfl
@[simp] theorem State.flagged_colls (s : State) (n : Nat) (b : BitVec 7) (fp : Bool) : (s.flagged n b fp).colls = s.colls := rfl
@[simp] theorem State.flagged_mgmt (s : State) (n : Nat) (b : BitVec 7) (fp : Bool) : (s.flagged n b fp).mgmt = s.mgmt := rfl
@[simp] theorem State.flagged_time (s : State) (n : Nat) (b : BitVec 7) (fp : Bool) : (s.flagged n b fp).time = s.time := rfl
@[simp] theorem State.flagged_cur (s : State) (n : Nat) (b : BitVec 7) (fp : Bool) : (s.flagged n b fp).cur = s.cur := rfl
@[simp] theorem State.flagged_slot (s : State) (n : Nat) (b : BitVec 7) (fp : Bool) : (s.flagged n b fp).slot = s.slot := rfl
@[simp] theorem State.flagged_agenda (s : State) (n : Nat) (b : BitVec 7) (fp : Bool) : (s.flagged n b fp).agenda = s.agenda := rfl
@[simp] theorem State.flagged_free (s : State) (n : Nat) (b : BitVec 7) (fp : Bool) : (s.flagged n b fp).free = s.free := rfl
@[simp] theorem State.flagged_nextId (s : State) (n : Nat) (b : BitVec 7) (fp : Bool) : (s.flagged n b fp).nextId = s.nextId := rfl
@[simp] theorem State.flagged_clocks (s : State) (n : Nat) (b : BitVec 7) (fp : Bool) : (s.flagged n b fp).clocks = s.clocks := rfl
@[simp] theorem State.useData_power (s : State) (q : List (List Nat)) : (s.useData q).power = s.power := rfl
@[simp] theorem State.useData_cycles (s : State) (q : List (List Nat)) : (s.useData q).cycles = s.cycles := rfl
@[simp] theorem State.useData_hubs (s : State) (q : List (List Nat)) : (s.useData q).hubs = s.hubs := rfl
@[simp] theorem State.useData_domains (s : State) (q : List (List Nat)) : (s.useData q).domains = s.domains := rfl
@[simp] theorem State.useData_bricks (s : State) (q : List (List Nat)) : (s.useData q).bricks = s.bricks := rfl
@[simp] theorem State.useData_edge (s : State) (q : List (List Nat)) : (s.useData q).edge = s.edge := rfl
@[simp] theorem State.useData_poison (s : State) (q : List (List Nat)) : (s.useData q).poison = s.poison := rfl
@[simp] theorem State.useData_reqs (s : State) (q : List (List Nat)) : (s.useData q).reqs = s.reqs := rfl
@[simp] theorem State.useData_hubReqs (s : State) (q : List (List Nat)) : (s.useData q).hubReqs = s.hubReqs := rfl
@[simp] theorem State.useData_hubReps (s : State) (q : List (List Nat)) : (s.useData q).hubReps = s.hubReps := rfl
@[simp] theorem State.useData_colls (s : State) (q : List (List Nat)) : (s.useData q).colls = s.colls := rfl
@[simp] theorem State.useData_mgmt (s : State) (q : List (List Nat)) : (s.useData q).mgmt = s.mgmt := rfl
@[simp] theorem State.useData_time (s : State) (q : List (List Nat)) : (s.useData q).time = s.time := rfl
@[simp] theorem State.useData_cur (s : State) (q : List (List Nat)) : (s.useData q).cur = s.cur := rfl
@[simp] theorem State.useData_slot (s : State) (q : List (List Nat)) : (s.useData q).slot = s.slot := rfl
@[simp] theorem State.useData_agenda (s : State) (q : List (List Nat)) : (s.useData q).agenda = s.agenda := rfl
@[simp] theorem State.useData_free (s : State) (q : List (List Nat)) : (s.useData q).free = s.free := rfl
@[simp] theorem State.useData_nextId (s : State) (q : List (List Nat)) : (s.useData q).nextId = s.nextId := rfl
@[simp] theorem State.useData_clocks (s : State) (q : List (List Nat)) : (s.useData q).clocks = s.clocks := rfl
@[simp] theorem State.sample_power (s : State) (l q : Nat) (ch : BitVec 6) (v : Nat) : (s.sample l q ch v).power = s.power := rfl
@[simp] theorem State.sample_cycles (s : State) (l q : Nat) (ch : BitVec 6) (v : Nat) : (s.sample l q ch v).cycles = s.cycles := rfl
@[simp] theorem State.sample_cores (s : State) (l q : Nat) (ch : BitVec 6) (v : Nat) : (s.sample l q ch v).cores = s.cores := rfl
@[simp] theorem State.sample_domains (s : State) (l q : Nat) (ch : BitVec 6) (v : Nat) : (s.sample l q ch v).domains = s.domains := rfl
@[simp] theorem State.sample_bricks (s : State) (l q : Nat) (ch : BitVec 6) (v : Nat) : (s.sample l q ch v).bricks = s.bricks := rfl
@[simp] theorem State.sample_edge (s : State) (l q : Nat) (ch : BitVec 6) (v : Nat) : (s.sample l q ch v).edge = s.edge := rfl
@[simp] theorem State.sample_poison (s : State) (l q : Nat) (ch : BitVec 6) (v : Nat) : (s.sample l q ch v).poison = s.poison := rfl
@[simp] theorem State.sample_reqs (s : State) (l q : Nat) (ch : BitVec 6) (v : Nat) : (s.sample l q ch v).reqs = s.reqs := rfl
@[simp] theorem State.sample_hubReqs (s : State) (l q : Nat) (ch : BitVec 6) (v : Nat) : (s.sample l q ch v).hubReqs = s.hubReqs := rfl
@[simp] theorem State.sample_hubReps (s : State) (l q : Nat) (ch : BitVec 6) (v : Nat) : (s.sample l q ch v).hubReps = s.hubReps := rfl
@[simp] theorem State.sample_colls (s : State) (l q : Nat) (ch : BitVec 6) (v : Nat) : (s.sample l q ch v).colls = s.colls := rfl
@[simp] theorem State.sample_mgmt (s : State) (l q : Nat) (ch : BitVec 6) (v : Nat) : (s.sample l q ch v).mgmt = s.mgmt := rfl
@[simp] theorem State.sample_time (s : State) (l q : Nat) (ch : BitVec 6) (v : Nat) : (s.sample l q ch v).time = s.time := rfl
@[simp] theorem State.sample_cur (s : State) (l q : Nat) (ch : BitVec 6) (v : Nat) : (s.sample l q ch v).cur = s.cur := rfl
@[simp] theorem State.sample_slot (s : State) (l q : Nat) (ch : BitVec 6) (v : Nat) : (s.sample l q ch v).slot = s.slot := rfl
@[simp] theorem State.sample_agenda (s : State) (l q : Nat) (ch : BitVec 6) (v : Nat) : (s.sample l q ch v).agenda = s.agenda := rfl
@[simp] theorem State.sample_free (s : State) (l q : Nat) (ch : BitVec 6) (v : Nat) : (s.sample l q ch v).free = s.free := rfl
@[simp] theorem State.sample_nextId (s : State) (l q : Nat) (ch : BitVec 6) (v : Nat) : (s.sample l q ch v).nextId = s.nextId := rfl
@[simp] theorem State.sample_clocks (s : State) (l q : Nat) (ch : BitVec 6) (v : Nat) : (s.sample l q ch v).clocks = s.clocks := rfl
@[simp] theorem State.toHub_power (s : State) (l : Nat) (k : BitVec 3) (op : HubOp) : (s.toHub l k op).power = s.power := rfl
@[simp] theorem State.toHub_cycles (s : State) (l : Nat) (k : BitVec 3) (op : HubOp) : (s.toHub l k op).cycles = s.cycles := rfl
@[simp] theorem State.toHub_cores (s : State) (l : Nat) (k : BitVec 3) (op : HubOp) : (s.toHub l k op).cores = s.cores := rfl
@[simp] theorem State.toHub_hubs (s : State) (l : Nat) (k : BitVec 3) (op : HubOp) : (s.toHub l k op).hubs = s.hubs := rfl
@[simp] theorem State.toHub_domains (s : State) (l : Nat) (k : BitVec 3) (op : HubOp) : (s.toHub l k op).domains = s.domains := rfl
@[simp] theorem State.toHub_bricks (s : State) (l : Nat) (k : BitVec 3) (op : HubOp) : (s.toHub l k op).bricks = s.bricks := rfl
@[simp] theorem State.toHub_edge (s : State) (l : Nat) (k : BitVec 3) (op : HubOp) : (s.toHub l k op).edge = s.edge := rfl
@[simp] theorem State.toHub_poison (s : State) (l : Nat) (k : BitVec 3) (op : HubOp) : (s.toHub l k op).poison = s.poison := rfl
@[simp] theorem State.toHub_reqs (s : State) (l : Nat) (k : BitVec 3) (op : HubOp) : (s.toHub l k op).reqs = s.reqs := rfl
@[simp] theorem State.toHub_hubReps (s : State) (l : Nat) (k : BitVec 3) (op : HubOp) : (s.toHub l k op).hubReps = s.hubReps := rfl
@[simp] theorem State.toHub_colls (s : State) (l : Nat) (k : BitVec 3) (op : HubOp) : (s.toHub l k op).colls = s.colls := rfl
@[simp] theorem State.toHub_mgmt (s : State) (l : Nat) (k : BitVec 3) (op : HubOp) : (s.toHub l k op).mgmt = s.mgmt := rfl
@[simp] theorem State.toHub_time (s : State) (l : Nat) (k : BitVec 3) (op : HubOp) : (s.toHub l k op).time = s.time := rfl
@[simp] theorem State.toHub_cur (s : State) (l : Nat) (k : BitVec 3) (op : HubOp) : (s.toHub l k op).cur = s.cur := rfl
@[simp] theorem State.toHub_slot (s : State) (l : Nat) (k : BitVec 3) (op : HubOp) : (s.toHub l k op).slot = s.slot := rfl
@[simp] theorem State.toHub_agenda (s : State) (l : Nat) (k : BitVec 3) (op : HubOp) : (s.toHub l k op).agenda = s.agenda := rfl
@[simp] theorem State.toHub_free (s : State) (l : Nat) (k : BitVec 3) (op : HubOp) : (s.toHub l k op).free = s.free := rfl
@[simp] theorem State.toHub_nextId (s : State) (l : Nat) (k : BitVec 3) (op : HubOp) : (s.toHub l k op).nextId = s.nextId := rfl
@[simp] theorem State.toHub_clocks (s : State) (l : Nat) (k : BitVec 3) (op : HubOp) : (s.toHub l k op).clocks = s.clocks := rfl
@[simp] theorem State.fromHub_power (s : State) (l : Nat) (k : BitVec 3) (r : HubRep) : (s.fromHub l k r).power = s.power := rfl
@[simp] theorem State.fromHub_cycles (s : State) (l : Nat) (k : BitVec 3) (r : HubRep) : (s.fromHub l k r).cycles = s.cycles := rfl
@[simp] theorem State.fromHub_cores (s : State) (l : Nat) (k : BitVec 3) (r : HubRep) : (s.fromHub l k r).cores = s.cores := rfl
@[simp] theorem State.fromHub_hubs (s : State) (l : Nat) (k : BitVec 3) (r : HubRep) : (s.fromHub l k r).hubs = s.hubs := rfl
@[simp] theorem State.fromHub_domains (s : State) (l : Nat) (k : BitVec 3) (r : HubRep) : (s.fromHub l k r).domains = s.domains := rfl
@[simp] theorem State.fromHub_bricks (s : State) (l : Nat) (k : BitVec 3) (r : HubRep) : (s.fromHub l k r).bricks = s.bricks := rfl
@[simp] theorem State.fromHub_edge (s : State) (l : Nat) (k : BitVec 3) (r : HubRep) : (s.fromHub l k r).edge = s.edge := rfl
@[simp] theorem State.fromHub_poison (s : State) (l : Nat) (k : BitVec 3) (r : HubRep) : (s.fromHub l k r).poison = s.poison := rfl
@[simp] theorem State.fromHub_reqs (s : State) (l : Nat) (k : BitVec 3) (r : HubRep) : (s.fromHub l k r).reqs = s.reqs := rfl
@[simp] theorem State.fromHub_hubReqs (s : State) (l : Nat) (k : BitVec 3) (r : HubRep) : (s.fromHub l k r).hubReqs = s.hubReqs := rfl
@[simp] theorem State.fromHub_colls (s : State) (l : Nat) (k : BitVec 3) (r : HubRep) : (s.fromHub l k r).colls = s.colls := rfl
@[simp] theorem State.fromHub_mgmt (s : State) (l : Nat) (k : BitVec 3) (r : HubRep) : (s.fromHub l k r).mgmt = s.mgmt := rfl
@[simp] theorem State.fromHub_time (s : State) (l : Nat) (k : BitVec 3) (r : HubRep) : (s.fromHub l k r).time = s.time := rfl
@[simp] theorem State.fromHub_cur (s : State) (l : Nat) (k : BitVec 3) (r : HubRep) : (s.fromHub l k r).cur = s.cur := rfl
@[simp] theorem State.fromHub_slot (s : State) (l : Nat) (k : BitVec 3) (r : HubRep) : (s.fromHub l k r).slot = s.slot := rfl
@[simp] theorem State.fromHub_agenda (s : State) (l : Nat) (k : BitVec 3) (r : HubRep) : (s.fromHub l k r).agenda = s.agenda := rfl
@[simp] theorem State.fromHub_free (s : State) (l : Nat) (k : BitVec 3) (r : HubRep) : (s.fromHub l k r).free = s.free := rfl
@[simp] theorem State.fromHub_nextId (s : State) (l : Nat) (k : BitVec 3) (r : HubRep) : (s.fromHub l k r).nextId = s.nextId := rfl
@[simp] theorem State.fromHub_clocks (s : State) (l : Nat) (k : BitVec 3) (r : HubRep) : (s.fromHub l k r).clocks = s.clocks := rfl
@[simp] theorem State.modReq_power (s : State) (i : Nat) (f : EdgeReq → EdgeReq) : (s.modReq i f).power = s.power := rfl
@[simp] theorem State.modReq_cycles (s : State) (i : Nat) (f : EdgeReq → EdgeReq) : (s.modReq i f).cycles = s.cycles := rfl
@[simp] theorem State.modReq_cores (s : State) (i : Nat) (f : EdgeReq → EdgeReq) : (s.modReq i f).cores = s.cores := rfl
@[simp] theorem State.modReq_hubs (s : State) (i : Nat) (f : EdgeReq → EdgeReq) : (s.modReq i f).hubs = s.hubs := rfl
@[simp] theorem State.modReq_domains (s : State) (i : Nat) (f : EdgeReq → EdgeReq) : (s.modReq i f).domains = s.domains := rfl
@[simp] theorem State.modReq_bricks (s : State) (i : Nat) (f : EdgeReq → EdgeReq) : (s.modReq i f).bricks = s.bricks := rfl
@[simp] theorem State.modReq_edge (s : State) (i : Nat) (f : EdgeReq → EdgeReq) : (s.modReq i f).edge = s.edge := rfl
@[simp] theorem State.modReq_poison (s : State) (i : Nat) (f : EdgeReq → EdgeReq) : (s.modReq i f).poison = s.poison := rfl
@[simp] theorem State.modReq_hubReqs (s : State) (i : Nat) (f : EdgeReq → EdgeReq) : (s.modReq i f).hubReqs = s.hubReqs := rfl
@[simp] theorem State.modReq_hubReps (s : State) (i : Nat) (f : EdgeReq → EdgeReq) : (s.modReq i f).hubReps = s.hubReps := rfl
@[simp] theorem State.modReq_colls (s : State) (i : Nat) (f : EdgeReq → EdgeReq) : (s.modReq i f).colls = s.colls := rfl
@[simp] theorem State.modReq_mgmt (s : State) (i : Nat) (f : EdgeReq → EdgeReq) : (s.modReq i f).mgmt = s.mgmt := rfl
@[simp] theorem State.modReq_time (s : State) (i : Nat) (f : EdgeReq → EdgeReq) : (s.modReq i f).time = s.time := rfl
@[simp] theorem State.modReq_cur (s : State) (i : Nat) (f : EdgeReq → EdgeReq) : (s.modReq i f).cur = s.cur := rfl
@[simp] theorem State.modReq_slot (s : State) (i : Nat) (f : EdgeReq → EdgeReq) : (s.modReq i f).slot = s.slot := rfl
@[simp] theorem State.modReq_agenda (s : State) (i : Nat) (f : EdgeReq → EdgeReq) : (s.modReq i f).agenda = s.agenda := rfl
@[simp] theorem State.modReq_free (s : State) (i : Nat) (f : EdgeReq → EdgeReq) : (s.modReq i f).free = s.free := rfl
@[simp] theorem State.modReq_nextId (s : State) (i : Nat) (f : EdgeReq → EdgeReq) : (s.modReq i f).nextId = s.nextId := rfl
@[simp] theorem State.modReq_clocks (s : State) (i : Nat) (f : EdgeReq → EdgeReq) : (s.modReq i f).clocks = s.clocks := rfl
@[simp] theorem State.dropReq_power (s : State) (i : Nat) : (s.dropReq i).power = s.power := rfl
@[simp] theorem State.dropReq_cycles (s : State) (i : Nat) : (s.dropReq i).cycles = s.cycles := rfl
@[simp] theorem State.dropReq_cores (s : State) (i : Nat) : (s.dropReq i).cores = s.cores := rfl
@[simp] theorem State.dropReq_hubs (s : State) (i : Nat) : (s.dropReq i).hubs = s.hubs := rfl
@[simp] theorem State.dropReq_domains (s : State) (i : Nat) : (s.dropReq i).domains = s.domains := rfl
@[simp] theorem State.dropReq_bricks (s : State) (i : Nat) : (s.dropReq i).bricks = s.bricks := rfl
@[simp] theorem State.dropReq_edge (s : State) (i : Nat) : (s.dropReq i).edge = s.edge := rfl
@[simp] theorem State.dropReq_poison (s : State) (i : Nat) : (s.dropReq i).poison = s.poison := rfl
@[simp] theorem State.dropReq_hubReqs (s : State) (i : Nat) : (s.dropReq i).hubReqs = s.hubReqs := rfl
@[simp] theorem State.dropReq_hubReps (s : State) (i : Nat) : (s.dropReq i).hubReps = s.hubReps := rfl
@[simp] theorem State.dropReq_colls (s : State) (i : Nat) : (s.dropReq i).colls = s.colls := rfl
@[simp] theorem State.dropReq_mgmt (s : State) (i : Nat) : (s.dropReq i).mgmt = s.mgmt := rfl
@[simp] theorem State.dropReq_time (s : State) (i : Nat) : (s.dropReq i).time = s.time := rfl
@[simp] theorem State.dropReq_cur (s : State) (i : Nat) : (s.dropReq i).cur = s.cur := rfl
@[simp] theorem State.dropReq_slot (s : State) (i : Nat) : (s.dropReq i).slot = s.slot := rfl
@[simp] theorem State.dropReq_agenda (s : State) (i : Nat) : (s.dropReq i).agenda = s.agenda := rfl
@[simp] theorem State.dropReq_free (s : State) (i : Nat) : (s.dropReq i).free = s.free := rfl
@[simp] theorem State.dropReq_nextId (s : State) (i : Nat) : (s.dropReq i).nextId = s.nextId := rfl
@[simp] theorem State.dropReq_clocks (s : State) (i : Nat) : (s.dropReq i).clocks = s.clocks := rfl
@[simp] theorem State.modColl_power (s : State) (i : Nat) (f : Coll → Coll) : (s.modColl i f).power = s.power := rfl
@[simp] theorem State.modColl_cycles (s : State) (i : Nat) (f : Coll → Coll) : (s.modColl i f).cycles = s.cycles := rfl
@[simp] theorem State.modColl_cores (s : State) (i : Nat) (f : Coll → Coll) : (s.modColl i f).cores = s.cores := rfl
@[simp] theorem State.modColl_hubs (s : State) (i : Nat) (f : Coll → Coll) : (s.modColl i f).hubs = s.hubs := rfl
@[simp] theorem State.modColl_domains (s : State) (i : Nat) (f : Coll → Coll) : (s.modColl i f).domains = s.domains := rfl
@[simp] theorem State.modColl_bricks (s : State) (i : Nat) (f : Coll → Coll) : (s.modColl i f).bricks = s.bricks := rfl
@[simp] theorem State.modColl_edge (s : State) (i : Nat) (f : Coll → Coll) : (s.modColl i f).edge = s.edge := rfl
@[simp] theorem State.modColl_poison (s : State) (i : Nat) (f : Coll → Coll) : (s.modColl i f).poison = s.poison := rfl
@[simp] theorem State.modColl_reqs (s : State) (i : Nat) (f : Coll → Coll) : (s.modColl i f).reqs = s.reqs := rfl
@[simp] theorem State.modColl_hubReqs (s : State) (i : Nat) (f : Coll → Coll) : (s.modColl i f).hubReqs = s.hubReqs := rfl
@[simp] theorem State.modColl_hubReps (s : State) (i : Nat) (f : Coll → Coll) : (s.modColl i f).hubReps = s.hubReps := rfl
@[simp] theorem State.modColl_mgmt (s : State) (i : Nat) (f : Coll → Coll) : (s.modColl i f).mgmt = s.mgmt := rfl
@[simp] theorem State.modColl_time (s : State) (i : Nat) (f : Coll → Coll) : (s.modColl i f).time = s.time := rfl
@[simp] theorem State.modColl_cur (s : State) (i : Nat) (f : Coll → Coll) : (s.modColl i f).cur = s.cur := rfl
@[simp] theorem State.modColl_slot (s : State) (i : Nat) (f : Coll → Coll) : (s.modColl i f).slot = s.slot := rfl
@[simp] theorem State.modColl_agenda (s : State) (i : Nat) (f : Coll → Coll) : (s.modColl i f).agenda = s.agenda := rfl
@[simp] theorem State.modColl_free (s : State) (i : Nat) (f : Coll → Coll) : (s.modColl i f).free = s.free := rfl
@[simp] theorem State.modColl_nextId (s : State) (i : Nat) (f : Coll → Coll) : (s.modColl i f).nextId = s.nextId := rfl
@[simp] theorem State.modColl_clocks (s : State) (i : Nat) (f : Coll → Coll) : (s.modColl i f).clocks = s.clocks := rfl
@[simp] theorem State.sendEdge_power (s : State) (b : Nat) (w : Bool) (op : EdgeOp) (ps : List Piece) : (s.sendEdge b w op ps).power = s.power := rfl
@[simp] theorem State.sendEdge_cycles (s : State) (b : Nat) (w : Bool) (op : EdgeOp) (ps : List Piece) : (s.sendEdge b w op ps).cycles = s.cycles := rfl
@[simp] theorem State.sendEdge_hubs (s : State) (b : Nat) (w : Bool) (op : EdgeOp) (ps : List Piece) : (s.sendEdge b w op ps).hubs = s.hubs := rfl
@[simp] theorem State.sendEdge_domains (s : State) (b : Nat) (w : Bool) (op : EdgeOp) (ps : List Piece) : (s.sendEdge b w op ps).domains = s.domains := rfl
@[simp] theorem State.sendEdge_bricks (s : State) (b : Nat) (w : Bool) (op : EdgeOp) (ps : List Piece) : (s.sendEdge b w op ps).bricks = s.bricks := rfl
@[simp] theorem State.sendEdge_edge (s : State) (b : Nat) (w : Bool) (op : EdgeOp) (ps : List Piece) : (s.sendEdge b w op ps).edge = s.edge := rfl
@[simp] theorem State.sendEdge_poison (s : State) (b : Nat) (w : Bool) (op : EdgeOp) (ps : List Piece) : (s.sendEdge b w op ps).poison = s.poison := rfl
@[simp] theorem State.sendEdge_hubReqs (s : State) (b : Nat) (w : Bool) (op : EdgeOp) (ps : List Piece) : (s.sendEdge b w op ps).hubReqs = s.hubReqs := rfl
@[simp] theorem State.sendEdge_hubReps (s : State) (b : Nat) (w : Bool) (op : EdgeOp) (ps : List Piece) : (s.sendEdge b w op ps).hubReps = s.hubReps := rfl
@[simp] theorem State.sendEdge_colls (s : State) (b : Nat) (w : Bool) (op : EdgeOp) (ps : List Piece) : (s.sendEdge b w op ps).colls = s.colls := rfl
@[simp] theorem State.sendEdge_mgmt (s : State) (b : Nat) (w : Bool) (op : EdgeOp) (ps : List Piece) : (s.sendEdge b w op ps).mgmt = s.mgmt := rfl
@[simp] theorem State.sendEdge_time (s : State) (b : Nat) (w : Bool) (op : EdgeOp) (ps : List Piece) : (s.sendEdge b w op ps).time = s.time := rfl
@[simp] theorem State.sendEdge_cur (s : State) (b : Nat) (w : Bool) (op : EdgeOp) (ps : List Piece) : (s.sendEdge b w op ps).cur = s.cur := rfl
@[simp] theorem State.sendEdge_slot (s : State) (b : Nat) (w : Bool) (op : EdgeOp) (ps : List Piece) : (s.sendEdge b w op ps).slot = s.slot := rfl
@[simp] theorem State.sendEdge_agenda (s : State) (b : Nat) (w : Bool) (op : EdgeOp) (ps : List Piece) : (s.sendEdge b w op ps).agenda = s.agenda := rfl
@[simp] theorem State.sendEdge_free (s : State) (b : Nat) (w : Bool) (op : EdgeOp) (ps : List Piece) : (s.sendEdge b w op ps).free = s.free := rfl
@[simp] theorem State.enter_power (s : State) (l : Nat) (k : BitVec 3) : (s.enter l k).power = s.power := rfl
@[simp] theorem State.enter_cycles (s : State) (l : Nat) (k : BitVec 3) : (s.enter l k).cycles = s.cycles := rfl
@[simp] theorem State.enter_hubs (s : State) (l : Nat) (k : BitVec 3) : (s.enter l k).hubs = s.hubs := rfl
@[simp] theorem State.enter_domains (s : State) (l : Nat) (k : BitVec 3) : (s.enter l k).domains = s.domains := rfl
@[simp] theorem State.enter_bricks (s : State) (l : Nat) (k : BitVec 3) : (s.enter l k).bricks = s.bricks := rfl
@[simp] theorem State.enter_edge (s : State) (l : Nat) (k : BitVec 3) : (s.enter l k).edge = s.edge := rfl
@[simp] theorem State.enter_poison (s : State) (l : Nat) (k : BitVec 3) : (s.enter l k).poison = s.poison := rfl
@[simp] theorem State.enter_reqs (s : State) (l : Nat) (k : BitVec 3) : (s.enter l k).reqs = s.reqs := rfl
@[simp] theorem State.enter_hubReqs (s : State) (l : Nat) (k : BitVec 3) : (s.enter l k).hubReqs = s.hubReqs := rfl
@[simp] theorem State.enter_hubReps (s : State) (l : Nat) (k : BitVec 3) : (s.enter l k).hubReps = s.hubReps := rfl
@[simp] theorem State.enter_colls (s : State) (l : Nat) (k : BitVec 3) : (s.enter l k).colls = s.colls := rfl
@[simp] theorem State.enter_mgmt (s : State) (l : Nat) (k : BitVec 3) : (s.enter l k).mgmt = s.mgmt := rfl
@[simp] theorem State.enter_time (s : State) (l : Nat) (k : BitVec 3) : (s.enter l k).time = s.time := rfl
@[simp] theorem State.enter_agenda (s : State) (l : Nat) (k : BitVec 3) : (s.enter l k).agenda = s.agenda := rfl
@[simp] theorem State.enter_free (s : State) (l : Nat) (k : BitVec 3) : (s.enter l k).free = s.free := rfl
@[simp] theorem State.enter_nextId (s : State) (l : Nat) (k : BitVec 3) : (s.enter l k).nextId = s.nextId := rfl
@[simp] theorem State.enter_clocks (s : State) (l : Nat) (k : BitVec 3) : (s.enter l k).clocks = s.clocks := rfl

/-! ### Components -/

@[simp] theorem State.core_setCore (s : State) (l : Nat) (c : Core) : (s.setCore l c).core l = c := lookup_insert_self _ l c _
theorem State.core_setCore_ne (s : State) {l l' : Nat} (h : l' ≠ l) (c : Core) : (s.setCore l c).core l' = s.core l' := lookup_insert_ne _ h c _
@[simp] theorem State.core_modCore (s : State) (l : Nat) (f : Core → Core) : (s.modCore l f).core l = f (s.core l) := lookup_insert_self _ l _ _
theorem State.core_modCore_ne (s : State) {l l' : Nat} (h : l' ≠ l) (f : Core → Core) : (s.modCore l f).core l' = s.core l' :=
  lookup_insert_ne _ h _ _
@[simp] theorem State.hub_setHub (s : State) (l : Nat) (c : Hub) : (s.setHub l c).hub l = c := lookup_insert_self _ l c _
theorem State.hub_setHub_ne (s : State) {l l' : Nat} (h : l' ≠ l) (c : Hub) : (s.setHub l c).hub l' = s.hub l' := lookup_insert_ne _ h c _
@[simp] theorem State.domain_setDomain (s : State) (l : Nat) (c : Domain) : (s.setDomain l c).domain l = c := lookup_insert_self _ l c _
theorem State.domain_setDomain_ne (s : State) {l l' : Nat} (h : l' ≠ l) (c : Domain) : (s.setDomain l c).domain l' = s.domain l' :=
  lookup_insert_ne _ h c _
@[simp] theorem State.brick_setBrick (s : State) (l : Nat) (c : Brick) : (s.setBrick l c).brick l = c := lookup_insert_self _ l c _
theorem State.brick_setBrick_ne (s : State) {l l' : Nat} (h : l' ≠ l) (c : Brick) : (s.setBrick l c).brick l' = s.brick l' :=
  lookup_insert_ne _ h c _
@[simp] theorem State.me_modMe (s : State) (f : Core → Core) : (s.modMe f).me = f s.me := State.core_modCore s s.cur f
@[simp] theorem Core.strand_setStrand (c : Core) (k : BitVec 3) (t : Strand) : (c.setStrand k t).strand k = t := rd_wr_self _ k t
theorem Core.strand_setStrand_ne (c : Core) {k k' : BitVec 3} (h : k' ≠ k) (t : Strand) : (c.setStrand k t).strand k' = c.strand k' :=
  rd_wr_ne _ h t
@[simp] theorem Core.strand_modStrand (c : Core) (k : BitVec 3) (f : Strand → Strand) : (c.modStrand k f).strand k = f (c.strand k) :=
  Core.strand_setStrand c k _
@[simp] theorem State.st_modSt (s : State) (f : Strand → Strand) : (s.modSt f).st = f s.st := by
  simp [State.st, State.modSt]
@[simp] theorem State.me_modSt (s : State) (f : Strand → Strand) : (s.modSt f).me = s.me.modStrand s.slot f := State.me_modMe s _
@[simp] theorem State.cc_modSt (s : State) (f : Strand → Strand) : (s.modSt f).cc = s.cc := by simp [State.cc, Core.modStrand, Core.setStrand]

/-! ### A core -/

@[simp] theorem Core.setStrand_vregs (c : Core) (k : BitVec 3) (t : Strand) : (c.setStrand k t).vregs = c.vregs := rfl
@[simp] theorem Core.setStrand_tiles (c : Core) (k : BitVec 3) (t : Strand) : (c.setStrand k t).tiles = c.tiles := rfl
@[simp] theorem Core.setStrand_accs (c : Core) (k : BitVec 3) (t : Strand) : (c.setStrand k t).accs = c.accs := rfl
@[simp] theorem Core.setStrand_sram (c : Core) (k : BitVec 3) (t : Strand) : (c.setStrand k t).sram = c.sram := rfl
@[simp] theorem Core.setStrand_ue (c : Core) (k : BitVec 3) (t : Strand) : (c.setStrand k t).ue = c.ue := rfl
@[simp] theorem Core.setStrand_ce (c : Core) (k : BitVec 3) (t : Strand) : (c.setStrand k t).ce = c.ce := rfl
@[simp] theorem Core.setStrand_bobbins (c : Core) (k : BitVec 3) (t : Strand) : (c.setStrand k t).bobbins = c.bobbins := rfl
@[simp] theorem Core.setStrand_tags (c : Core) (k : BitVec 3) (t : Strand) : (c.setStrand k t).tags = c.tags := rfl
@[simp] theorem Core.setStrand_routes (c : Core) (k : BitVec 3) (t : Strand) : (c.setStrand k t).routes = c.routes := rfl
@[simp] theorem Core.setStrand_trigs (c : Core) (k : BitVec 3) (t : Strand) : (c.setStrand k t).trigs = c.trigs := rfl
@[simp] theorem Core.setStrand_sendCtr (c : Core) (k : BitVec 3) (t : Strand) : (c.setStrand k t).sendCtr = c.sendCtr := rfl
@[simp] theorem Core.setStrand_tricks (c : Core) (k : BitVec 3) (t : Strand) : (c.setStrand k t).tricks = c.tricks := rfl
@[simp] theorem Core.setStrand_inject (c : Core) (k : BitVec 3) (t : Strand) : (c.setStrand k t).inject = c.inject := rfl
@[simp] theorem Core.setStrand_inputs (c : Core) (k : BitVec 3) (t : Strand) : (c.setStrand k t).inputs = c.inputs := rfl
@[simp] theorem Core.setStrand_locals (c : Core) (k : BitVec 3) (t : Strand) : (c.setStrand k t).locals = c.locals := rfl
@[simp] theorem Core.setStrand_used (c : Core) (k : BitVec 3) (t : Strand) : (c.setStrand k t).used = c.used := rfl
@[simp] theorem Core.setStrand_owed (c : Core) (k : BitVec 3) (t : Strand) : (c.setStrand k t).owed = c.owed := rfl
@[simp] theorem Core.setStrand_lastWin (c : Core) (k : BitVec 3) (t : Strand) : (c.setStrand k t).lastWin = c.lastWin := rfl
@[simp] theorem Core.setStrand_freezeBuf (c : Core) (k : BitVec 3) (t : Strand) : (c.setStrand k t).freezeBuf = c.freezeBuf := rfl
@[simp] theorem Core.setStrand_frozen (c : Core) (k : BitVec 3) (t : Strand) : (c.setStrand k t).frozen = c.frozen := rfl
@[simp] theorem Core.setStrand_drained (c : Core) (k : BitVec 3) (t : Strand) : (c.setStrand k t).drained = c.drained := rfl
@[simp] theorem Core.setStrand_quiescent (c : Core) (k : BitVec 3) (t : Strand) : (c.setStrand k t).quiescent = c.quiescent := rfl
@[simp] theorem Core.setStrand_entries (c : Core) (k : BitVec 3) (t : Strand) : (c.setStrand k t).entries = c.entries := rfl
@[simp] theorem Core.setStrand_spawnQ (c : Core) (k : BitVec 3) (t : Strand) : (c.setStrand k t).spawnQ = c.spawnQ := rfl
@[simp] theorem Core.setStrand_grantHeld (c : Core) (k : BitVec 3) (t : Strand) : (c.setStrand k t).grantHeld = c.grantHeld := rfl
@[simp] theorem Core.setStrand_shapes (c : Core) (k : BitVec 3) (t : Strand) : (c.setStrand k t).shapes = c.shapes := rfl
@[simp] theorem Core.setStrand_streams (c : Core) (k : BitVec 3) (t : Strand) : (c.setStrand k t).streams = c.streams := rfl
@[simp] theorem Core.setStrand_copies (c : Core) (k : BitVec 3) (t : Strand) : (c.setStrand k t).copies = c.copies := rfl
@[simp] theorem Core.setStrand_drainM (c : Core) (k : BitVec 3) (t : Strand) : (c.setStrand k t).drainM = c.drainM := rfl
@[simp] theorem Core.setStrand_srDrain (c : Core) (k : BitVec 3) (t : Strand) : (c.setStrand k t).srDrain = c.srDrain := rfl
@[simp] theorem Core.setStrand_srVcvt (c : Core) (k : BitVec 3) (t : Strand) : (c.setStrand k t).srVcvt = c.srVcvt := rfl
@[simp] theorem Core.setStrand_srSeed (c : Core) (k : BitVec 3) (t : Strand) : (c.setStrand k t).srSeed = c.srSeed := rfl
@[simp] theorem Core.setStrand_sigSeed (c : Core) (k : BitVec 3) (t : Strand) : (c.setStrand k t).sigSeed = c.sigSeed := rfl
@[simp] theorem Core.setStrand_cap (c : Core) (k : BitVec 3) (t : Strand) : (c.setStrand k t).cap = c.cap := rfl
@[simp] theorem Core.setStrand_pol (c : Core) (k : BitVec 3) (t : Strand) : (c.setStrand k t).pol = c.pol := rfl
@[simp] theorem Core.setStrand_splice (c : Core) (k : BitVec 3) (t : Strand) : (c.setStrand k t).splice = c.splice := rfl
@[simp] theorem Core.setStrand_sramce (c : Core) (k : BitVec 3) (t : Strand) : (c.setStrand k t).sramce = c.sramce := rfl
@[simp] theorem Core.setStrand_plb (c : Core) (k : BitVec 3) (t : Strand) : (c.setStrand k t).plb = c.plb := rfl
@[simp] theorem Core.setStrand_plbLow (c : Core) (k : BitVec 3) (t : Strand) : (c.setStrand k t).plbLow = c.plbLow := rfl
@[simp] theorem Core.setStrand_lastIssue (c : Core) (k : BitVec 3) (t : Strand) : (c.setStrand k t).lastIssue = c.lastIssue := rfl
@[simp] theorem Core.setStrand_lastGone (c : Core) (k : BitVec 3) (t : Strand) : (c.setStrand k t).lastGone = c.lastGone := rfl
@[simp] theorem Core.setStrand_yielded (c : Core) (k : BitVec 3) (t : Strand) : (c.setStrand k t).yielded = c.yielded := rfl
@[simp] theorem Core.setStrand_cc (c : Core) (k : BitVec 3) (t : Strand) : (c.setStrand k t).cc = c.cc := rfl
@[simp] theorem Core.setStrand_stretched (c : Core) (k : BitVec 3) (t : Strand) : (c.setStrand k t).stretched = c.stretched := rfl
@[simp] theorem Core.setStrand_stretchLeft (c : Core) (k : BitVec 3) (t : Strand) : (c.setStrand k t).stretchLeft = c.stretchLeft := rfl
@[simp] theorem Core.setStrand_halfLeft (c : Core) (k : BitVec 3) (t : Strand) : (c.setStrand k t).halfLeft = c.halfLeft := rfl
@[simp] theorem Core.setStrand_vecOn (c : Core) (k : BitVec 3) (t : Strand) : (c.setStrand k t).vecOn = c.vecOn := rfl
@[simp] theorem Core.setStrand_tenOn (c : Core) (k : BitVec 3) (t : Strand) : (c.setStrand k t).tenOn = c.tenOn := rfl
@[simp] theorem Core.setStrand_vecUntil (c : Core) (k : BitVec 3) (t : Strand) : (c.setStrand k t).vecUntil = c.vecUntil := rfl
@[simp] theorem Core.setStrand_latom (c : Core) (k : BitVec 3) (t : Strand) : (c.setStrand k t).latom = c.latom := rfl
@[simp] theorem Core.setStrand_vecIdle (c : Core) (k : BitVec 3) (t : Strand) : (c.setStrand k t).vecIdle = c.vecIdle := rfl
@[simp] theorem Core.setStrand_tenIdle (c : Core) (k : BitVec 3) (t : Strand) : (c.setStrand k t).tenIdle = c.tenIdle := rfl
@[simp] theorem Core.setStrand_token (c : Core) (k : BitVec 3) (t : Strand) : (c.setStrand k t).token = c.token := rfl
@[simp] theorem Core.setStrand_units (c : Core) (k : BitVec 3) (t : Strand) : (c.setStrand k t).units = c.units := rfl
@[simp] theorem Core.setStrand_later (c : Core) (k : BitVec 3) (t : Strand) : (c.setStrand k t).later = c.later := rfl
@[simp] theorem Core.setStrand_reports (c : Core) (k : BitVec 3) (t : Strand) : (c.setStrand k t).reports = c.reports := rfl
@[simp] theorem Core.setStrand_offers (c : Core) (k : BitVec 3) (t : Strand) : (c.setStrand k t).offers = c.offers := rfl
@[simp] theorem Core.setStrand_reofferAt (c : Core) (k : BitVec 3) (t : Strand) : (c.setStrand k t).reofferAt = c.reofferAt := rfl
@[simp] theorem Core.setStrand_recSeq (c : Core) (k : BitVec 3) (t : Strand) : (c.setStrand k t).recSeq = c.recSeq := rfl
@[simp] theorem Core.setStrand_exitRep (c : Core) (k : BitVec 3) (t : Strand) : (c.setStrand k t).exitRep = c.exitRep := rfl
@[simp] theorem Core.setStrand_scSeq (c : Core) (k : BitVec 3) (t : Strand) : (c.setStrand k t).scSeq = c.scSeq := rfl
@[simp] theorem Core.setStrand_collCount (c : Core) (k : BitVec 3) (t : Strand) : (c.setStrand k t).collCount = c.collCount := rfl
@[simp] theorem Core.setStrand_cfg (c : Core) (k : BitVec 3) (t : Strand) : (c.setStrand k t).cfg = c.cfg := rfl
@[simp] theorem Core.setStrand_part (c : Core) (k : BitVec 3) (t : Strand) : (c.setStrand k t).part = c.part := rfl
@[simp] theorem Core.setStrand_skein (c : Core) (k : BitVec 3) (t : Strand) : (c.setStrand k t).skein = c.skein := rfl
@[simp] theorem Core.setStrand_priv (c : Core) (k : BitVec 3) (t : Strand) : (c.setStrand k t).priv = c.priv := rfl
@[simp] theorem Core.setStrand_ways (c : Core) (k : BitVec 3) (t : Strand) : (c.setStrand k t).ways = c.ways := rfl
@[simp] theorem Core.setStrand_emits (c : Core) (k : BitVec 3) (t : Strand) : (c.setStrand k t).emits = c.emits := rfl
@[simp] theorem Core.setStrand_picks (c : Core) (k : BitVec 3) (t : Strand) : (c.setStrand k t).picks = c.picks := rfl
@[simp] theorem Core.setStrand_half (c : Core) (k : BitVec 3) (t : Strand) : (c.setStrand k t).half = c.half := rfl
@[simp] theorem Core.setStrand_dataQ (c : Core) (k : BitVec 3) (t : Strand) : (c.setStrand k t).dataQ = c.dataQ := rfl
@[simp] theorem Core.setStrand_depQ (c : Core) (k : BitVec 3) (t : Strand) : (c.setStrand k t).depQ = c.depQ := rfl
@[simp] theorem Core.setStrand_banks (c : Core) (k : BitVec 3) (t : Strand) : (c.setStrand k t).banks = c.banks := rfl
@[simp] theorem Core.setStrand_filled (c : Core) (k : BitVec 3) (t : Strand) : (c.setStrand k t).filled = c.filled := rfl
@[simp] theorem Core.setStrand_cfgOuts (c : Core) (k : BitVec 3) (t : Strand) : (c.setStrand k t).cfgOuts = c.cfgOuts := rfl
@[simp] theorem Core.setStrand_cfgIn (c : Core) (k : BitVec 3) (t : Strand) : (c.setStrand k t).cfgIn = c.cfgIn := rfl
@[simp] theorem Core.modStrand_vregs (c : Core) (k : BitVec 3) (f : Strand → Strand) : (c.modStrand k f).vregs = c.vregs := rfl
@[simp] theorem Core.modStrand_tiles (c : Core) (k : BitVec 3) (f : Strand → Strand) : (c.modStrand k f).tiles = c.tiles := rfl
@[simp] theorem Core.modStrand_accs (c : Core) (k : BitVec 3) (f : Strand → Strand) : (c.modStrand k f).accs = c.accs := rfl
@[simp] theorem Core.modStrand_sram (c : Core) (k : BitVec 3) (f : Strand → Strand) : (c.modStrand k f).sram = c.sram := rfl
@[simp] theorem Core.modStrand_ue (c : Core) (k : BitVec 3) (f : Strand → Strand) : (c.modStrand k f).ue = c.ue := rfl
@[simp] theorem Core.modStrand_ce (c : Core) (k : BitVec 3) (f : Strand → Strand) : (c.modStrand k f).ce = c.ce := rfl
@[simp] theorem Core.modStrand_bobbins (c : Core) (k : BitVec 3) (f : Strand → Strand) : (c.modStrand k f).bobbins = c.bobbins := rfl
@[simp] theorem Core.modStrand_tags (c : Core) (k : BitVec 3) (f : Strand → Strand) : (c.modStrand k f).tags = c.tags := rfl
@[simp] theorem Core.modStrand_routes (c : Core) (k : BitVec 3) (f : Strand → Strand) : (c.modStrand k f).routes = c.routes := rfl
@[simp] theorem Core.modStrand_trigs (c : Core) (k : BitVec 3) (f : Strand → Strand) : (c.modStrand k f).trigs = c.trigs := rfl
@[simp] theorem Core.modStrand_sendCtr (c : Core) (k : BitVec 3) (f : Strand → Strand) : (c.modStrand k f).sendCtr = c.sendCtr := rfl
@[simp] theorem Core.modStrand_tricks (c : Core) (k : BitVec 3) (f : Strand → Strand) : (c.modStrand k f).tricks = c.tricks := rfl
@[simp] theorem Core.modStrand_inject (c : Core) (k : BitVec 3) (f : Strand → Strand) : (c.modStrand k f).inject = c.inject := rfl
@[simp] theorem Core.modStrand_inputs (c : Core) (k : BitVec 3) (f : Strand → Strand) : (c.modStrand k f).inputs = c.inputs := rfl
@[simp] theorem Core.modStrand_locals (c : Core) (k : BitVec 3) (f : Strand → Strand) : (c.modStrand k f).locals = c.locals := rfl
@[simp] theorem Core.modStrand_used (c : Core) (k : BitVec 3) (f : Strand → Strand) : (c.modStrand k f).used = c.used := rfl
@[simp] theorem Core.modStrand_owed (c : Core) (k : BitVec 3) (f : Strand → Strand) : (c.modStrand k f).owed = c.owed := rfl
@[simp] theorem Core.modStrand_lastWin (c : Core) (k : BitVec 3) (f : Strand → Strand) : (c.modStrand k f).lastWin = c.lastWin := rfl
@[simp] theorem Core.modStrand_freezeBuf (c : Core) (k : BitVec 3) (f : Strand → Strand) : (c.modStrand k f).freezeBuf = c.freezeBuf := rfl
@[simp] theorem Core.modStrand_frozen (c : Core) (k : BitVec 3) (f : Strand → Strand) : (c.modStrand k f).frozen = c.frozen := rfl
@[simp] theorem Core.modStrand_drained (c : Core) (k : BitVec 3) (f : Strand → Strand) : (c.modStrand k f).drained = c.drained := rfl
@[simp] theorem Core.modStrand_quiescent (c : Core) (k : BitVec 3) (f : Strand → Strand) : (c.modStrand k f).quiescent = c.quiescent := rfl
@[simp] theorem Core.modStrand_entries (c : Core) (k : BitVec 3) (f : Strand → Strand) : (c.modStrand k f).entries = c.entries := rfl
@[simp] theorem Core.modStrand_spawnQ (c : Core) (k : BitVec 3) (f : Strand → Strand) : (c.modStrand k f).spawnQ = c.spawnQ := rfl
@[simp] theorem Core.modStrand_grantHeld (c : Core) (k : BitVec 3) (f : Strand → Strand) : (c.modStrand k f).grantHeld = c.grantHeld := rfl
@[simp] theorem Core.modStrand_shapes (c : Core) (k : BitVec 3) (f : Strand → Strand) : (c.modStrand k f).shapes = c.shapes := rfl
@[simp] theorem Core.modStrand_streams (c : Core) (k : BitVec 3) (f : Strand → Strand) : (c.modStrand k f).streams = c.streams := rfl
@[simp] theorem Core.modStrand_copies (c : Core) (k : BitVec 3) (f : Strand → Strand) : (c.modStrand k f).copies = c.copies := rfl
@[simp] theorem Core.modStrand_drainM (c : Core) (k : BitVec 3) (f : Strand → Strand) : (c.modStrand k f).drainM = c.drainM := rfl
@[simp] theorem Core.modStrand_srDrain (c : Core) (k : BitVec 3) (f : Strand → Strand) : (c.modStrand k f).srDrain = c.srDrain := rfl
@[simp] theorem Core.modStrand_srVcvt (c : Core) (k : BitVec 3) (f : Strand → Strand) : (c.modStrand k f).srVcvt = c.srVcvt := rfl
@[simp] theorem Core.modStrand_srSeed (c : Core) (k : BitVec 3) (f : Strand → Strand) : (c.modStrand k f).srSeed = c.srSeed := rfl
@[simp] theorem Core.modStrand_sigSeed (c : Core) (k : BitVec 3) (f : Strand → Strand) : (c.modStrand k f).sigSeed = c.sigSeed := rfl
@[simp] theorem Core.modStrand_cap (c : Core) (k : BitVec 3) (f : Strand → Strand) : (c.modStrand k f).cap = c.cap := rfl
@[simp] theorem Core.modStrand_pol (c : Core) (k : BitVec 3) (f : Strand → Strand) : (c.modStrand k f).pol = c.pol := rfl
@[simp] theorem Core.modStrand_splice (c : Core) (k : BitVec 3) (f : Strand → Strand) : (c.modStrand k f).splice = c.splice := rfl
@[simp] theorem Core.modStrand_sramce (c : Core) (k : BitVec 3) (f : Strand → Strand) : (c.modStrand k f).sramce = c.sramce := rfl
@[simp] theorem Core.modStrand_plb (c : Core) (k : BitVec 3) (f : Strand → Strand) : (c.modStrand k f).plb = c.plb := rfl
@[simp] theorem Core.modStrand_plbLow (c : Core) (k : BitVec 3) (f : Strand → Strand) : (c.modStrand k f).plbLow = c.plbLow := rfl
@[simp] theorem Core.modStrand_lastIssue (c : Core) (k : BitVec 3) (f : Strand → Strand) : (c.modStrand k f).lastIssue = c.lastIssue := rfl
@[simp] theorem Core.modStrand_lastGone (c : Core) (k : BitVec 3) (f : Strand → Strand) : (c.modStrand k f).lastGone = c.lastGone := rfl
@[simp] theorem Core.modStrand_yielded (c : Core) (k : BitVec 3) (f : Strand → Strand) : (c.modStrand k f).yielded = c.yielded := rfl
@[simp] theorem Core.modStrand_cc (c : Core) (k : BitVec 3) (f : Strand → Strand) : (c.modStrand k f).cc = c.cc := rfl
@[simp] theorem Core.modStrand_stretched (c : Core) (k : BitVec 3) (f : Strand → Strand) : (c.modStrand k f).stretched = c.stretched := rfl
@[simp] theorem Core.modStrand_stretchLeft (c : Core) (k : BitVec 3) (f : Strand → Strand) : (c.modStrand k f).stretchLeft = c.stretchLeft := rfl
@[simp] theorem Core.modStrand_halfLeft (c : Core) (k : BitVec 3) (f : Strand → Strand) : (c.modStrand k f).halfLeft = c.halfLeft := rfl
@[simp] theorem Core.modStrand_vecOn (c : Core) (k : BitVec 3) (f : Strand → Strand) : (c.modStrand k f).vecOn = c.vecOn := rfl
@[simp] theorem Core.modStrand_tenOn (c : Core) (k : BitVec 3) (f : Strand → Strand) : (c.modStrand k f).tenOn = c.tenOn := rfl
@[simp] theorem Core.modStrand_vecUntil (c : Core) (k : BitVec 3) (f : Strand → Strand) : (c.modStrand k f).vecUntil = c.vecUntil := rfl
@[simp] theorem Core.modStrand_latom (c : Core) (k : BitVec 3) (f : Strand → Strand) : (c.modStrand k f).latom = c.latom := rfl
@[simp] theorem Core.modStrand_vecIdle (c : Core) (k : BitVec 3) (f : Strand → Strand) : (c.modStrand k f).vecIdle = c.vecIdle := rfl
@[simp] theorem Core.modStrand_tenIdle (c : Core) (k : BitVec 3) (f : Strand → Strand) : (c.modStrand k f).tenIdle = c.tenIdle := rfl
@[simp] theorem Core.modStrand_token (c : Core) (k : BitVec 3) (f : Strand → Strand) : (c.modStrand k f).token = c.token := rfl
@[simp] theorem Core.modStrand_units (c : Core) (k : BitVec 3) (f : Strand → Strand) : (c.modStrand k f).units = c.units := rfl
@[simp] theorem Core.modStrand_later (c : Core) (k : BitVec 3) (f : Strand → Strand) : (c.modStrand k f).later = c.later := rfl
@[simp] theorem Core.modStrand_reports (c : Core) (k : BitVec 3) (f : Strand → Strand) : (c.modStrand k f).reports = c.reports := rfl
@[simp] theorem Core.modStrand_offers (c : Core) (k : BitVec 3) (f : Strand → Strand) : (c.modStrand k f).offers = c.offers := rfl
@[simp] theorem Core.modStrand_reofferAt (c : Core) (k : BitVec 3) (f : Strand → Strand) : (c.modStrand k f).reofferAt = c.reofferAt := rfl
@[simp] theorem Core.modStrand_recSeq (c : Core) (k : BitVec 3) (f : Strand → Strand) : (c.modStrand k f).recSeq = c.recSeq := rfl
@[simp] theorem Core.modStrand_exitRep (c : Core) (k : BitVec 3) (f : Strand → Strand) : (c.modStrand k f).exitRep = c.exitRep := rfl
@[simp] theorem Core.modStrand_scSeq (c : Core) (k : BitVec 3) (f : Strand → Strand) : (c.modStrand k f).scSeq = c.scSeq := rfl
@[simp] theorem Core.modStrand_collCount (c : Core) (k : BitVec 3) (f : Strand → Strand) : (c.modStrand k f).collCount = c.collCount := rfl
@[simp] theorem Core.modStrand_cfg (c : Core) (k : BitVec 3) (f : Strand → Strand) : (c.modStrand k f).cfg = c.cfg := rfl
@[simp] theorem Core.modStrand_part (c : Core) (k : BitVec 3) (f : Strand → Strand) : (c.modStrand k f).part = c.part := rfl
@[simp] theorem Core.modStrand_skein (c : Core) (k : BitVec 3) (f : Strand → Strand) : (c.modStrand k f).skein = c.skein := rfl
@[simp] theorem Core.modStrand_priv (c : Core) (k : BitVec 3) (f : Strand → Strand) : (c.modStrand k f).priv = c.priv := rfl
@[simp] theorem Core.modStrand_ways (c : Core) (k : BitVec 3) (f : Strand → Strand) : (c.modStrand k f).ways = c.ways := rfl
@[simp] theorem Core.modStrand_emits (c : Core) (k : BitVec 3) (f : Strand → Strand) : (c.modStrand k f).emits = c.emits := rfl
@[simp] theorem Core.modStrand_picks (c : Core) (k : BitVec 3) (f : Strand → Strand) : (c.modStrand k f).picks = c.picks := rfl
@[simp] theorem Core.modStrand_half (c : Core) (k : BitVec 3) (f : Strand → Strand) : (c.modStrand k f).half = c.half := rfl
@[simp] theorem Core.modStrand_dataQ (c : Core) (k : BitVec 3) (f : Strand → Strand) : (c.modStrand k f).dataQ = c.dataQ := rfl
@[simp] theorem Core.modStrand_depQ (c : Core) (k : BitVec 3) (f : Strand → Strand) : (c.modStrand k f).depQ = c.depQ := rfl
@[simp] theorem Core.modStrand_banks (c : Core) (k : BitVec 3) (f : Strand → Strand) : (c.modStrand k f).banks = c.banks := rfl
@[simp] theorem Core.modStrand_filled (c : Core) (k : BitVec 3) (f : Strand → Strand) : (c.modStrand k f).filled = c.filled := rfl
@[simp] theorem Core.modStrand_cfgOuts (c : Core) (k : BitVec 3) (f : Strand → Strand) : (c.modStrand k f).cfgOuts = c.cfgOuts := rfl
@[simp] theorem Core.modStrand_cfgIn (c : Core) (k : BitVec 3) (f : Strand → Strand) : (c.modStrand k f).cfgIn = c.cfgIn := rfl
@[simp] theorem Core.setTag_strands (c : Core) (k : BitVec 6) (t : Tag) : (c.setTag k t).strands = c.strands := rfl
@[simp] theorem Core.setTag_vregs (c : Core) (k : BitVec 6) (t : Tag) : (c.setTag k t).vregs = c.vregs := rfl
@[simp] theorem Core.setTag_tiles (c : Core) (k : BitVec 6) (t : Tag) : (c.setTag k t).tiles = c.tiles := rfl
@[simp] theorem Core.setTag_accs (c : Core) (k : BitVec 6) (t : Tag) : (c.setTag k t).accs = c.accs := rfl
@[simp] theorem Core.setTag_sram (c : Core) (k : BitVec 6) (t : Tag) : (c.setTag k t).sram = c.sram := rfl
@[simp] theorem Core.setTag_ue (c : Core) (k : BitVec 6) (t : Tag) : (c.setTag k t).ue = c.ue := rfl
@[simp] theorem Core.setTag_ce (c : Core) (k : BitVec 6) (t : Tag) : (c.setTag k t).ce = c.ce := rfl
@[simp] theorem Core.setTag_bobbins (c : Core) (k : BitVec 6) (t : Tag) : (c.setTag k t).bobbins = c.bobbins := rfl
@[simp] theorem Core.setTag_routes (c : Core) (k : BitVec 6) (t : Tag) : (c.setTag k t).routes = c.routes := rfl
@[simp] theorem Core.setTag_trigs (c : Core) (k : BitVec 6) (t : Tag) : (c.setTag k t).trigs = c.trigs := rfl
@[simp] theorem Core.setTag_sendCtr (c : Core) (k : BitVec 6) (t : Tag) : (c.setTag k t).sendCtr = c.sendCtr := rfl
@[simp] theorem Core.setTag_tricks (c : Core) (k : BitVec 6) (t : Tag) : (c.setTag k t).tricks = c.tricks := rfl
@[simp] theorem Core.setTag_inject (c : Core) (k : BitVec 6) (t : Tag) : (c.setTag k t).inject = c.inject := rfl
@[simp] theorem Core.setTag_inputs (c : Core) (k : BitVec 6) (t : Tag) : (c.setTag k t).inputs = c.inputs := rfl
@[simp] theorem Core.setTag_locals (c : Core) (k : BitVec 6) (t : Tag) : (c.setTag k t).locals = c.locals := rfl
@[simp] theorem Core.setTag_used (c : Core) (k : BitVec 6) (t : Tag) : (c.setTag k t).used = c.used := rfl
@[simp] theorem Core.setTag_owed (c : Core) (k : BitVec 6) (t : Tag) : (c.setTag k t).owed = c.owed := rfl
@[simp] theorem Core.setTag_lastWin (c : Core) (k : BitVec 6) (t : Tag) : (c.setTag k t).lastWin = c.lastWin := rfl
@[simp] theorem Core.setTag_freezeBuf (c : Core) (k : BitVec 6) (t : Tag) : (c.setTag k t).freezeBuf = c.freezeBuf := rfl
@[simp] theorem Core.setTag_frozen (c : Core) (k : BitVec 6) (t : Tag) : (c.setTag k t).frozen = c.frozen := rfl
@[simp] theorem Core.setTag_drained (c : Core) (k : BitVec 6) (t : Tag) : (c.setTag k t).drained = c.drained := rfl
@[simp] theorem Core.setTag_quiescent (c : Core) (k : BitVec 6) (t : Tag) : (c.setTag k t).quiescent = c.quiescent := rfl
@[simp] theorem Core.setTag_entries (c : Core) (k : BitVec 6) (t : Tag) : (c.setTag k t).entries = c.entries := rfl
@[simp] theorem Core.setTag_spawnQ (c : Core) (k : BitVec 6) (t : Tag) : (c.setTag k t).spawnQ = c.spawnQ := rfl
@[simp] theorem Core.setTag_grantHeld (c : Core) (k : BitVec 6) (t : Tag) : (c.setTag k t).grantHeld = c.grantHeld := rfl
@[simp] theorem Core.setTag_shapes (c : Core) (k : BitVec 6) (t : Tag) : (c.setTag k t).shapes = c.shapes := rfl
@[simp] theorem Core.setTag_streams (c : Core) (k : BitVec 6) (t : Tag) : (c.setTag k t).streams = c.streams := rfl
@[simp] theorem Core.setTag_copies (c : Core) (k : BitVec 6) (t : Tag) : (c.setTag k t).copies = c.copies := rfl
@[simp] theorem Core.setTag_drainM (c : Core) (k : BitVec 6) (t : Tag) : (c.setTag k t).drainM = c.drainM := rfl
@[simp] theorem Core.setTag_srDrain (c : Core) (k : BitVec 6) (t : Tag) : (c.setTag k t).srDrain = c.srDrain := rfl
@[simp] theorem Core.setTag_srVcvt (c : Core) (k : BitVec 6) (t : Tag) : (c.setTag k t).srVcvt = c.srVcvt := rfl
@[simp] theorem Core.setTag_srSeed (c : Core) (k : BitVec 6) (t : Tag) : (c.setTag k t).srSeed = c.srSeed := rfl
@[simp] theorem Core.setTag_sigSeed (c : Core) (k : BitVec 6) (t : Tag) : (c.setTag k t).sigSeed = c.sigSeed := rfl
@[simp] theorem Core.setTag_cap (c : Core) (k : BitVec 6) (t : Tag) : (c.setTag k t).cap = c.cap := rfl
@[simp] theorem Core.setTag_pol (c : Core) (k : BitVec 6) (t : Tag) : (c.setTag k t).pol = c.pol := rfl
@[simp] theorem Core.setTag_splice (c : Core) (k : BitVec 6) (t : Tag) : (c.setTag k t).splice = c.splice := rfl
@[simp] theorem Core.setTag_sramce (c : Core) (k : BitVec 6) (t : Tag) : (c.setTag k t).sramce = c.sramce := rfl
@[simp] theorem Core.setTag_plb (c : Core) (k : BitVec 6) (t : Tag) : (c.setTag k t).plb = c.plb := rfl
@[simp] theorem Core.setTag_plbLow (c : Core) (k : BitVec 6) (t : Tag) : (c.setTag k t).plbLow = c.plbLow := rfl
@[simp] theorem Core.setTag_lastIssue (c : Core) (k : BitVec 6) (t : Tag) : (c.setTag k t).lastIssue = c.lastIssue := rfl
@[simp] theorem Core.setTag_lastGone (c : Core) (k : BitVec 6) (t : Tag) : (c.setTag k t).lastGone = c.lastGone := rfl
@[simp] theorem Core.setTag_yielded (c : Core) (k : BitVec 6) (t : Tag) : (c.setTag k t).yielded = c.yielded := rfl
@[simp] theorem Core.setTag_cc (c : Core) (k : BitVec 6) (t : Tag) : (c.setTag k t).cc = c.cc := rfl
@[simp] theorem Core.setTag_stretched (c : Core) (k : BitVec 6) (t : Tag) : (c.setTag k t).stretched = c.stretched := rfl
@[simp] theorem Core.setTag_stretchLeft (c : Core) (k : BitVec 6) (t : Tag) : (c.setTag k t).stretchLeft = c.stretchLeft := rfl
@[simp] theorem Core.setTag_halfLeft (c : Core) (k : BitVec 6) (t : Tag) : (c.setTag k t).halfLeft = c.halfLeft := rfl
@[simp] theorem Core.setTag_vecOn (c : Core) (k : BitVec 6) (t : Tag) : (c.setTag k t).vecOn = c.vecOn := rfl
@[simp] theorem Core.setTag_tenOn (c : Core) (k : BitVec 6) (t : Tag) : (c.setTag k t).tenOn = c.tenOn := rfl
@[simp] theorem Core.setTag_vecUntil (c : Core) (k : BitVec 6) (t : Tag) : (c.setTag k t).vecUntil = c.vecUntil := rfl
@[simp] theorem Core.setTag_latom (c : Core) (k : BitVec 6) (t : Tag) : (c.setTag k t).latom = c.latom := rfl
@[simp] theorem Core.setTag_vecIdle (c : Core) (k : BitVec 6) (t : Tag) : (c.setTag k t).vecIdle = c.vecIdle := rfl
@[simp] theorem Core.setTag_tenIdle (c : Core) (k : BitVec 6) (t : Tag) : (c.setTag k t).tenIdle = c.tenIdle := rfl
@[simp] theorem Core.setTag_token (c : Core) (k : BitVec 6) (t : Tag) : (c.setTag k t).token = c.token := rfl
@[simp] theorem Core.setTag_units (c : Core) (k : BitVec 6) (t : Tag) : (c.setTag k t).units = c.units := rfl
@[simp] theorem Core.setTag_later (c : Core) (k : BitVec 6) (t : Tag) : (c.setTag k t).later = c.later := rfl
@[simp] theorem Core.setTag_reports (c : Core) (k : BitVec 6) (t : Tag) : (c.setTag k t).reports = c.reports := rfl
@[simp] theorem Core.setTag_offers (c : Core) (k : BitVec 6) (t : Tag) : (c.setTag k t).offers = c.offers := rfl
@[simp] theorem Core.setTag_reofferAt (c : Core) (k : BitVec 6) (t : Tag) : (c.setTag k t).reofferAt = c.reofferAt := rfl
@[simp] theorem Core.setTag_recSeq (c : Core) (k : BitVec 6) (t : Tag) : (c.setTag k t).recSeq = c.recSeq := rfl
@[simp] theorem Core.setTag_exitRep (c : Core) (k : BitVec 6) (t : Tag) : (c.setTag k t).exitRep = c.exitRep := rfl
@[simp] theorem Core.setTag_scSeq (c : Core) (k : BitVec 6) (t : Tag) : (c.setTag k t).scSeq = c.scSeq := rfl
@[simp] theorem Core.setTag_collCount (c : Core) (k : BitVec 6) (t : Tag) : (c.setTag k t).collCount = c.collCount := rfl
@[simp] theorem Core.setTag_cfg (c : Core) (k : BitVec 6) (t : Tag) : (c.setTag k t).cfg = c.cfg := rfl
@[simp] theorem Core.setTag_part (c : Core) (k : BitVec 6) (t : Tag) : (c.setTag k t).part = c.part := rfl
@[simp] theorem Core.setTag_skein (c : Core) (k : BitVec 6) (t : Tag) : (c.setTag k t).skein = c.skein := rfl
@[simp] theorem Core.setTag_priv (c : Core) (k : BitVec 6) (t : Tag) : (c.setTag k t).priv = c.priv := rfl
@[simp] theorem Core.setTag_ways (c : Core) (k : BitVec 6) (t : Tag) : (c.setTag k t).ways = c.ways := rfl
@[simp] theorem Core.setTag_emits (c : Core) (k : BitVec 6) (t : Tag) : (c.setTag k t).emits = c.emits := rfl
@[simp] theorem Core.setTag_picks (c : Core) (k : BitVec 6) (t : Tag) : (c.setTag k t).picks = c.picks := rfl
@[simp] theorem Core.setTag_half (c : Core) (k : BitVec 6) (t : Tag) : (c.setTag k t).half = c.half := rfl
@[simp] theorem Core.setTag_dataQ (c : Core) (k : BitVec 6) (t : Tag) : (c.setTag k t).dataQ = c.dataQ := rfl
@[simp] theorem Core.setTag_depQ (c : Core) (k : BitVec 6) (t : Tag) : (c.setTag k t).depQ = c.depQ := rfl
@[simp] theorem Core.setTag_banks (c : Core) (k : BitVec 6) (t : Tag) : (c.setTag k t).banks = c.banks := rfl
@[simp] theorem Core.setTag_filled (c : Core) (k : BitVec 6) (t : Tag) : (c.setTag k t).filled = c.filled := rfl
@[simp] theorem Core.setTag_cfgOuts (c : Core) (k : BitVec 6) (t : Tag) : (c.setTag k t).cfgOuts = c.cfgOuts := rfl
@[simp] theorem Core.setTag_cfgIn (c : Core) (k : BitVec 6) (t : Tag) : (c.setTag k t).cfgIn = c.cfgIn := rfl
@[simp] theorem Core.setBobbin_strands (c : Core) (n : BitVec 5) (b : Bobbin) : (c.setBobbin n b).strands = c.strands := rfl
@[simp] theorem Core.setBobbin_vregs (c : Core) (n : BitVec 5) (b : Bobbin) : (c.setBobbin n b).vregs = c.vregs := rfl
@[simp] theorem Core.setBobbin_tiles (c : Core) (n : BitVec 5) (b : Bobbin) : (c.setBobbin n b).tiles = c.tiles := rfl
@[simp] theorem Core.setBobbin_accs (c : Core) (n : BitVec 5) (b : Bobbin) : (c.setBobbin n b).accs = c.accs := rfl
@[simp] theorem Core.setBobbin_sram (c : Core) (n : BitVec 5) (b : Bobbin) : (c.setBobbin n b).sram = c.sram := rfl
@[simp] theorem Core.setBobbin_ue (c : Core) (n : BitVec 5) (b : Bobbin) : (c.setBobbin n b).ue = c.ue := rfl
@[simp] theorem Core.setBobbin_ce (c : Core) (n : BitVec 5) (b : Bobbin) : (c.setBobbin n b).ce = c.ce := rfl
@[simp] theorem Core.setBobbin_tags (c : Core) (n : BitVec 5) (b : Bobbin) : (c.setBobbin n b).tags = c.tags := rfl
@[simp] theorem Core.setBobbin_routes (c : Core) (n : BitVec 5) (b : Bobbin) : (c.setBobbin n b).routes = c.routes := rfl
@[simp] theorem Core.setBobbin_trigs (c : Core) (n : BitVec 5) (b : Bobbin) : (c.setBobbin n b).trigs = c.trigs := rfl
@[simp] theorem Core.setBobbin_sendCtr (c : Core) (n : BitVec 5) (b : Bobbin) : (c.setBobbin n b).sendCtr = c.sendCtr := rfl
@[simp] theorem Core.setBobbin_tricks (c : Core) (n : BitVec 5) (b : Bobbin) : (c.setBobbin n b).tricks = c.tricks := rfl
@[simp] theorem Core.setBobbin_inject (c : Core) (n : BitVec 5) (b : Bobbin) : (c.setBobbin n b).inject = c.inject := rfl
@[simp] theorem Core.setBobbin_inputs (c : Core) (n : BitVec 5) (b : Bobbin) : (c.setBobbin n b).inputs = c.inputs := rfl
@[simp] theorem Core.setBobbin_locals (c : Core) (n : BitVec 5) (b : Bobbin) : (c.setBobbin n b).locals = c.locals := rfl
@[simp] theorem Core.setBobbin_used (c : Core) (n : BitVec 5) (b : Bobbin) : (c.setBobbin n b).used = c.used := rfl
@[simp] theorem Core.setBobbin_owed (c : Core) (n : BitVec 5) (b : Bobbin) : (c.setBobbin n b).owed = c.owed := rfl
@[simp] theorem Core.setBobbin_lastWin (c : Core) (n : BitVec 5) (b : Bobbin) : (c.setBobbin n b).lastWin = c.lastWin := rfl
@[simp] theorem Core.setBobbin_freezeBuf (c : Core) (n : BitVec 5) (b : Bobbin) : (c.setBobbin n b).freezeBuf = c.freezeBuf := rfl
@[simp] theorem Core.setBobbin_frozen (c : Core) (n : BitVec 5) (b : Bobbin) : (c.setBobbin n b).frozen = c.frozen := rfl
@[simp] theorem Core.setBobbin_drained (c : Core) (n : BitVec 5) (b : Bobbin) : (c.setBobbin n b).drained = c.drained := rfl
@[simp] theorem Core.setBobbin_quiescent (c : Core) (n : BitVec 5) (b : Bobbin) : (c.setBobbin n b).quiescent = c.quiescent := rfl
@[simp] theorem Core.setBobbin_entries (c : Core) (n : BitVec 5) (b : Bobbin) : (c.setBobbin n b).entries = c.entries := rfl
@[simp] theorem Core.setBobbin_spawnQ (c : Core) (n : BitVec 5) (b : Bobbin) : (c.setBobbin n b).spawnQ = c.spawnQ := rfl
@[simp] theorem Core.setBobbin_grantHeld (c : Core) (n : BitVec 5) (b : Bobbin) : (c.setBobbin n b).grantHeld = c.grantHeld := rfl
@[simp] theorem Core.setBobbin_shapes (c : Core) (n : BitVec 5) (b : Bobbin) : (c.setBobbin n b).shapes = c.shapes := rfl
@[simp] theorem Core.setBobbin_streams (c : Core) (n : BitVec 5) (b : Bobbin) : (c.setBobbin n b).streams = c.streams := rfl
@[simp] theorem Core.setBobbin_copies (c : Core) (n : BitVec 5) (b : Bobbin) : (c.setBobbin n b).copies = c.copies := rfl
@[simp] theorem Core.setBobbin_drainM (c : Core) (n : BitVec 5) (b : Bobbin) : (c.setBobbin n b).drainM = c.drainM := rfl
@[simp] theorem Core.setBobbin_srDrain (c : Core) (n : BitVec 5) (b : Bobbin) : (c.setBobbin n b).srDrain = c.srDrain := rfl
@[simp] theorem Core.setBobbin_srVcvt (c : Core) (n : BitVec 5) (b : Bobbin) : (c.setBobbin n b).srVcvt = c.srVcvt := rfl
@[simp] theorem Core.setBobbin_srSeed (c : Core) (n : BitVec 5) (b : Bobbin) : (c.setBobbin n b).srSeed = c.srSeed := rfl
@[simp] theorem Core.setBobbin_sigSeed (c : Core) (n : BitVec 5) (b : Bobbin) : (c.setBobbin n b).sigSeed = c.sigSeed := rfl
@[simp] theorem Core.setBobbin_cap (c : Core) (n : BitVec 5) (b : Bobbin) : (c.setBobbin n b).cap = c.cap := rfl
@[simp] theorem Core.setBobbin_pol (c : Core) (n : BitVec 5) (b : Bobbin) : (c.setBobbin n b).pol = c.pol := rfl
@[simp] theorem Core.setBobbin_splice (c : Core) (n : BitVec 5) (b : Bobbin) : (c.setBobbin n b).splice = c.splice := rfl
@[simp] theorem Core.setBobbin_sramce (c : Core) (n : BitVec 5) (b : Bobbin) : (c.setBobbin n b).sramce = c.sramce := rfl
@[simp] theorem Core.setBobbin_plb (c : Core) (n : BitVec 5) (b : Bobbin) : (c.setBobbin n b).plb = c.plb := rfl
@[simp] theorem Core.setBobbin_plbLow (c : Core) (n : BitVec 5) (b : Bobbin) : (c.setBobbin n b).plbLow = c.plbLow := rfl
@[simp] theorem Core.setBobbin_lastIssue (c : Core) (n : BitVec 5) (b : Bobbin) : (c.setBobbin n b).lastIssue = c.lastIssue := rfl
@[simp] theorem Core.setBobbin_lastGone (c : Core) (n : BitVec 5) (b : Bobbin) : (c.setBobbin n b).lastGone = c.lastGone := rfl
@[simp] theorem Core.setBobbin_yielded (c : Core) (n : BitVec 5) (b : Bobbin) : (c.setBobbin n b).yielded = c.yielded := rfl
@[simp] theorem Core.setBobbin_cc (c : Core) (n : BitVec 5) (b : Bobbin) : (c.setBobbin n b).cc = c.cc := rfl
@[simp] theorem Core.setBobbin_stretched (c : Core) (n : BitVec 5) (b : Bobbin) : (c.setBobbin n b).stretched = c.stretched := rfl
@[simp] theorem Core.setBobbin_stretchLeft (c : Core) (n : BitVec 5) (b : Bobbin) : (c.setBobbin n b).stretchLeft = c.stretchLeft := rfl
@[simp] theorem Core.setBobbin_halfLeft (c : Core) (n : BitVec 5) (b : Bobbin) : (c.setBobbin n b).halfLeft = c.halfLeft := rfl
@[simp] theorem Core.setBobbin_vecOn (c : Core) (n : BitVec 5) (b : Bobbin) : (c.setBobbin n b).vecOn = c.vecOn := rfl
@[simp] theorem Core.setBobbin_tenOn (c : Core) (n : BitVec 5) (b : Bobbin) : (c.setBobbin n b).tenOn = c.tenOn := rfl
@[simp] theorem Core.setBobbin_vecUntil (c : Core) (n : BitVec 5) (b : Bobbin) : (c.setBobbin n b).vecUntil = c.vecUntil := rfl
@[simp] theorem Core.setBobbin_latom (c : Core) (n : BitVec 5) (b : Bobbin) : (c.setBobbin n b).latom = c.latom := rfl
@[simp] theorem Core.setBobbin_vecIdle (c : Core) (n : BitVec 5) (b : Bobbin) : (c.setBobbin n b).vecIdle = c.vecIdle := rfl
@[simp] theorem Core.setBobbin_tenIdle (c : Core) (n : BitVec 5) (b : Bobbin) : (c.setBobbin n b).tenIdle = c.tenIdle := rfl
@[simp] theorem Core.setBobbin_token (c : Core) (n : BitVec 5) (b : Bobbin) : (c.setBobbin n b).token = c.token := rfl
@[simp] theorem Core.setBobbin_units (c : Core) (n : BitVec 5) (b : Bobbin) : (c.setBobbin n b).units = c.units := rfl
@[simp] theorem Core.setBobbin_later (c : Core) (n : BitVec 5) (b : Bobbin) : (c.setBobbin n b).later = c.later := rfl
@[simp] theorem Core.setBobbin_reports (c : Core) (n : BitVec 5) (b : Bobbin) : (c.setBobbin n b).reports = c.reports := rfl
@[simp] theorem Core.setBobbin_offers (c : Core) (n : BitVec 5) (b : Bobbin) : (c.setBobbin n b).offers = c.offers := rfl
@[simp] theorem Core.setBobbin_reofferAt (c : Core) (n : BitVec 5) (b : Bobbin) : (c.setBobbin n b).reofferAt = c.reofferAt := rfl
@[simp] theorem Core.setBobbin_recSeq (c : Core) (n : BitVec 5) (b : Bobbin) : (c.setBobbin n b).recSeq = c.recSeq := rfl
@[simp] theorem Core.setBobbin_exitRep (c : Core) (n : BitVec 5) (b : Bobbin) : (c.setBobbin n b).exitRep = c.exitRep := rfl
@[simp] theorem Core.setBobbin_scSeq (c : Core) (n : BitVec 5) (b : Bobbin) : (c.setBobbin n b).scSeq = c.scSeq := rfl
@[simp] theorem Core.setBobbin_collCount (c : Core) (n : BitVec 5) (b : Bobbin) : (c.setBobbin n b).collCount = c.collCount := rfl
@[simp] theorem Core.setBobbin_cfg (c : Core) (n : BitVec 5) (b : Bobbin) : (c.setBobbin n b).cfg = c.cfg := rfl
@[simp] theorem Core.setBobbin_part (c : Core) (n : BitVec 5) (b : Bobbin) : (c.setBobbin n b).part = c.part := rfl
@[simp] theorem Core.setBobbin_skein (c : Core) (n : BitVec 5) (b : Bobbin) : (c.setBobbin n b).skein = c.skein := rfl
@[simp] theorem Core.setBobbin_priv (c : Core) (n : BitVec 5) (b : Bobbin) : (c.setBobbin n b).priv = c.priv := rfl
@[simp] theorem Core.setBobbin_ways (c : Core) (n : BitVec 5) (b : Bobbin) : (c.setBobbin n b).ways = c.ways := rfl
@[simp] theorem Core.setBobbin_emits (c : Core) (n : BitVec 5) (b : Bobbin) : (c.setBobbin n b).emits = c.emits := rfl
@[simp] theorem Core.setBobbin_picks (c : Core) (n : BitVec 5) (b : Bobbin) : (c.setBobbin n b).picks = c.picks := rfl
@[simp] theorem Core.setBobbin_half (c : Core) (n : BitVec 5) (b : Bobbin) : (c.setBobbin n b).half = c.half := rfl
@[simp] theorem Core.setBobbin_dataQ (c : Core) (n : BitVec 5) (b : Bobbin) : (c.setBobbin n b).dataQ = c.dataQ := rfl
@[simp] theorem Core.setBobbin_depQ (c : Core) (n : BitVec 5) (b : Bobbin) : (c.setBobbin n b).depQ = c.depQ := rfl
@[simp] theorem Core.setBobbin_banks (c : Core) (n : BitVec 5) (b : Bobbin) : (c.setBobbin n b).banks = c.banks := rfl
@[simp] theorem Core.setBobbin_filled (c : Core) (n : BitVec 5) (b : Bobbin) : (c.setBobbin n b).filled = c.filled := rfl
@[simp] theorem Core.setBobbin_cfgOuts (c : Core) (n : BitVec 5) (b : Bobbin) : (c.setBobbin n b).cfgOuts = c.cfgOuts := rfl
@[simp] theorem Core.setBobbin_cfgIn (c : Core) (n : BitVec 5) (b : Bobbin) : (c.setBobbin n b).cfgIn = c.cfgIn := rfl

/-! ### A strand -/

@[simp] theorem Strand.putG_run (t : Strand) (r : BitVec 4) (v : Word) : (t.putG r v).run = t.run := by unfold Strand.putG; split <;> rfl
@[simp] theorem Strand.putG_frozen (t : Strand) (r : BitVec 4) (v : Word) : (t.putG r v).frozen = t.frozen := by unfold Strand.putG; split <;> rfl
@[simp] theorem Strand.putG_wait (t : Strand) (r : BitVec 4) (v : Word) : (t.putG r v).wait = t.wait := by unfold Strand.putG; split <;> rfl
@[simp] theorem Strand.putG_waitFrom (t : Strand) (r : BitVec 4) (v : Word) : (t.putG r v).waitFrom = t.waitFrom := by unfold Strand.putG; split <;> rfl
@[simp] theorem Strand.putG_hold (t : Strand) (r : BitVec 4) (v : Word) : (t.putG r v).hold = t.hold := by unfold Strand.putG; split <;> rfl
@[simp] theorem Strand.putG_m (t : Strand) (r : BitVec 4) (v : Word) : (t.putG r v).m = t.m := by unfold Strand.putG; split <;> rfl
@[simp] theorem Strand.putG_pc (t : Strand) (r : BitVec 4) (v : Word) : (t.putG r v).pc = t.pc := by unfold Strand.putG; split <;> rfl
@[simp] theorem Strand.putG_buf (t : Strand) (r : BitVec 4) (v : Word) : (t.putG r v).buf = t.buf := by unfold Strand.putG; split <;> rfl
@[simp] theorem Strand.putG_fill (t : Strand) (r : BitVec 4) (v : Word) : (t.putG r v).fill = t.fill := by unfold Strand.putG; split <;> rfl
@[simp] theorem Strand.putG_notBefore (t : Strand) (r : BitVec 4) (v : Word) : (t.putG r v).notBefore = t.notBefore := by unfold Strand.putG; split <;> rfl
@[simp] theorem Strand.putG_status (t : Strand) (r : BitVec 4) (v : Word) : (t.putG r v).status = t.status := by unfold Strand.putG; split <;> rfl
@[simp] theorem Strand.putG_stamp (t : Strand) (r : BitVec 4) (v : Word) : (t.putG r v).stamp = t.stamp := by unfold Strand.putG; split <;> rfl
@[simp] theorem Strand.putG_trapEntry (t : Strand) (r : BitVec 4) (v : Word) : (t.putG r v).trapEntry = t.trapEntry := by unfold Strand.putG; split <;> rfl
@[simp] theorem Strand.putG_handler (t : Strand) (r : BitVec 4) (v : Word) : (t.putG r v).handler = t.handler := by unfold Strand.putG; split <;> rfl
@[simp] theorem Strand.putG_handlerDue (t : Strand) (r : BitVec 4) (v : Word) : (t.putG r v).handlerDue = t.handlerDue := by unfold Strand.putG; split <;> rfl
@[simp] theorem Strand.putG_frame (t : Strand) (r : BitVec 4) (v : Word) : (t.putG r v).frame = t.frame := by unfold Strand.putG; split <;> rfl
@[simp] theorem Strand.putG_fsel (t : Strand) (r : BitVec 4) (v : Word) : (t.putG r v).fsel = t.fsel := by unfold Strand.putG; split <;> rfl
@[simp] theorem Strand.putG_inbind (t : Strand) (r : BitVec 4) (v : Word) : (t.putG r v).inbind = t.inbind := by unfold Strand.putG; split <;> rfl
@[simp] theorem Strand.putG_astat (t : Strand) (r : BitVec 4) (v : Word) : (t.putG r v).astat = t.astat := by unfold Strand.putG; split <;> rfl
@[simp] theorem Strand.putG_undecl (t : Strand) (r : BitVec 4) (v : Word) : (t.putG r v).undecl = t.undecl := by unfold Strand.putG; split <;> rfl
@[simp] theorem Strand.putG_tpr (t : Strand) (r : BitVec 4) (v : Word) : (t.putG r v).tpr = t.tpr := by unfold Strand.putG; split <;> rfl
@[simp] theorem Strand.putG_proj (t : Strand) (r : BitVec 4) (v : Word) : (t.putG r v).proj = t.proj := by unfold Strand.putG; split <;> rfl
@[simp] theorem Strand.putG_map (t : Strand) (r : BitVec 4) (v : Word) : (t.putG r v).map = t.map := by unfold Strand.putG; split <;> rfl
@[simp] theorem Strand.putG_decl (t : Strand) (r : BitVec 4) (v : Word) : (t.putG r v).decl = t.decl := by unfold Strand.putG; split <;> rfl
@[simp] theorem Strand.putG_phases (t : Strand) (r : BitVec 4) (v : Word) : (t.putG r v).phases = t.phases := by unfold Strand.putG; split <;> rfl
@[simp] theorem Strand.putG_gmma (t : Strand) (r : BitVec 4) (v : Word) : (t.putG r v).gmma = t.gmma := by unfold Strand.putG; split <;> rfl
@[simp] theorem Strand.putG_cover (t : Strand) (r : BitVec 4) (v : Word) : (t.putG r v).cover = t.cover := by unfold Strand.putG; split <;> rfl
@[simp] theorem Strand.putG_pend (t : Strand) (r : BitVec 4) (v : Word) : (t.putG r v).pend = t.pend := by unfold Strand.putG; split <;> rfl
@[simp] theorem Strand.putG_flags (t : Strand) (r : BitVec 4) (v : Word) : (t.putG r v).flags = t.flags := by unfold Strand.putG; split <;> rfl
@[simp] theorem Strand.putG_edgeIds (t : Strand) (r : BitVec 4) (v : Word) : (t.putG r v).edgeIds = t.edgeIds := by unfold Strand.putG; split <;> rfl
@[simp] theorem Strand.putG_fences (t : Strand) (r : BitVec 4) (v : Word) : (t.putG r v).fences = t.fences := by unfold Strand.putG; split <;> rfl
@[simp] theorem Strand.putG_rel (t : Strand) (r : BitVec 4) (v : Word) : (t.putG r v).rel = t.rel := by unfold Strand.putG; split <;> rfl
@[simp] theorem Strand.putG_offer (t : Strand) (r : BitVec 4) (v : Word) : (t.putG r v).offer = t.offer := by unfold Strand.putG; split <;> rfl
@[simp] theorem Strand.putG_offered (t : Strand) (r : BitVec 4) (v : Word) : (t.putG r v).offered = t.offered := by unfold Strand.putG; split <;> rfl
@[simp] theorem Strand.putG_here (t : Strand) (r : BitVec 4) (v : Word) : (t.putG r v).here = t.here := by unfold Strand.putG; split <;> rfl
@[simp] theorem Strand.putG_fault (t : Strand) (r : BitVec 4) (v : Word) : (t.putG r v).fault = t.fault := by unfold Strand.putG; split <;> rfl
@[simp] theorem Strand.putM_run (t : Strand) (r : BitVec 2) (v : Word) : (t.putM r v).run = t.run := by unfold Strand.putM; split <;> rfl
@[simp] theorem Strand.putM_frozen (t : Strand) (r : BitVec 2) (v : Word) : (t.putM r v).frozen = t.frozen := by unfold Strand.putM; split <;> rfl
@[simp] theorem Strand.putM_wait (t : Strand) (r : BitVec 2) (v : Word) : (t.putM r v).wait = t.wait := by unfold Strand.putM; split <;> rfl
@[simp] theorem Strand.putM_waitFrom (t : Strand) (r : BitVec 2) (v : Word) : (t.putM r v).waitFrom = t.waitFrom := by unfold Strand.putM; split <;> rfl
@[simp] theorem Strand.putM_hold (t : Strand) (r : BitVec 2) (v : Word) : (t.putM r v).hold = t.hold := by unfold Strand.putM; split <;> rfl
@[simp] theorem Strand.putM_g (t : Strand) (r : BitVec 2) (v : Word) : (t.putM r v).g = t.g := by unfold Strand.putM; split <;> rfl
@[simp] theorem Strand.putM_pc (t : Strand) (r : BitVec 2) (v : Word) : (t.putM r v).pc = t.pc := by unfold Strand.putM; split <;> rfl
@[simp] theorem Strand.putM_buf (t : Strand) (r : BitVec 2) (v : Word) : (t.putM r v).buf = t.buf := by unfold Strand.putM; split <;> rfl
@[simp] theorem Strand.putM_fill (t : Strand) (r : BitVec 2) (v : Word) : (t.putM r v).fill = t.fill := by unfold Strand.putM; split <;> rfl
@[simp] theorem Strand.putM_notBefore (t : Strand) (r : BitVec 2) (v : Word) : (t.putM r v).notBefore = t.notBefore := by unfold Strand.putM; split <;> rfl
@[simp] theorem Strand.putM_status (t : Strand) (r : BitVec 2) (v : Word) : (t.putM r v).status = t.status := by unfold Strand.putM; split <;> rfl
@[simp] theorem Strand.putM_stamp (t : Strand) (r : BitVec 2) (v : Word) : (t.putM r v).stamp = t.stamp := by unfold Strand.putM; split <;> rfl
@[simp] theorem Strand.putM_trapEntry (t : Strand) (r : BitVec 2) (v : Word) : (t.putM r v).trapEntry = t.trapEntry := by unfold Strand.putM; split <;> rfl
@[simp] theorem Strand.putM_handler (t : Strand) (r : BitVec 2) (v : Word) : (t.putM r v).handler = t.handler := by unfold Strand.putM; split <;> rfl
@[simp] theorem Strand.putM_handlerDue (t : Strand) (r : BitVec 2) (v : Word) : (t.putM r v).handlerDue = t.handlerDue := by unfold Strand.putM; split <;> rfl
@[simp] theorem Strand.putM_frame (t : Strand) (r : BitVec 2) (v : Word) : (t.putM r v).frame = t.frame := by unfold Strand.putM; split <;> rfl
@[simp] theorem Strand.putM_fsel (t : Strand) (r : BitVec 2) (v : Word) : (t.putM r v).fsel = t.fsel := by unfold Strand.putM; split <;> rfl
@[simp] theorem Strand.putM_inbind (t : Strand) (r : BitVec 2) (v : Word) : (t.putM r v).inbind = t.inbind := by unfold Strand.putM; split <;> rfl
@[simp] theorem Strand.putM_astat (t : Strand) (r : BitVec 2) (v : Word) : (t.putM r v).astat = t.astat := by unfold Strand.putM; split <;> rfl
@[simp] theorem Strand.putM_undecl (t : Strand) (r : BitVec 2) (v : Word) : (t.putM r v).undecl = t.undecl := by unfold Strand.putM; split <;> rfl
@[simp] theorem Strand.putM_tpr (t : Strand) (r : BitVec 2) (v : Word) : (t.putM r v).tpr = t.tpr := by unfold Strand.putM; split <;> rfl
@[simp] theorem Strand.putM_proj (t : Strand) (r : BitVec 2) (v : Word) : (t.putM r v).proj = t.proj := by unfold Strand.putM; split <;> rfl
@[simp] theorem Strand.putM_map (t : Strand) (r : BitVec 2) (v : Word) : (t.putM r v).map = t.map := by unfold Strand.putM; split <;> rfl
@[simp] theorem Strand.putM_decl (t : Strand) (r : BitVec 2) (v : Word) : (t.putM r v).decl = t.decl := by unfold Strand.putM; split <;> rfl
@[simp] theorem Strand.putM_phases (t : Strand) (r : BitVec 2) (v : Word) : (t.putM r v).phases = t.phases := by unfold Strand.putM; split <;> rfl
@[simp] theorem Strand.putM_gmma (t : Strand) (r : BitVec 2) (v : Word) : (t.putM r v).gmma = t.gmma := by unfold Strand.putM; split <;> rfl
@[simp] theorem Strand.putM_cover (t : Strand) (r : BitVec 2) (v : Word) : (t.putM r v).cover = t.cover := by unfold Strand.putM; split <;> rfl
@[simp] theorem Strand.putM_pend (t : Strand) (r : BitVec 2) (v : Word) : (t.putM r v).pend = t.pend := by unfold Strand.putM; split <;> rfl
@[simp] theorem Strand.putM_flags (t : Strand) (r : BitVec 2) (v : Word) : (t.putM r v).flags = t.flags := by unfold Strand.putM; split <;> rfl
@[simp] theorem Strand.putM_edgeIds (t : Strand) (r : BitVec 2) (v : Word) : (t.putM r v).edgeIds = t.edgeIds := by unfold Strand.putM; split <;> rfl
@[simp] theorem Strand.putM_fences (t : Strand) (r : BitVec 2) (v : Word) : (t.putM r v).fences = t.fences := by unfold Strand.putM; split <;> rfl
@[simp] theorem Strand.putM_rel (t : Strand) (r : BitVec 2) (v : Word) : (t.putM r v).rel = t.rel := by unfold Strand.putM; split <;> rfl
@[simp] theorem Strand.putM_offer (t : Strand) (r : BitVec 2) (v : Word) : (t.putM r v).offer = t.offer := by unfold Strand.putM; split <;> rfl
@[simp] theorem Strand.putM_offered (t : Strand) (r : BitVec 2) (v : Word) : (t.putM r v).offered = t.offered := by unfold Strand.putM; split <;> rfl
@[simp] theorem Strand.putM_here (t : Strand) (r : BitVec 2) (v : Word) : (t.putM r v).here = t.here := by unfold Strand.putM; split <;> rfl
@[simp] theorem Strand.putM_fault (t : Strand) (r : BitVec 2) (v : Word) : (t.putM r v).fault = t.fault := by unfold Strand.putM; split <;> rfl
@[simp] theorem Strand.mark_run (t : Strand) (r : Reg) (n : Option Nat) : (t.mark r n).run = t.run := rfl
@[simp] theorem Strand.mark_frozen (t : Strand) (r : Reg) (n : Option Nat) : (t.mark r n).frozen = t.frozen := rfl
@[simp] theorem Strand.mark_wait (t : Strand) (r : Reg) (n : Option Nat) : (t.mark r n).wait = t.wait := rfl
@[simp] theorem Strand.mark_waitFrom (t : Strand) (r : Reg) (n : Option Nat) : (t.mark r n).waitFrom = t.waitFrom := rfl
@[simp] theorem Strand.mark_hold (t : Strand) (r : Reg) (n : Option Nat) : (t.mark r n).hold = t.hold := rfl
@[simp] theorem Strand.mark_g (t : Strand) (r : Reg) (n : Option Nat) : (t.mark r n).g = t.g := rfl
@[simp] theorem Strand.mark_m (t : Strand) (r : Reg) (n : Option Nat) : (t.mark r n).m = t.m := rfl
@[simp] theorem Strand.mark_pc (t : Strand) (r : Reg) (n : Option Nat) : (t.mark r n).pc = t.pc := rfl
@[simp] theorem Strand.mark_buf (t : Strand) (r : Reg) (n : Option Nat) : (t.mark r n).buf = t.buf := rfl
@[simp] theorem Strand.mark_fill (t : Strand) (r : Reg) (n : Option Nat) : (t.mark r n).fill = t.fill := rfl
@[simp] theorem Strand.mark_notBefore (t : Strand) (r : Reg) (n : Option Nat) : (t.mark r n).notBefore = t.notBefore := rfl
@[simp] theorem Strand.mark_status (t : Strand) (r : Reg) (n : Option Nat) : (t.mark r n).status = t.status := rfl
@[simp] theorem Strand.mark_stamp (t : Strand) (r : Reg) (n : Option Nat) : (t.mark r n).stamp = t.stamp := rfl
@[simp] theorem Strand.mark_trapEntry (t : Strand) (r : Reg) (n : Option Nat) : (t.mark r n).trapEntry = t.trapEntry := rfl
@[simp] theorem Strand.mark_handler (t : Strand) (r : Reg) (n : Option Nat) : (t.mark r n).handler = t.handler := rfl
@[simp] theorem Strand.mark_handlerDue (t : Strand) (r : Reg) (n : Option Nat) : (t.mark r n).handlerDue = t.handlerDue := rfl
@[simp] theorem Strand.mark_frame (t : Strand) (r : Reg) (n : Option Nat) : (t.mark r n).frame = t.frame := rfl
@[simp] theorem Strand.mark_fsel (t : Strand) (r : Reg) (n : Option Nat) : (t.mark r n).fsel = t.fsel := rfl
@[simp] theorem Strand.mark_inbind (t : Strand) (r : Reg) (n : Option Nat) : (t.mark r n).inbind = t.inbind := rfl
@[simp] theorem Strand.mark_astat (t : Strand) (r : Reg) (n : Option Nat) : (t.mark r n).astat = t.astat := rfl
@[simp] theorem Strand.mark_undecl (t : Strand) (r : Reg) (n : Option Nat) : (t.mark r n).undecl = t.undecl := rfl
@[simp] theorem Strand.mark_tpr (t : Strand) (r : Reg) (n : Option Nat) : (t.mark r n).tpr = t.tpr := rfl
@[simp] theorem Strand.mark_proj (t : Strand) (r : Reg) (n : Option Nat) : (t.mark r n).proj = t.proj := rfl
@[simp] theorem Strand.mark_map (t : Strand) (r : Reg) (n : Option Nat) : (t.mark r n).map = t.map := rfl
@[simp] theorem Strand.mark_decl (t : Strand) (r : Reg) (n : Option Nat) : (t.mark r n).decl = t.decl := rfl
@[simp] theorem Strand.mark_phases (t : Strand) (r : Reg) (n : Option Nat) : (t.mark r n).phases = t.phases := rfl
@[simp] theorem Strand.mark_gmma (t : Strand) (r : Reg) (n : Option Nat) : (t.mark r n).gmma = t.gmma := rfl
@[simp] theorem Strand.mark_cover (t : Strand) (r : Reg) (n : Option Nat) : (t.mark r n).cover = t.cover := rfl
@[simp] theorem Strand.mark_flags (t : Strand) (r : Reg) (n : Option Nat) : (t.mark r n).flags = t.flags := rfl
@[simp] theorem Strand.mark_edgeIds (t : Strand) (r : Reg) (n : Option Nat) : (t.mark r n).edgeIds = t.edgeIds := rfl
@[simp] theorem Strand.mark_fences (t : Strand) (r : Reg) (n : Option Nat) : (t.mark r n).fences = t.fences := rfl
@[simp] theorem Strand.mark_rel (t : Strand) (r : Reg) (n : Option Nat) : (t.mark r n).rel = t.rel := rfl
@[simp] theorem Strand.mark_offer (t : Strand) (r : Reg) (n : Option Nat) : (t.mark r n).offer = t.offer := rfl
@[simp] theorem Strand.mark_offered (t : Strand) (r : Reg) (n : Option Nat) : (t.mark r n).offered = t.offered := rfl
@[simp] theorem Strand.mark_here (t : Strand) (r : Reg) (n : Option Nat) : (t.mark r n).here = t.here := rfl
@[simp] theorem Strand.mark_fault (t : Strand) (r : Reg) (n : Option Nat) : (t.mark r n).fault = t.fault := rfl
@[simp] theorem Strand.next_run (t : Strand) : (t.next).run = t.run := by unfold Strand.next; split <;> rfl
@[simp] theorem Strand.next_frozen (t : Strand) : (t.next).frozen = t.frozen := by unfold Strand.next; split <;> rfl
@[simp] theorem Strand.next_wait (t : Strand) : (t.next).wait = t.wait := by unfold Strand.next; split <;> rfl
@[simp] theorem Strand.next_waitFrom (t : Strand) : (t.next).waitFrom = t.waitFrom := by unfold Strand.next; split <;> rfl
@[simp] theorem Strand.next_hold (t : Strand) : (t.next).hold = t.hold := by unfold Strand.next; split <;> rfl
@[simp] theorem Strand.next_g (t : Strand) : (t.next).g = t.g := by unfold Strand.next; split <;> rfl
@[simp] theorem Strand.next_m (t : Strand) : (t.next).m = t.m := by unfold Strand.next; split <;> rfl
@[simp] theorem Strand.next_buf (t : Strand) : (t.next).buf = t.buf := by unfold Strand.next; split <;> rfl
@[simp] theorem Strand.next_notBefore (t : Strand) : (t.next).notBefore = t.notBefore := by unfold Strand.next; split <;> rfl
@[simp] theorem Strand.next_status (t : Strand) : (t.next).status = t.status := by unfold Strand.next; split <;> rfl
@[simp] theorem Strand.next_stamp (t : Strand) : (t.next).stamp = t.stamp := by unfold Strand.next; split <;> rfl
@[simp] theorem Strand.next_trapEntry (t : Strand) : (t.next).trapEntry = t.trapEntry := by unfold Strand.next; split <;> rfl
@[simp] theorem Strand.next_handler (t : Strand) : (t.next).handler = t.handler := by unfold Strand.next; split <;> rfl
@[simp] theorem Strand.next_handlerDue (t : Strand) : (t.next).handlerDue = t.handlerDue := by unfold Strand.next; split <;> rfl
@[simp] theorem Strand.next_frame (t : Strand) : (t.next).frame = t.frame := by unfold Strand.next; split <;> rfl
@[simp] theorem Strand.next_fsel (t : Strand) : (t.next).fsel = t.fsel := by unfold Strand.next; split <;> rfl
@[simp] theorem Strand.next_inbind (t : Strand) : (t.next).inbind = t.inbind := by unfold Strand.next; split <;> rfl
@[simp] theorem Strand.next_astat (t : Strand) : (t.next).astat = t.astat := by unfold Strand.next; split <;> rfl
@[simp] theorem Strand.next_undecl (t : Strand) : (t.next).undecl = t.undecl := by unfold Strand.next; split <;> rfl
@[simp] theorem Strand.next_tpr (t : Strand) : (t.next).tpr = t.tpr := by unfold Strand.next; split <;> rfl
@[simp] theorem Strand.next_proj (t : Strand) : (t.next).proj = t.proj := by unfold Strand.next; split <;> rfl
@[simp] theorem Strand.next_map (t : Strand) : (t.next).map = t.map := by unfold Strand.next; split <;> rfl
@[simp] theorem Strand.next_decl (t : Strand) : (t.next).decl = t.decl := by unfold Strand.next; split <;> rfl
@[simp] theorem Strand.next_phases (t : Strand) : (t.next).phases = t.phases := by unfold Strand.next; split <;> rfl
@[simp] theorem Strand.next_gmma (t : Strand) : (t.next).gmma = t.gmma := by unfold Strand.next; split <;> rfl
@[simp] theorem Strand.next_cover (t : Strand) : (t.next).cover = t.cover := by unfold Strand.next; split <;> rfl
@[simp] theorem Strand.next_pend (t : Strand) : (t.next).pend = t.pend := by unfold Strand.next; split <;> rfl
@[simp] theorem Strand.next_flags (t : Strand) : (t.next).flags = t.flags := by unfold Strand.next; split <;> rfl
@[simp] theorem Strand.next_edgeIds (t : Strand) : (t.next).edgeIds = t.edgeIds := by unfold Strand.next; split <;> rfl
@[simp] theorem Strand.next_fences (t : Strand) : (t.next).fences = t.fences := by unfold Strand.next; split <;> rfl
@[simp] theorem Strand.next_rel (t : Strand) : (t.next).rel = t.rel := by unfold Strand.next; split <;> rfl
@[simp] theorem Strand.next_offer (t : Strand) : (t.next).offer = t.offer := by unfold Strand.next; split <;> rfl
@[simp] theorem Strand.next_offered (t : Strand) : (t.next).offered = t.offered := by unfold Strand.next; split <;> rfl
@[simp] theorem Strand.stopHere_frozen (t : Strand) (f : Trap) : (t.stopHere f).frozen = t.frozen := rfl
@[simp] theorem Strand.stopHere_waitFrom (t : Strand) (f : Trap) : (t.stopHere f).waitFrom = t.waitFrom := rfl
@[simp] theorem Strand.stopHere_g (t : Strand) (f : Trap) : (t.stopHere f).g = t.g := rfl
@[simp] theorem Strand.stopHere_m (t : Strand) (f : Trap) : (t.stopHere f).m = t.m := rfl
@[simp] theorem Strand.stopHere_pc (t : Strand) (f : Trap) : (t.stopHere f).pc = t.pc := rfl
@[simp] theorem Strand.stopHere_buf (t : Strand) (f : Trap) : (t.stopHere f).buf = t.buf := rfl
@[simp] theorem Strand.stopHere_status (t : Strand) (f : Trap) : (t.stopHere f).status = t.status := rfl
@[simp] theorem Strand.stopHere_stamp (t : Strand) (f : Trap) : (t.stopHere f).stamp = t.stamp := rfl
@[simp] theorem Strand.stopHere_trapEntry (t : Strand) (f : Trap) : (t.stopHere f).trapEntry = t.trapEntry := rfl
@[simp] theorem Strand.stopHere_handler (t : Strand) (f : Trap) : (t.stopHere f).handler = t.handler := rfl
@[simp] theorem Strand.stopHere_fsel (t : Strand) (f : Trap) : (t.stopHere f).fsel = t.fsel := rfl
@[simp] theorem Strand.stopHere_inbind (t : Strand) (f : Trap) : (t.stopHere f).inbind = t.inbind := rfl
@[simp] theorem Strand.stopHere_astat (t : Strand) (f : Trap) : (t.stopHere f).astat = t.astat := rfl
@[simp] theorem Strand.stopHere_undecl (t : Strand) (f : Trap) : (t.stopHere f).undecl = t.undecl := rfl
@[simp] theorem Strand.stopHere_tpr (t : Strand) (f : Trap) : (t.stopHere f).tpr = t.tpr := rfl
@[simp] theorem Strand.stopHere_proj (t : Strand) (f : Trap) : (t.stopHere f).proj = t.proj := rfl
@[simp] theorem Strand.stopHere_map (t : Strand) (f : Trap) : (t.stopHere f).map = t.map := rfl
@[simp] theorem Strand.stopHere_decl (t : Strand) (f : Trap) : (t.stopHere f).decl = t.decl := rfl
@[simp] theorem Strand.stopHere_phases (t : Strand) (f : Trap) : (t.stopHere f).phases = t.phases := rfl
@[simp] theorem Strand.stopHere_gmma (t : Strand) (f : Trap) : (t.stopHere f).gmma = t.gmma := rfl
@[simp] theorem Strand.stopHere_cover (t : Strand) (f : Trap) : (t.stopHere f).cover = t.cover := rfl
@[simp] theorem Strand.stopHere_pend (t : Strand) (f : Trap) : (t.stopHere f).pend = t.pend := rfl
@[simp] theorem Strand.stopHere_flags (t : Strand) (f : Trap) : (t.stopHere f).flags = t.flags := rfl
@[simp] theorem Strand.stopHere_edgeIds (t : Strand) (f : Trap) : (t.stopHere f).edgeIds = t.edgeIds := rfl
@[simp] theorem Strand.stopHere_fences (t : Strand) (f : Trap) : (t.stopHere f).fences = t.fences := rfl
@[simp] theorem Strand.stopHere_here (t : Strand) (f : Trap) : (t.stopHere f).here = t.here := rfl
@[simp] theorem Strand.goto_run (t : Strand) (a : Addr) (r : Nat) : (t.goto a r).run = t.run := by unfold Strand.goto; split <;> rfl
@[simp] theorem Strand.goto_frozen (t : Strand) (a : Addr) (r : Nat) : (t.goto a r).frozen = t.frozen := by unfold Strand.goto; split <;> rfl
@[simp] theorem Strand.goto_wait (t : Strand) (a : Addr) (r : Nat) : (t.goto a r).wait = t.wait := by unfold Strand.goto; split <;> rfl
@[simp] theorem Strand.goto_waitFrom (t : Strand) (a : Addr) (r : Nat) : (t.goto a r).waitFrom = t.waitFrom := by unfold Strand.goto; split <;> rfl
@[simp] theorem Strand.goto_hold (t : Strand) (a : Addr) (r : Nat) : (t.goto a r).hold = t.hold := by unfold Strand.goto; split <;> rfl
@[simp] theorem Strand.goto_g (t : Strand) (a : Addr) (r : Nat) : (t.goto a r).g = t.g := by unfold Strand.goto; split <;> rfl
@[simp] theorem Strand.goto_m (t : Strand) (a : Addr) (r : Nat) : (t.goto a r).m = t.m := by unfold Strand.goto; split <;> rfl
@[simp] theorem Strand.goto_buf (t : Strand) (a : Addr) (r : Nat) : (t.goto a r).buf = t.buf := by unfold Strand.goto; split <;> rfl
@[simp] theorem Strand.goto_status (t : Strand) (a : Addr) (r : Nat) : (t.goto a r).status = t.status := by unfold Strand.goto; split <;> rfl
@[simp] theorem Strand.goto_stamp (t : Strand) (a : Addr) (r : Nat) : (t.goto a r).stamp = t.stamp := by unfold Strand.goto; split <;> rfl
@[simp] theorem Strand.goto_trapEntry (t : Strand) (a : Addr) (r : Nat) : (t.goto a r).trapEntry = t.trapEntry := by unfold Strand.goto; split <;> rfl
@[simp] theorem Strand.goto_handler (t : Strand) (a : Addr) (r : Nat) : (t.goto a r).handler = t.handler := by unfold Strand.goto; split <;> rfl
@[simp] theorem Strand.goto_handlerDue (t : Strand) (a : Addr) (r : Nat) : (t.goto a r).handlerDue = t.handlerDue := by unfold Strand.goto; split <;> rfl
@[simp] theorem Strand.goto_frame (t : Strand) (a : Addr) (r : Nat) : (t.goto a r).frame = t.frame := by unfold Strand.goto; split <;> rfl
@[simp] theorem Strand.goto_fsel (t : Strand) (a : Addr) (r : Nat) : (t.goto a r).fsel = t.fsel := by unfold Strand.goto; split <;> rfl
@[simp] theorem Strand.goto_inbind (t : Strand) (a : Addr) (r : Nat) : (t.goto a r).inbind = t.inbind := by unfold Strand.goto; split <;> rfl
@[simp] theorem Strand.goto_astat (t : Strand) (a : Addr) (r : Nat) : (t.goto a r).astat = t.astat := by unfold Strand.goto; split <;> rfl
@[simp] theorem Strand.goto_undecl (t : Strand) (a : Addr) (r : Nat) : (t.goto a r).undecl = t.undecl := by unfold Strand.goto; split <;> rfl
@[simp] theorem Strand.goto_tpr (t : Strand) (a : Addr) (r : Nat) : (t.goto a r).tpr = t.tpr := by unfold Strand.goto; split <;> rfl
@[simp] theorem Strand.goto_proj (t : Strand) (a : Addr) (r : Nat) : (t.goto a r).proj = t.proj := by unfold Strand.goto; split <;> rfl
@[simp] theorem Strand.goto_map (t : Strand) (a : Addr) (r : Nat) : (t.goto a r).map = t.map := by unfold Strand.goto; split <;> rfl
@[simp] theorem Strand.goto_decl (t : Strand) (a : Addr) (r : Nat) : (t.goto a r).decl = t.decl := by unfold Strand.goto; split <;> rfl
@[simp] theorem Strand.goto_phases (t : Strand) (a : Addr) (r : Nat) : (t.goto a r).phases = t.phases := by unfold Strand.goto; split <;> rfl
@[simp] theorem Strand.goto_gmma (t : Strand) (a : Addr) (r : Nat) : (t.goto a r).gmma = t.gmma := by unfold Strand.goto; split <;> rfl
@[simp] theorem Strand.goto_pend (t : Strand) (a : Addr) (r : Nat) : (t.goto a r).pend = t.pend := by unfold Strand.goto; split <;> rfl
@[simp] theorem Strand.goto_flags (t : Strand) (a : Addr) (r : Nat) : (t.goto a r).flags = t.flags := by unfold Strand.goto; split <;> rfl
@[simp] theorem Strand.goto_edgeIds (t : Strand) (a : Addr) (r : Nat) : (t.goto a r).edgeIds = t.edgeIds := by unfold Strand.goto; split <;> rfl
@[simp] theorem Strand.goto_fences (t : Strand) (a : Addr) (r : Nat) : (t.goto a r).fences = t.fences := by unfold Strand.goto; split <;> rfl
@[simp] theorem Strand.goto_rel (t : Strand) (a : Addr) (r : Nat) : (t.goto a r).rel = t.rel := by unfold Strand.goto; split <;> rfl
@[simp] theorem Strand.goto_offer (t : Strand) (a : Addr) (r : Nat) : (t.goto a r).offer = t.offer := by unfold Strand.goto; split <;> rfl
@[simp] theorem Strand.goto_offered (t : Strand) (a : Addr) (r : Nat) : (t.goto a r).offered = t.offered := by unfold Strand.goto; split <;> rfl
@[simp] theorem Strand.goto_here (t : Strand) (a : Addr) (r : Nat) : (t.goto a r).here = t.here := by unfold Strand.goto; split <;> rfl
@[simp] theorem Strand.goto_fault (t : Strand) (a : Addr) (r : Nat) : (t.goto a r).fault = t.fault := by unfold Strand.goto; split <;> rfl

@[simp] theorem Strand.next_pc (t : Strand) : t.next.pc = t.pc + 4 := by unfold Strand.next; split <;> rfl
@[simp] theorem Strand.next_here (t : Strand) : (t.next).here = t.here := by unfold Strand.next; split <;> rfl
@[simp] theorem Strand.next_fault (t : Strand) : (t.next).fault = t.fault := by unfold Strand.next; split <;> rfl
/-- g0 reads as zero and discards writes; every other register holds what was written (02 R44, R45). -/
theorem Strand.getG_putG (t : Strand) (r d : BitVec 4) (v : Word) : (t.putG d v).getG r = if r = d ∧ r ≠ 0 then v else t.getG r := by
  unfold Strand.getG Strand.putG
  by_cases hr : r = 0
  · subst hr
    simp only [if_true, ne_eq, not_true_eq_false, and_false, if_false]
  · by_cases h : r = d
    · subst h
      simp only [ne_eq, hr, not_false_eq_true, and_self, if_true]
      exact rd_wr_self t.g r v
    · simp only [if_neg hr, h, false_and, if_false]
      split
      · rfl
      · exact rd_wr_ne t.g h v
theorem Strand.getM_putM (t : Strand) (r d : BitVec 2) (v : Word) : (t.putM d v).getM r = if r = d ∧ r ≠ 0 then v else t.getM r := by
  unfold Strand.getM Strand.putM
  by_cases hr : r = 0
  · subst hr
    simp only [if_true, ne_eq, not_true_eq_false, and_false, if_false]
  · by_cases h : r = d
    · subst h
      simp only [ne_eq, hr, not_false_eq_true, and_self, if_true]
      exact rd_wr_self t.m r v
    · simp only [if_neg hr, h, false_and, if_false]
      split
      · rfl
      · exact rd_wr_ne t.m h v
@[simp] theorem Strand.getG_mark (t : Strand) (r : Reg) (n : Option Nat) (i : BitVec 4) : (t.mark r n).getG i = t.getG i := rfl
@[simp] theorem Strand.getG_next (t : Strand) (i : BitVec 4) : t.next.getG i = t.getG i := by simp [Strand.getG]
@[simp] theorem Strand.getM_next (t : Strand) (i : BitVec 2) : t.next.getM i = t.getM i := by simp [Strand.getM]
@[simp] theorem Strand.getG_goto (t : Strand) (a : Addr) (r : Nat) (i : BitVec 4) : (t.goto a r).getG i = t.getG i := by simp [Strand.getG]

end Sys2Proof.Machine
end

