-- ==== Sys2Proof/Laws/Effects.lean ====
section
/-! SUPPORT. What each shared operation of the meanings can do, said once: writing a register, passing an instruction,
stopping on a fault, and what they leave alone. -/

namespace Sys2Proof.Machine

/-! ### The executing core and strand -/

theorem State.modSt_eq (s : State) (f : Strand → Strand) :
    s.modSt f = s.setCore s.cur (s.me.setStrand s.slot (f s.st)) := rfl
theorem State.otherCoresSame_setCore (s : State) (c : Core) : s.otherCoresSame (s.setCore s.cur c) :=
  ⟨rfl, fun _ h => State.core_setCore_ne s h c⟩
theorem State.otherCoresSame_refl (s : State) : s.otherCoresSame s := ⟨rfl, fun _ _ => rfl⟩
theorem State.otherStrandsSame_modSt (s : State) (f : Strand → Strand) : s.otherStrandsSame (s.modSt f) := by
  intro k h
  rw [State.me_modSt]
  exact Core.strand_setStrand_ne s.me h _
theorem State.ownCoreIs_modSt (s : State) (f : Strand → Strand) : s.ownCoreIs (s.modSt f) s.me :=
  ⟨s.otherCoresSame_setCore _, s.otherStrandsSame_modSt f, by rw [State.me_modSt]; rfl⟩
/-- Memory reads as before where the executing core keeps its SRAM and no other core, no hub and no edge byte changes. -/
theorem State.sameMemory_of (s t : State) (h : s.otherCoresSame t) (hm : t.me.sram = s.me.sram) : s.sameMemory t := by
  have hc : t.cur = s.cur := by rw [h.1]
  refine ⟨fun l a => ?_, fun k a => by rw [h.1]; rfl, fun a => by rw [h.1]⟩
  by_cases hl : l = s.cur
  · subst hl
    have : (t.core s.cur).sram = (s.core s.cur).sram := by simpa [State.me, hc] using hm
    rw [this]
  · rw [h.2 l hl]
theorem State.strandOnly_modSt (s : State) (f : Strand → Strand) : s.strandOnly (s.modSt f) :=
  ⟨s.ownCoreIs_modSt f, s.sameMemory_of _ (s.ownCoreIs_modSt f).1 (by rw [State.me_modSt]; rfl)⟩
theorem State.modSt_modSt (s : State) (f g : Strand → Strand) : (s.modSt f).modSt g = s.modSt fun t => g (f t) := by
  have h : ∀ (c d : Core), insert s.cur d (insert s.cur c s.cores) = insert s.cur d s.cores := fun c d => insert_insert c d s.cores
  simp only [State.modSt, State.modMe, State.modCore, State.setCore, State.core, lookup_insert_self, h, Core.modStrand,
    Core.setStrand, Core.strand, rd_wr_self, wr_wr]

/-! ### Passing an instruction -/

theorem Strand.passed_next (t : Strand) : t.passed t.next := by
  unfold Strand.passed Strand.next
  split <;> simp_all [mkFill]
theorem Strand.sameButPend_next (t : Strand) : t.sameButPend t.next := by
  unfold Strand.sameButPend Strand.next
  split <;> rfl
theorem Strand.atEnd_congr {x y : Strand} (hp : y.pc = x.pc) (hb : y.buf = x.buf) : y.atEnd = x.atEnd := by
  unfold Strand.atEnd Strand.idx
  rw [hp, hb]
theorem Strand.passed_of {x y : Strand} (hp : y.pc = x.pc) (hb : y.buf = x.buf) (hf : y.fill = x.fill)
    (hs : y.stamp = x.stamp) : x.passed y.next := by
  have h := y.passed_next
  unfold Strand.passed at h ⊢
  rw [hp, hf, hs, Strand.atEnd_congr hp hb] at h
  exact h
theorem State.passesOnly_advance (s : State) : s.passesOnly s.advance := by
  refine ⟨?_, ?_, ?_, s.strandOnly_modSt _⟩ <;> simp only [State.advance, State.st_modSt]
  · exact s.st.passed_next
  · exact Strand.next_pend _
  · exact s.st.sameButPend_next

/-! ### Writing a register -/

theorem Strand.putG_eq (t : Strand) (d : BitVec 4) (v : Word) : t.putG d v = { t with g := (t.putG d v).g } := by
  unfold Strand.putG; split <;> rfl
theorem Strand.mark_eq (t : Strand) (r : Reg) (n : Option Nat) : t.mark r n = { t with pend := t.pend ++ [⟨r, n, false⟩] } := rfl
theorem Strand.sameButG_next {x y : Strand} (h : x.sameButG y) : x.sameButG y.next := by
  unfold Strand.sameButG at h ⊢
  unfold Strand.next
  rw [h]
  split <;> rfl
/-- A write of g[d] with a latency, then past the instruction: the whole effect. -/
theorem State.writesG_setG (s : State) (d : BitVec 4) (v : Word) (lat : Nat) : s.writesG (s.setG d v lat).advance d v lat := by
  have e : (s.setG d v lat).advance = s.modSt fun t => ((t.putG d v).mark (.g d) (some (s.cc + lat))).next := by
    rw [State.advance, State.setG, State.modSt_modSt]
  rw [e]
  refine ⟨⟨?_, fun r h => ?_⟩, ?_, ?_, ?_, s.strandOnly_modSt _⟩
  · simp only [State.g, State.st_modSt, Strand.getG_next, Strand.getG_mark, Strand.getG_putG]
    by_cases h : d = 0
    · subst h
      rfl
    · rw [if_pos ⟨trivial, h⟩, if_neg h]
  · simp [State.g, Strand.getG_putG, h]
  · simp [State.pends, Strand.mark_eq]
  · rw [State.st_modSt]
    exact Strand.passed_of (by simp [Strand.mark_eq]) (by simp [Strand.mark_eq]) (by simp [Strand.mark_eq]) (by simp [Strand.mark_eq])
  · rw [State.st_modSt]
    refine Strand.sameButG_next ?_
    unfold Strand.sameButG
    rw [Strand.mark_eq, Strand.putG_eq]

/-- Two updates of the executing strand, one after the other. -/
theorem State.advance_setG (s : State) (d : BitVec 4) (v : Word) (lat : Nat) :
    (s.setG d v lat).advance = s.modSt fun t => ((t.putG d v).mark (.g d) (some (s.cc + lat))).next := by
  rw [State.advance, State.setG, State.modSt_modSt]
/-- A core-wide change after one of the executing strand. -/
theorem State.modMe_modSt (s : State) (f : Strand → Strand) (g : Core → Core) :
    (s.modSt f).modMe g = s.setCore s.cur (g (s.me.modStrand s.slot f)) := by
  simp only [State.modSt, State.modMe, State.modCore, State.setCore, State.core, lookup_insert_self, insert_insert, State.me]
/-- A change of the executing core that leaves its strands, then one of the executing strand: only those differ. -/
theorem State.core_then_strand (s : State) (g : Core → Core) (f : Strand → Strand) (h : (g s.me).strands = s.me.strands) :
    ((s.modMe g).modSt f).st = f s.st ∧ s.ownCoreIs ((s.modMe g).modSt f) (g s.me) ∧
      ((g s.me).sram = s.me.sram → s.sameMemory ((s.modMe g).modSt f)) := by
  have e : (s.modMe g).modSt f = s.setCore s.cur ((g s.me).modStrand s.slot f) := by
    simp only [State.modSt, State.modMe, State.modCore, State.setCore, State.core, lookup_insert_self, insert_insert, State.me]
  have m : ((s.modMe g).modSt f).me = (g s.me).modStrand s.slot f := by
    rw [e]
    exact State.core_setCore s s.cur _
  have hs : ∀ k, (g s.me).strand k = s.me.strand k := fun k => by
    unfold Core.strand
    rw [h]
  have ho : s.otherCoresSame ((s.modMe g).modSt f) := by
    rw [e]
    exact s.otherCoresSame_setCore _
  refine ⟨?_, ⟨ho, fun k hk => ?_, by rw [m]; rfl⟩, fun hm => s.sameMemory_of _ ho (by rw [m]; exact hm)⟩
  · rw [State.st_modSt, State.st, State.me_modMe]
    exact congrArg f (hs s.slot)
  · rw [m, Core.modStrand, Core.strand_setStrand_ne _ hk, hs]
theorem Strand.next_eq (t : Strand) : t.next = { t with pc := t.next.pc, fill := t.next.fill } := by
  unfold Strand.next
  split <;> rfl
theorem Strand.getG_congr {x y : Strand} (h : x.g = y.g) (r : BitVec 4) : x.getG r = y.getG r := by
  unfold Strand.getG
  rw [h]
/-- The executing strand after a write of g[d] that raises ASTAT bits. -/
def Strand.flagWrite (d : BitVec 4) (v : Word) (due : Nat) (bits : BitVec 7) (fp : Bool) (t : Strand) : Strand :=
  ({ ((t.putG d v).mark (.g d) (some due)).mark .astat (some due) with
      flags := t.flags ++ [⟨due, bits, fp, t.pc⟩] } : Strand).next
theorem Strand.getG_flagWrite (d r : BitVec 4) (v : Word) (due : Nat) (bits : BitVec 7) (fp : Bool) (t : Strand) :
    (t.flagWrite d v due bits fp).getG r = if r = d ∧ r ≠ 0 then v else t.getG r := by
  rw [← Strand.getG_putG]
  refine Strand.getG_congr ?_ r
  simp only [Strand.flagWrite, Strand.next_g, Strand.mark_eq]
/-- A write of g[d] that raises ASTAT bits, with a unit of the core taken, then past the instruction: the whole effect. -/
theorem State.writesGFlags_of (s t : State) (d : BitVec 4) (v : Word) (lat : Nat) (bits : BitVec 7) (fp : Bool)
    (g : Core → Core) (hg : (g s.me).strands = s.me.strands) (hm : (g s.me).sram = s.me.sram)
    (e : t = (s.modMe g).modSt (Strand.flagWrite d v (s.cc + lat) bits fp)) :
    s.writesGFlags t d v lat bits fp (g s.me) := by
  obtain ⟨hst, ho, hmem⟩ := s.core_then_strand g (Strand.flagWrite d v (s.cc + lat) bits fp) hg
  rw [← e] at hst ho hmem
  refine ⟨⟨?_, fun q hq => ?_⟩, ?_, ?_, ?_, ?_, ho, hmem hm⟩
  · simp only [State.g, hst, Strand.getG_flagWrite]
    by_cases h : d = 0
    · subst h
      rfl
    · rw [if_pos ⟨trivial, h⟩, if_neg h]
  · simp only [State.g, hst, Strand.getG_flagWrite, hq, false_and, if_false]
  · rw [hst]
    simp [Strand.flagWrite, Strand.mark_eq]
  · rw [hst]
    simp [Strand.flagWrite]
  · rw [hst]
    exact Strand.passed_of (by simp [Strand.mark_eq]) (by simp [Strand.mark_eq]) (by simp [Strand.mark_eq]) (by simp [Strand.mark_eq])
  · rw [hst, Strand.flagWrite, Strand.next_eq]
    simp only [Strand.mark_eq]
    rw [Strand.putG_eq]

theorem State.modMe_modSt_comm (s : State) (g : Core → Core) (f : Strand → Strand)
    (h : ∀ c k t, g (c.setStrand k t) = (g c).setStrand k t) (hs : ∀ c, (g c).strands = c.strands) :
    (s.modSt f).modMe g = (s.modMe g).modSt f := by
  have h2 : ∀ c k, (g c).strand k = c.strand k := fun c k => by
    unfold Core.strand
    rw [hs]
  simp only [State.modSt, State.modMe, State.modCore, State.setCore, State.core, lookup_insert_self, insert_insert, Core.modStrand, h, h2]
theorem State.flagged_advance (s : State) (d : BitVec 4) (v : Word) (lat : Nat) (bits : BitVec 7) (fp : Bool) :
    ((s.setG d v lat).flagged lat bits fp).advance = s.modSt (Strand.flagWrite d v (s.cc + lat) bits fp) := by
  simp only [State.advance, State.setG, State.flagged, State.modSt_modSt, State.cc_modSt]
  congr 1
  funext t
  simp [Strand.flagWrite, Strand.mark_eq, Strand.putG]
  split <;> rfl
/-- An arithmetic result with ASTAT bits (the scalar FP unit). -/
theorem State.writesGFlags_flagged (s : State) (d : BitVec 4) (v : Word) (lat : Nat) (bits : BitVec 7) (fp : Bool) :
    s.writesGFlags ((s.setG d v lat).flagged lat bits fp).advance d v lat bits fp s.me := by
  refine s.writesGFlags_of _ d v lat bits fp id rfl rfl ?_
  rw [State.flagged_advance]
  simp only [State.modSt, State.modMe, State.modCore, State.setCore, State.core, lookup_insert_self, insert_insert, id]
/-- The same after a unit of the core was taken (FDIV, FSQRT). -/
theorem State.writesGFlags_unitBefore (s : State) (d : BitVec 4) (v : Word) (lat : Nat) (bits : BitVec 7) (fp : Bool)
    (u : Core → Units) :
    s.writesGFlags (((s.modMe fun c => { c with units := u c }).setG d v lat).flagged lat bits fp).advance d v lat bits fp
      { s.me with units := u s.me } := by
  refine s.writesGFlags_of _ d v lat bits fp (fun c => { c with units := u c }) rfl rfl ?_
  rw [State.flagged_advance, State.cc, State.me_modMe]
  rfl
/-- The same before a unit of the core is taken (DIV to REMU). -/
theorem State.writesGFlags_unitAfter (s : State) (d : BitVec 4) (v : Word) (lat : Nat) (bits : BitVec 7) (fp : Bool)
    (u : Units → Nat → Units) :
    s.writesGFlags ((((s.setG d v lat).flagged lat bits fp).modMe fun c => { c with units := u c.units c.cc }).advance) d v lat
      bits fp { s.me with units := u s.me.units s.cc } := by
  refine s.writesGFlags_of _ d v lat bits fp (fun c => { c with units := u c.units c.cc }) rfl rfl ?_
  generalize hg : (fun c : Core => { c with units := u c.units c.cc }) = g
  have h1 : ∀ c k t, g (c.setStrand k t) = (g c).setStrand k t := by
    subst hg
    exact fun _ _ _ => rfl
  have h2 : ∀ c, (g c).strands = c.strands := by
    subst hg
    exact fun _ => rfl
  rw [State.advance, ← State.modMe_modSt_comm _ g _ h1 h2, ← State.modMe_modSt_comm _ g _ h1 h2, ← State.flagged_advance, State.advance]

/-- A write of v[d] after a change of the core's units (the vector unit or the data port), then past the instruction. -/
theorem State.writesV_setV (s : State) (g : Core → Core) (d : BitVec 4) (x : VReg) (lat : Nat)
    (hs : (g s.me).strands = s.me.strands) (hv : (g s.me).vregs = s.me.vregs) (hm : (g s.me).sram = s.me.sram)
    (hc : (g s.me).cc = s.me.cc) : s.writesV (((s.modMe g).setV d x lat).advance) d x lat (g s.me) := by
  have hst : (s.modMe g).st = s.st := by
    rw [State.st, State.me_modMe]
    exact congrArg (fun v => rd v s.slot) hs
  have e : ((s.modMe g).setV d x lat).advance =
      (s.modMe fun c => { g c with vregs := wr (g c).vregs (s.st.vIx d) x }).modSt fun t => (t.mark (.v d) (some (s.cc + lat))).next := by
    have hcc : (s.modMe g).cc = s.cc := by
      rw [State.cc, State.me_modMe]
      exact hc
    rw [State.advance, State.setV, State.modSt_modSt, hcc, hst]
    simp only [State.modSt, State.modMe, State.modCore, State.setCore, State.core, lookup_insert_self, insert_insert]
  obtain ⟨h1, h2, h3⟩ := s.core_then_strand (fun c => { g c with vregs := wr (g c).vregs (s.st.vIx d) x })
    (fun t => (t.mark (.v d) (some (s.cc + lat))).next) hs
  rw [← e] at h1 h2 h3
  have hmem := h3 hm
  clear h3
  generalize ((s.modMe g).setV d x lat).advance = t at h1 h2 hmem
  have hvr : t.me.vregs = wr (g s.me).vregs (s.st.vIx d) x := by rw [h2.2.2]
  have hix : t.st.vIx d = s.st.vIx d := by rw [h1]; simp [Strand.vIx, Strand.vbase, Strand.mark_eq]
  refine ⟨?_, ?_, ?_, ?_, ?_, ⟨h2.1, h2.2.1, ?_⟩, hmem⟩
  · rw [State.v, hix, hvr]
    exact rd_wr_self _ _ _
  · intro j hj
    rw [hvr, hv]
    exact rd_wr_ne _ hj _
  · simp [State.pends, h1, Strand.mark_eq]
  · rw [h1]
    exact Strand.passed_of rfl rfl rfl rfl
  · rw [h1, Strand.next_eq]
    rfl
  · rw [hvr]
    exact h2.2.2

/-! ### Stopping on a fault -/

/-- The whole effect of a fault at the executing instruction. -/
theorem State.stopsOn_trap (s : State) (f : Trap) : s.stopsOn (s.trap f) f :=
  ⟨by simp [State.trap, Strand.stoppedOn, Strand.stoppedAt, Strand.stopHere, Strand.stop, Strand.place], s.strandOnly_modSt _⟩

end Sys2Proof.Machine
end

