-- ==== Sys2Proof/WellFormed.lean ====
section
/-! DEFINITION. Well-formed instructions: those that have a word and whose operands the spec admits (02 R32). -/

namespace Sys2Proof

/-- The instruction is one of the 204 that have a word, and its operands are legal (R32): pairs and quads even or divisible by
4, format tags and rounding modes of the instruction's table, bit fields within 32 bits. -/
def Instr.wf (i : Instr) : Bool := (encode i).isSome && operandsLegal i

end Sys2Proof
end

