-- ==== Sys2Proof/Tests/Slice0.lean ====
section
/-! SUPPORT. Tests: ill-formed terms, words of the encodings, single steps against the manual's rules and worked examples, and
a witness for the hypotheses of every statement. -/

namespace Sys2Proof.Tests

set_option Elab.async false

open Sys2Proof.Machine

/-! ### Helpers -/

/-- The state after an instruction that answers one. -/
def run (i : Instr) (s : State) : State := match exec i s with | .next t => t | _ => s
/-- Core 0 with a ready strand in slot 0 at 0x0404, all grants, and power. -/
def start : State := { State.reset.place 0x10000000 with cur := 0, slot := 0 }
/-- Its general registers set. -/
def withG (l : List (BitVec 4 × Word)) : State := l.foldl (fun s e => s.modSt fun t => t.putG e.1 e.2) start
/-- Its core changed. -/
def withCore (f : Core → Core) : State := start.modMe f
/-- Its strand changed. -/
def withSt (f : Strand → Strand) : State := start.modSt f
/-- A vector register of 16-bit lanes, zero behind them. -/
def vreg (side : Word) (l : List (BitVec 16)) : VReg := ⟨Vector.ofFn fun i : Fin 32 => l.getD i.val 0, side⟩
/-- Vector register n holds x. -/
def putV (s : State) (n : BitVec 5) (x : VReg) : State := s.modMe fun c => { c with vregs := wr c.vregs n x }
/-- A tile of a format with rows and columns, its first rows' side pairs and fields. -/
def tile (f : BitVec 3) (rows cols : BitVec 4) (side : List (BitVec 16)) (el : List (List (BitVec 16))) : Tile :=
  ⟨f, rows, cols, Vector.ofFn fun i : Fin 16 => side.getD i.val 0xFF00,
    Vector.ofFn fun i : Fin 16 => Vector.ofFn fun j : Fin 16 => (el.getD i.val []).getD j.val 0⟩
/-- Tile register n holds x. -/
def putT (s : State) (n : BitVec 3) (x : Tile) : State := s.modMe fun c => { c with tiles := wr c.tiles n x }
/-- The cause, EINFO and EADDR the strand is stopped with. -/
def stopOf (s : State) : Option (BitVec 8 × Word × Dword) :=
  if s.st.run = .stopped then some (s.st.frame.cause, s.st.frame.einfo, s.st.frame.eaddr) else none
/-- Every word of a list decodes to the instruction beside it. -/
def decodeAll (l : List (Word × Instr)) : Bool := l.all fun e => match decode e.1 with | .ok i => i == e.2 | .error _ => false

/-! ### Ill-formed terms are refused, one for each check of WellFormed -/

theorem test_wf_loop_g0 : (Instr.loop 0 2).wf = false := by decide
theorem test_wf_odd_pair : (Instr.add64 3 2 4).wf = false ∧ (Instr.tclr 5).wf = false ∧ (Instr.recv 0 7).wf = false := by decide
theorem test_wf_quad : (Instr.eldB 6 0 1 2).wf = false ∧ (Instr.estB 1 2 0 1 0).wf = false := by decide
theorem test_wf_bit_field : (Instr.bfx 1 2 0 31 1).wf = false ∧ (Instr.bfi 1 2 1 31).wf = false ∧ (Instr.bfx 1 2 0 0 31).wf = true := by
  decide
theorem test_wf_rounding_mode : (Instr.fadd 1 2 3 4).wf = false ∧ (Instr.vcvt 1 2 0 5 0 1 4).wf = false ∧ (Instr.fcmp 1 2 3 5).wf = false := by
  decide
theorem test_wf_conversion_tags : (Instr.fcvt 1 2 2 4 0).wf = false ∧ (Instr.fcvt 1 2 4 7 0).wf = false := by decide
theorem test_wf_vector_tag : (Instr.vadd 1 2 3 0 0 7).wf = false ∧ (Instr.vscl 1 2 0 0 5).wf = false ∧ (Instr.vrcp 1 2 0 5).wf = false := by
  decide
theorem test_wf_saturate : (Instr.vadd 1 2 3 1 0 4).wf = false ∧ (Instr.vadd 1 2 3 1 0 5).wf = true := by decide
theorem test_wf_lane : (Instr.vext 1 2 16 4).wf = false ∧ (Instr.vext 1 2 32 5).wf = false ∧ (Instr.vext 1 2 32 1).wf = true := by decide
theorem test_wf_half : (Instr.vcvt 1 2 1 0 0 4 6).wf = false ∧ (Instr.vcmp 1 2 3 7 0 4).wf = false ∧ (Instr.vred 1 2 0 3 0 4).wf = false := by
  decide
theorem test_wf_atomic : (Instr.latom 1 2 3 10 2).wf = false ∧ (Instr.latom 1 2 4 0 3).wf = false ∧ (Instr.latom 1 2 4 0 1).wf = false ∧
    (Instr.catom 2 4 7 1).wf = false := by decide
theorem test_wf_send : (Instr.send 1 13 4 0).wf = false ∧ (Instr.send 1 4 5 0).wf = false ∧ (Instr.sendb 1 3 1 0).wf = false := by decide
theorem test_wf_tile : (Instr.tzero 1 4).wf = false ∧ (Instr.tblk 1 2 3 0).wf = false ∧ (Instr.tstat 1 3 0).wf = false ∧
    (Instr.tstat 1 2 1).wf = false ∧ (Instr.drainV 1 1 0 0 1 0).wf = false ∧ (Instr.drainM 1 0 5 0).wf = false := by decide
theorem test_wf_signature : (Instr.sigh 0 1 12 0).wf = false ∧ (Instr.sigb 0 0 0 1 3).wf = false ∧ (Instr.sigq 1 3).wf = false := by decide
theorem test_wf_spset : (Instr.spset 2 1 10).wf = false ∧ (Instr.ld 3 1 3 0).wf = false ∧ (Instr.est 3 2 1 0).wf = false := by decide
theorem test_wf_event_has_no_word : Instr.heartbeat.wf = false ∧ (Instr.clauseFill 0 0).wf = false := by decide

/-! ### Words written out from the encodings, family by family -/

theorem test_decode_printed_words :
  decodeAll [
    (0x21104000, .add 4 4 1), (0x20C40300, .or 3 1 0), (0x24CCFFFF, .addi 3 3 0xFFFF), (0x09CC3FFE, .bnz 3 0x3FFE),
    (0x043FFFFD, .bra 0x3FFFFD), (0x0C230002, .loop 3 2), (0x7C940000, .ldt 2 5 0), (0x5D904024, .vcvt 6 4 1 0 0 1 4),
    (0xA8141201, .mmaZ 1 2 0 1 1 0 0), (0xB1801000, .drainT 3 0 1 0), (0xD9194000, .eatom 4 6 5 0 0 0), (0xDA0A9701, .eatomsc 8 2 10 7 1),
    (0xDC170063, .cjoin 7 1 1 3), (0xDC045000, .catom 4 5 0 0), (0xE0004000, .coll 4), (0xE0350007, .collw 5 7), (0xE0460047, .collq 6 1 7)
    ] = true := by decide +kernel
theorem test_decode_rejects : (match decode 0x0C230002 with | .ok i => i == .loop 3 2 | _ => false) = true ∧
    (match decode 0x10000001 with | .ok _ => false | _ => true) = true ∧ (match decode 0xFC000000 with | .ok _ => false | _ => true) = true := by
  decide +kernel
theorem test_decode_majors_01_to_03 :
  decodeAll [
    (0x04354CDA, .bra 3493082), (0x063C5581, .bal 3954049), (0x0826B3AB, .beq 9 10 13227), (0x0844BC53, .bne 1 2 15443),
    (0x08A264FA, .blt 8 9 9466), (0x08C06DA2, .bge 0 1 11682), (0x0922764A, .blo 8 9 13898), (0x097C3EF1, .bhs 15 0 16113),
    (0x099C3CD8, .bz 7 15576), (0x09FC2580, .bnz 15 9600), (0x0C006E27, .jmp 6 3623), (0x0C1EF990, .jal 14 15 2448),
    (0x0C260F77, .loop 6 3959)] = true := by decide +kernel
theorem test_decode_major_04 :
  decodeAll [
    (0x10000000, .nop), (0x10100000, .yield), (0x1020D96E, .sleep 13 2414), (0x10355000, .waitm 5 5),
    (0x104CD00F, .spawn 12 13 0 15), (0x10500000, .exit), (0x10600000, .exitSplice), (0x10734560, .sel 3 4 5 6)] = true := by decide +kernel
theorem test_decode_major_08 :
  decodeAll [
    (0x22F34000, .add 11 12 13), (0x20D10100, .sub 3 4 4), (0x22AF0200, .and 10 11 12), (0x208D0300, .or 2 3 4),
    (0x22AEC400, .xor 10 11 11), (0x2048C500, .andn 1 2 3), (0x226AC600, .shl 9 10 11), (0x2048C700, .shr 1 2 3),
    (0x22268800, .sar 8 9 10), (0x20048900, .rol 0 1 2), (0x22268A00, .slt 8 9 10), (0x23C04B00, .sltu 15 0 1),
    (0x21E24C00, .min 7 8 9), (0x23C04D00, .max 15 0 1), (0x219E0E00, .minu 6 7 8), (0x23BC0F00, .maxu 14 15 0),
    (0x219C1000, .clz 6 7), (0x23781100, .ctz 13 14), (0x21581200, .popc 5 6)] = true := by decide +kernel
theorem test_decode_majors_09_to_0D :
  decodeAll [
    (0x2778FC8F, .addi 13 14 64655), (0x25558536, .slti 5 5 34102), (0x2B348DDE, .andi 12 13 36318),
    (0x29159686, .ori 4 5 38534), (0x2B329F2D, .xori 12 12 40749), (0x2CD00015, .shli 3 4 21), (0x2EF1001D, .shri 11 12 29),
    (0x2CD20004, .sari 3 4 4), (0x3280970B, .lui 10 38667), (0x348D0000, .add64 2 3 4), (0x36AEC1DC, .addi64 10 11 11 220),
    (0x3448C205, .lea 1 2 3 0 5)] = true := by decide +kernel
theorem test_decode_majors_0E_to_0F :
  decodeAll [
    (0x3A6AC000, .mul 9 10 11), (0x3848C100, .mulh 1 2 3), (0x3A268200, .mulhu 8 9 10), (0x38048300, .div 0 1 2),
    (0x3A268400, .divu 8 9 10), (0x3BC04500, .rem 15 0 1), (0x39E24600, .remu 7 8 9), (0x3C0F0422, .bfx 15 0 1 1 2),
    (0x3C167109, .bfi 6 7 8 9)] = true := by decide +kernel
theorem test_decode_majors_10_to_11 :
  decodeAll [
    (0x43BC0001, .fadd 14 15 0 1), (0x419E0101, .fsub 6 7 8 1), (0x437BC200, .fmul 13 14 15 0), (0x4159C300, .fma 5 6 7 0),
    (0x437BC400, .fmin 13 14 15), (0x41558500, .fmax 5 5 6), (0x43340600, .fabs 12 13), (0x41140700, .fneg 4 5),
    (0x43334806, .fcmp 12 12 13 6), (0x40D14906, .fdiv 3 4 5 6), (0x42F00A05, .fsqrt 11 12 5), (0x44D02506, .fcvt 3 4 4 5 6)] = true := by decide +kernel
theorem test_decode_majors_14_to_16 :
  decodeAll [
    (0x52AF06E0, .vadd 10 11 12 1 2 7), (0x508D06E1, .vsub 2 3 4 1 2 7), (0x52AEC1C2, .vmul 10 11 11 0 1 6),
    (0x5048D1C3, .vfma 1 2 3 4 1 6), (0x526AC0A4, .vmin 9 10 11 0 5), (0x50488385, .vmax 1 2 2 3 4),
    (0x52240386, .vabs 8 9 0 3 4), (0x50040387, .vneg 0 1 0 3 4), (0x56268260, .vand 8 9 10 2 3),
    (0x57C04261, .vor 15 0 1 2 3), (0x55E24262, .vxor 7 8 9 2 3), (0x57C04143, .vshl 15 0 1 1 2),
    (0x559E0664, .vshr 6 7 8 1 2 3), (0x58BC0660, .vcmp 2 15 0 1 2 3), (0x599E0121, .vsel 6 7 8 1 1),
    (0x5B7BC022, .vshuf 13 14 15 0 1)] = true := by decide +kernel
theorem test_decode_majors_17_to_1E :
  decodeAll [
    (0x5D584143, .vcvt 5 6 1 0 1 2 3), (0x5F783808, .vblk 13 14 7 0 0), (0x5D57DB09, .vscl 5 5 246 3 0),
    (0x633402E0, .vmov 12 13 2 7), (0x611402E1, .vbcast 4 5 2 7), (0x6333B4C2, .vins 12 12 237 6),
    (0x60D254C3, .vext 3 4 149 6), (0x60F00004, .vmovMg 3 12), (0x60CC0005, .vmovGm 3 3), (0x66AC00A0, .vrcp 10 11 0 5),
    (0x648C00A1, .vrsq 2 3 0 5), (0x66AC11C2, .vred 10 11 1 0 1 6), (0x704BB744, .ld 1 2 3 46916),
    (0x766BBFEC, .st 9 10 3 49132), (0x7848EE93, .ldv 1 2 7634 3), (0x7A26B3D3, .stv 8 9 5754 3)] = true := by decide +kernel
theorem test_decode_majors_1F_to_21 :
  decodeAll [
    (0x7C04AF22, .ldt 0 1 44834), (0x7C26B7CA, .stt 0 9 47050), (0x83C04032, .copy 15 0 1 50), (0x81E2411A, .copyB 7 8 9 26),
    (0x83C05102, .latom 15 0 1 1 2), (0x84006007, .bdecl 6 7), (0x8410E00F, .bsetEmpty 14 15), (0x84106037, .bsetFull 6 23),
    (0x8410D05E, .bsetDrain 13 30), (0x84105066, .bsetRel 5 6), (0x8410D08E, .bsetUndecl 13 14), (0x84240036, .bqry 4 1 22),
    (0x843CD000, .twany 12 13 0), (0x84404001, .twall 4 1), (0x845CC000, .tff 12 12), (0x84603000, .tclr 3)] = true := by decide +kernel
theorem test_decode_majors_22_to_23 :
  decodeAll [
    (0x89BC000A, .send 27 12 5 0), (0x88301034, .sendv 3 3 4), (0x8AA02003, .sendt 42 3), (0x89233115, .sendb 18 3 4 21),
    (0x8BAB4000, .trig 58 11), (0x8E120000, .recv 33 2), (0x8C90100A, .recvV 9 10), (0x8F122000, .waitch 49 2),
    (0x8C083000, .join 8)] = true := by decide +kernel
theorem test_decode_majors_24_to_28 :
  decodeAll [
    (0x90010000, .rcfgR 0 1), (0x92891000, .rcfgT 40 9), (0x90F02000, .rcfgQr 15 0), (0x93783000, .rcfgQt 55 8),
    (0x91F04000, .rred 31 0), (0x90675008, .rnq 6 7 8), (0x900E6003, .nbrq 14 3), (0x91677000, .chflush 22 7),
    (0xA2F78000, .tshape 5 14 15 0), (0xA1400001, .tparm 5), (0xA2806002, .tzero 5 6), (0xA0000003, .accz 0),
    (0xA31C0004, .tstat 12 1 6)] = true := by decide +kernel
theorem test_decode_majors_29_to_30 :
  decodeAll [
    (0xA62E8000, .tmovv 4 5 6 1 0), (0xA6405001, .tmovt 4 4 5), (0xA5C05002, .txp 3 4 5), (0xA5C05063, .tblk 3 4 5 6),
    (0xA5B04A64, .tcvt 3 3 4 5 6), (0xA8265C20, .mma 2 3 0 5 6 1 0), (0xA8265C11, .mmaZ 2 3 0 5 6 0 1),
    (0xAE81B850, .gmma 10 3 3 4 1 0 1), (0xB0813000, .drainT 1 2 3 0), (0xB2465001, .drainV 9 0 3 0 5 0),
    (0xB0412102, .drainM 1 2 2 1), (0xC0001150, .sigh 0 1 10 1), (0xC0123001, .sigb 0 1 2 3 0), (0xC010A001, .sigbC 0 1 2)] = true := by decide +kernel
theorem test_decode_majors_31_to_34 :
  decodeAll [
    (0xC4060010, .sigx 3 0 1), (0xC4060011, .sigxScale 3 0 1), (0xC7801002, .sigg 7 0 1), (0xC9800000, .sigms 6),
    (0xCB800001, .sigml 14), (0xC9B70002, .sigq 6 55), (0xD00DE7C1, .spbind 13 14 31 0 1), (0xD0105000, .spfree 5),
    (0xD02DEF30, .sprun 13 14 15 48), (0xD0345617, .sprunW 4 5 6 23), (0xD040CD0E, .spset 12 13 14),
    (0xD0540025, .ecancel 4 37), (0xD060000C, .sprunR 12)] = true := by decide +kernel
theorem test_decode_majors_35_to_37 :
  decodeAll [
    (0xD4034DB7, .eld 3 4 1 22 55), (0xD410B75E, .eldB 11 0 29 30), (0xD4233005, .est 3 3 0 5),
    (0xD43AB52E, .estB 10 11 0 5 46), (0xD4423014, .ewatch 2 3 20), (0xDAAECC02, .eatom 10 11 11 12 1 0),
    (0xD848D401, .eatomsc 1 2 3 4 1), (0xD8002000, .efence), (0xDC012280, .catom 1 2 2 1), (0xDC18005B, .cjoin 8 1 0 27),
    (0xDC200001, .cjoinCfg 0 1), (0xDC380009, .cjq 8 9)] = true := by decide +kernel
theorem test_decode_majors_38_to_39 :
  decodeAll [
    (0xE000F000, .coll 15), (0xE0100037, .collR 55), (0xE020001F, .collX 31), (0xE0360007, .collw 6 7),
    (0xE04E00F0, .collq 14 3 48), (0xE4067000, .phase 6 7), (0xE41D0002, .phaseq 13 2), (0xE4250000, .time 5),
    (0xE430D000, .timew 13), (0xE4404001, .monset 4 1), (0xE45C01D2, .monrd 12 29 2)] = true := by decide +kernel
theorem test_decode_majors_3C_to_3D :
  decodeAll [
    (0xF0000B44, .trap 2884), (0xF0100BEC, .brk 3052), (0xF0200C93, .halt 3219), (0xF030B000, .eret 11 0),
    (0xF0403000, .eretRel 3), (0xF05AB000, .freeze 10 11), (0xF0623000, .launch 2 3), (0xF40A0A9B, .csrr 10 2715),
    (0xF4112E03, .csrw 1 2 3587), (0xF429AEAB, .csrs 9 10 3755), (0xF4312F52, .csrc 1 2 3922)] = true := by decide +kernel

/-! ### Single steps -/

-- Control (04 R96–R105).
theorem test_bra_to_header : ((run (.bra 0x3FFFFF) start).st.fill.map (·.addr)) = some 0x400 := by decide +kernel
theorem test_bra_to_no_header : stopOf (run (.bra 0x3FFFFD) start) = some (0x02, 0x03F80003, 0) := by decide +kernel
theorem test_bal_link : (run (.bal 0x3FFFFF) start).g 15 = 0x408 := by decide +kernel
theorem test_blt_signed : (run (.blt 1 2 0x3FFF) (withG [(1, 0xFFFFFFFF), (2, 0)])).st.pc = 0x400 := by decide +kernel
theorem test_blo_unsigned : (run (.blo 1 2 0x3FFF) (withG [(1, 0xFFFFFFFF), (2, 0)])).st.pc = 0x408 := by decide +kernel
theorem test_loop_falls_through : (run (.loop 3 1) (withG [(3, 1)])).g 3 = 0 ∧ (run (.loop 3 1) (withG [(3, 1)])).st.pc = 0x408 := by
  decide +kernel
theorem test_loop_of_zero_goes_on : (run (.loop 3 1) (withG [])).g 3 = 0xFFFFFFFF := by decide +kernel
theorem test_sleep : (run (.sleep 1 1000) start).st.wait = .sleep 1000 := by decide +kernel
theorem test_waitm_empty_mask : (run (.waitm 4 2) start).g 4 = 64 := by decide +kernel
theorem test_spawn_undeclared : stopOf (run (.spawn 4 1 0 9) start) = some (0x05, 9, 0) := by decide +kernel
theorem test_exit_frees : (run .exit start).st.run = .free := by decide +kernel
-- Scalar (05 R108–R116).
theorem test_add_wraps : (run (.add 4 4 1) (withG [(4, 0xFFFFFFFF), (1, 2)])).g 4 = 1 := by decide +kernel
theorem test_write_to_g0 : (run (.add 0 4 4) (withG [(4, 5)])).g 0 = 0 := by decide +kernel
theorem test_shift_amount_modulo_32 : (run (.shl 4 1 2) (withG [(1, 3), (2, 33)])).g 4 = 6 := by decide +kernel
theorem test_sar : (run (.sari 4 1 31) (withG [(1, 0x80000000)])).g 4 = 0xFFFFFFFF := by decide +kernel
theorem test_addi_signed : (run (.addi 3 3 0xFFFF) (withG [(3, 0)])).g 3 = 0xFFFFFFFF := by decide +kernel
theorem test_clz_zero : (run (.clz 4 1) start).g 4 = 32 ∧ (run (.ctz 4 1) start).g 4 = 32 := by decide +kernel
theorem test_bfx_signed : (run (.bfx 4 1 1 4 3) (withG [(1, 0x80)])).g 4 = 0xFFFFFFF8 := by decide +kernel
theorem test_add64_carry : (run (.add64 4 2 6) (withG [(2, 0xFFFFFFFF), (6, 1)])).g 5 = 1 := by decide +kernel
theorem test_mulh_signs : (run (.mulh 4 1 2) (withG [(1, 0xFFFFFFFF), (2, 2)])).g 4 = 0xFFFFFFFF ∧
    (run (.mulhu 4 1 2) (withG [(1, 0xFFFFFFFF), (2, 2)])).g 4 = 1 := by decide +kernel
theorem test_div_by_zero : (run (.div 4 1 2) (withG [(1, 7)])).g 4 = 0x7FFFFFFF ∧ (run (.rem 4 1 2) (withG [(1, 7)])).g 4 = 7 := by
  decide +kernel
theorem test_div_overflow : (run (.div 4 1 2) (withG [(1, 0x80000000), (2, 0xFFFFFFFF)])).g 4 = 0x7FFFFFFF := by decide +kernel
theorem test_fadd_rounds_to_even : (run (.fadd 4 1 2 0) (withG [(1, 0x3F800000), (2, 0x33800000)])).g 4 = 0x3F800000 := by decide +kernel
theorem test_fma_single_rounding : (run (.fma 4 1 2 0) (withG [(1, 0x3F800001), (2, 0x3F800001), (4, 0xBF800002)])).g 4 = 0x28800000 := by
  decide +kernel
theorem test_fneg_of_nan : (run (.fneg 4 1) (withG [(1, 0x7FC00001)])).g 4 = 0xFFC00001 := by decide +kernel
theorem test_fcvt_clamps : (run (.fcvt 4 1 4 5 1) (withG [(1, 0x43480000)])).g 4 = 127 := by decide +kernel
theorem test_fdiv_by_zero : (run (.fdiv 4 1 2 0) (withG [(1, 0xBF800000)])).g 4 = 0xFF800000 := by decide +kernel
-- Vector (05 R119–R133); the requantising example of chapter 5.
theorem test_vadd_int8_wraps : ((run (.vadd 4 2 3 0 0 5) (putV (putV start 2 (vreg 0 [127])) 3 (vreg 0 [1]))).v 4).lanes.toList.head? =
    some 0xFF80 := by decide +kernel
theorem test_vadd_int8_saturates : ((run (.vadd 4 2 3 1 0 5) (putV (putV start 2 (vreg 0 [127])) 3 (vreg 0 [1]))).v 4).lanes.toList.head? =
    some 127 := by decide +kernel
theorem test_vcvt_example :
    let s := putV (putV start 4 (vreg 0 [0, 0x4040, 0, 0xBFA0, 0xCCCD, 0x3DCC])) 6 (vreg 0x1234 [7, 8])
    let v := (run (.vcvt 6 4 1 0 0 1 4) s).v 6
    v.side = 0xFE801234 ∧ (v.lanes.toList.take 20) = [7, 8, 0, 0, 0, 0, 0, 0, 0, 0, 0, 0, 0, 0, 0, 0, 96, 0xFFD8, 6, 0] := by decide +kernel
theorem test_vext : (run (.vext 4 2 1 4) (putV start 2 (vreg 0 [1, 2, 3, 4]))).g 4 = 0x00040003 := by decide +kernel
theorem test_vmov_mg_m0 : (run (.vmovMg 0 1) (withG [(1, 5)])).m 0 = 0xFFFFFFFF := by decide +kernel
-- Local memory, bobbins, tags (06).
theorem test_st_ld_byte_order : (run (.ld 3 1 0 2) (run (.st 2 1 2 0) (withG [(1, 0x3000), (2, 0xA1B2C3D4)]))).g 3 = 0xB2 := by decide +kernel
theorem test_ld_misaligned : stopOf (run (.ld 3 1 2 2) (withG [(1, 0x0800)])) = some (0x08, 0x08020002, 0) := by decide +kernel
theorem test_latom_returns_old : (run (.latom 4 1 2 0 2) (withG [(1, 0x3000), (2, 5)])).g 4 = 0 := by decide +kernel
theorem test_bqry_undeclared : (run (.bqry 4 0 9) start).g 4 = 0 := by decide +kernel
theorem test_bset_undeclared : stopOf (run (.bsetEmpty 1 3) start) = some (0x09, 0x307, 0) := by decide +kernel
theorem test_twany_empty_mask : (run (.twany 4 2 0) start).g 4 = 64 := by decide +kernel
theorem test_ldt_example :
    let s := (withG [(5, 0x2000)]).modMe fun c => ((c.store 0x2000 [0x00, 0x40, 0x00, 0x3F, 0x09, 0x01]).store 0x4000 [1, 2]).store 0x3F00 [0x80, 0]
    ((run (.ldt 2 5 0) s).t 2).el[1][0] = 4 ∧ ((run (.ldt 2 5 0) s).t 2).side[1] = 0xFF80 ∧ ((run (.ldt 2 5 0) s).t 2).fmt = 1 := by decide +kernel
-- Messages (07).
theorem test_send_without_route : stopOf (run (.send 1 4 4 0) start) = some (0x10, 0x101, 0) := by decide +kernel
theorem test_recv_without_wake : stopOf (run (.recv 2 4) start) = some (0x10, 0x206, 0) := by decide +kernel
theorem test_trig_counts : (rd (run (.trig 1 4) (withCore fun c => { c with routes := wr c.routes (1 : BitVec 6) 0x0A10 })).me.sendCtr (1 : BitVec 6)) = 1 := by
  decide +kernel
-- Tensor (08): the worked example of one step and its drain.
def mmaExample : State :=
  putT (putT start 1 (tile 1 0 15 [0x0080] [[64, 32]])) 2 (tile 1 15 15 [0x007F, 0x017E] [[96, 0xFFC0], [80]])
theorem test_mma_example :
    let a := (run (.mmaZ 1 2 0 1 1 0 0) mmaExample).acc 0
    a.x = BitVec.ofInt 12 (-13) ∧ a.a[0] = 16384 ∧ a.a[1] = 5120 := by decide +kernel
theorem test_drain_example :
    let t := (run (.drainT 3 0 1 0) (run (.mmaZ 1 2 0 1 1 0 0) mmaExample)).t 3
    t.side[0] = 0xFE80 ∧ t.side[1] = 0xFF00 ∧ t.el[0][0] = 64 ∧ t.el[0][1] = 20 := by decide +kernel
theorem test_accz : ((run (.accz 1) start).acc 1).x = 0x800 := by decide +kernel
-- Signatures (09), the time base (13) and the system (14).
theorem test_sigq_reset : (run (.sigq 4 0) start).g 4 = 0 := by decide +kernel
theorem test_time_pair : (run (.time 2) { start with time := 0x500000007 }).g 2 = 7 ∧ (run (.time 2) { start with time := 0x500000007 }).g 3 = 5 := by
  decide +kernel
theorem test_trap_frame : ((run (.trap 5) start).st.frame.epc, (run (.trap 5) start).st.frame.eclb) = (0x404, 0x400) := by decide +kernel
theorem test_eret_without_handler : stopOf (run (.eret 1 0) start) = some (0x06, 1, 0) := by decide +kernel
theorem test_csrr_undeclared : (run (.csrr 4 0xFFF) start).st.run = .stopped := by decide +kernel
theorem test_nop_passes : (run .nop start).st.pc = 0x408 := by decide +kernel
-- Fetching, the checks of R33, and the step.
theorem test_withFetchWord_runs : (match step (State.reset.withFetchWord 32 0x24CC0007) with
    | .next t => ((t.core 0).strand 0).getG 3 == 7 | _ => false) = true := by decide +kernel
theorem test_step_of_illegal_word : (match step (State.reset.withFetchWord 32 0x0C200002) with
    | .next t => ((t.core 0).strand 0).frame.cause == 0x01 | _ => false) = true := by decide +kernel
theorem test_reset_inv : Memory.wf State.reset.edge = true := by decide

/-! ### Witnesses: states and operands that meet the hypotheses of the statements

One theorem for each statement with hypotheses, one conjunct for each of its clauses. A hypothesis that only places an
instruction in the statement's own list is met by that list's members and stands here no second time. -/

theorem witness_StepRunsTheDecodedInstruction :
    let b := ({ start with agenda := [] } : State).beginCycle 0
    let n := (b.pick 0 9).1.enter 0 0
    let idle : State := { State.reset with power := true, agenda := [.cycle 0] }
    let slow : State := { withCore (fun c => { c with stretchLeft := 3 }) with agenda := [.cycle 0] }
    let bad := ((({ State.reset.place 0xF8080000 with agenda := [] } : State).beginCycle 0).pick 0 9).1.enter 0 0
    ({ State.reset with agenda := [.event (.clauseFill 0 0)] } : State).agenda = .event (.clauseFill 0 0) :: [] ∧
    ({ start with agenda := [] } : State).power = true ∧ State.reset.power = false ∧ State.reset.agenda = [] ∧
    start.agenda = .cycle 0 :: [] ∧ start.power = true ∧ (b.core 0).issues = true ∧ (b.pick 0 9).2 = some 0 ∧
    n.st.check.toOption = some .nop ∧ (exec .nop n matches .next _) = true ∧ bad.st.check.toOption = none ∧
    start.edge = [] ∧ ({ start with agenda := [.edge 63] } : State).agenda = .edge 63 :: [] ∧
    (({ start with agenda := [] } : State).core 0).periods = start.dcyc (domainOf 0) ∧ (start.core 0).half = false ∧
    ((withCore fun c => { c with cc := 5 }).core 0).periods ≠ start.dcyc (domainOf 0) ∧
    (let h := withCore fun c => { c with half := true }
     (h.core 0).half = true ∧ (h.core 0).periods = h.dcyc (domainOf 0)) ∧
    (slow.core 0).periods = slow.dcyc (domainOf 0) ∧ (idle.core 0).periods = idle.dcyc (domainOf 0) ∧
    (((({ slow with agenda := [] } : State).beginCycle 0).core 0).issues = false) ∧
    (((({ idle with agenda := [] } : State).beginCycle 0).core 0).issues = true) ∧
    ((({ idle with agenda := [] } : State).beginCycle 0).pick 0 9).2 = none := by decide +kernel
theorem witness_DecodeUndoesEncode : encode (.loop 3 2) = some 0x0C230002 ∧ (decode 0x0C230002).toOption = some (.loop 3 2) := by
  decide +kernel
theorem witness_EdgeMemoryCanonical : Memory.wf start.edge = true ∧ (step start matches .next _) = true := by decide +kernel
theorem witness_LocalMemoriesCanonical : (∀ l, Memory.wf (start.core l).sram = true) ∧ (∀ h, Memory.wf (start.hub h).sram = true) ∧
    (step start matches .next _) = true := by
  refine ⟨fun l => ?_, fun h => rfl, by decide +kernel⟩
  by_cases h : l = 0
  · subst h; decide +kernel
  · have e : start.core l = Core.reset := lookup_insert_ne _ h _ _
    rw [e]; rfl
theorem witness_ControlTransfers :
    let s := withG [(1, 0x400), (3, 2), (4, 1)]
    let target : Addr := 0x400
    (target.toNat : Int) = ((s.st.pc.toNat : Int) + 4 * (BitVec.ofInt 22 (-1)).toInt) % 65536 ∧ target.toNat = ((s.g 1).toNat + (0 : BitVec 12).toNat) % 65536 ∧
    s.me.isTarget target = true ∧ s.me.isTarget 0x404 = false ∧ s.me.isTarget 0x402 = false ∧ s.g 3 ≠ 1 ∧
    (target.toNat : Int) = ((s.st.pc.toNat : Int) - 4 * ((1 : BitVec 12).toNat : Int)) % 65536 ∧ s.g 4 = 1 ∧
    (target.toNat : Int) = ((s.st.pc.toNat : Int) + 4 * (BitVec.ofInt 14 (-1)).toInt) % 65536 ∧
    (s.g 1 = s.g 1 ∧ s.g 1 ≠ s.g 3 ∧ s.g 3 ≠ s.g 1) ∧
    (let u := s.modSt fun t => { t with buf := ⟨true, 0x404, 0xF8110000, []⟩ }
     u.st.buf.valid = true ∧ u.st.buf.addr = 0x404 ∧ hdrLoop u.st.buf.hdr = true ∧ u.me.isTarget 0x404 = false) := by decide +kernel
theorem witness_NopAndWaitingInstructions :
    let s := withG [(1, 3)]
    let z := withSt fun t => { t with run := .waiting, wait := .sleep 7 }
    let w := (withG [(2, 0x20), (3, 0x80000000)]).modMe fun c => { c with
      trigs := wr c.trigs (63 : BitVec 6) 3, locals := [⟨⟨0x3F, []⟩, 0, 0, false, 1, .stands⟩] }
    s.g 1 + (0xFFD : BitVec 12).zeroExtend 32 ≠ 0 ∧ s.g 0 + (0 : BitVec 12).zeroExtend 32 = 0 ∧ z.st.run = .waiting ∧ z.st.frozen = false ∧ z.st.wait = .sleep 7 ∧
    z.cc < 7 ∧ (z.modMe fun c => { c with cc := 7 }).cc = 7 ∧ s.p 4 = 0 ∧ w.p 2 ≠ 0 ∧ w.st.frozen = false ∧
    ((w.p 2).getLsbD (63 : BitVec 6).toNat = true ∧ w.me.trigAct 63 = 3 ∧ (w.me.standing 63).isSome = true ∧
      ∀ j : BitVec 6, j.toNat < (63 : BitVec 6).toNat → (w.p 2).getLsbD j.toNat = false ∨ w.me.trigAct j ≠ 3 ∨ w.me.standing j = none) ∧
    (start.p 15 = 0 ∧ ∀ ch : BitVec 6, (s.p 1).getLsbD ch.toNat = false ∨ s.me.trigAct ch ≠ 3 ∨ s.me.standing ch = none) := by decide +kernel
/-- A declared bobbin of 16-bit words. -/
def bob (base size : BitVec 16) (st : BobSt) (fill head : BitVec 16) : Bobbin :=
  ⟨base, size, 3, 0, false, 0, 0, false, 0, 0, fill, head, st, false, true⟩
/-- Bobbin n is b. -/
def putB (s : State) (n : BitVec 5) (b : Bobbin) : State := s.modMe fun c => { c with bobbins := wr c.bobbins n b }
/-- Tag n is t. -/
def putTag (s : State) (n : BitVec 6) (t : Tag) : State := s.modMe fun c => { c with tags := wr c.tags n t }
/-- A strand entry with no vector registers. -/
def entryAt (v : BitVec 5) (a : Addr) : Entry := ⟨a, v, 0, 0, 0, none, false⟩
theorem witness_SpawnAndExit :
    let s := withCore fun c => { c with entries := wr c.entries (15 : BitVec 4) (some (entryAt 0 0x400)) }
    let held := s.modMe fun c => { c with grantHeld := true }
    let q : SpawnReq := ⟨15, 0, 0, none⟩
    let old := s.modMe fun c => { c with spawnQ := [q] }
    let full := s.modMe fun c => { c with spawnQ := List.replicate 16 q }
    let near := s.modMe fun c => { c with spawnQ := List.replicate 15 q, grantHeld := true }
    let asks := near.modMe fun c => c.modStrand 5 fun t => { t with run := .waiting, stamp := 3, wait := .spawnRoom 4 15 7 }
    let msg : LocalMsg := ⟨⟨BitVec.ofNat 128 (63 + 6 * 2 ^ 22), []⟩, 0, 9, false, 0, .queue 15 3⟩
    let first : SpawnAsk := ⟨3, 64, 0⟩
    let told := near.modMe fun c => { c with locals := [msg] }
    (near.me.spawnQ.length = 15 ∧ near.me.grantHeld = true ∧ asks.me.spawnAsks = [⟨3, 0, 5⟩] ∧ (asks.me.strand 5).wait = .spawnRoom 4 15 7 ∧
      (∀ b, b ∈ asks.me.spawnAsks → b = (⟨3, 0, 5⟩ : SpawnAsk))) ∧
    (told.me.spawnAsks = [first] ∧ first.rank = (63 : BitVec 6).toNat + 1 ∧ told.me.localAt 63 = some msg ∧ msg.st = .queue 15 3) ∧
    s.me.entry 0 = none ∧ s.me.entry 15 = some (entryAt 0 0x400) ∧ s.me.spawnQ = [] ∧ s.me.grantHeld = false ∧ full.me.spawnAsks = [] ∧
    (s.me.grant (entryAt 0 0x400)).isSome = true ∧ s.st.run ≠ .free ∧ (held.me.grantHeld = true ∧ held.me.entry 15 ≠ none ∧ held.me.spawnQ.length < 16) ∧
    s.me.grant (entryAt 17 0x400) = none ∧
    (old.me.spawnQ ≠ [] ∧ old.me.entry 15 = some (entryAt 0 0x400) ∧ old.me.spawnQ.length < 16) ∧ (full.me.spawnQ ≠ [] ∧ 16 ≤ full.me.spawnQ.length) ∧
    (full.me.spawnQ = q :: List.replicate 15 q ∧ q.entry = 15 ∧ full.me.grantHeld = false ∧ (full.me.grant (entryAt 0 0x400)).isSome = true) ∧
    s.st.pend = [] ∧ s.st.rel = [] ∧
    (withSt fun t => { t with pend := [⟨.g 0, none, false⟩] }).st.pend ≠ [] ∧ (withSt fun t => { t with rel := [⟨0, 0, false, []⟩] }).st.rel ≠ [] := by
  decide +kernel
theorem witness_BitCountsAndFields : (31 : BitVec 5).toNat + ((0 : BitVec 5).toNat + 1) ≤ 32 ∧ (0 : BitVec 5).toNat + ((31 : BitVec 5).toNat + 1) ≤ 32 := by decide
theorem witness_PairsAndProducts : (0 : BitVec 4).toNat % 2 = 0 ∧ (14 : BitVec 4).toNat % 2 = 0 := by decide
theorem witness_DivisionResults :
    let s := withG [(1, 0x80000000), (2, 0xFFFFFFFF), (3, 1)]
    (s.g 3 ≠ 0 ∧ ¬ (s.g 1 = 0x80000000 ∧ s.g 3 = 0xFFFFFFFF)) ∧ s.g 4 = 0 ∧ (s.g 1 = 0x80000000 ∧ s.g 2 = 0xFFFFFFFF) := by decide +kernel
theorem witness_LatencyElapsed : (start.me.strand 0).hold = .none ∧ ∀ b, (start.me.strand 0).hold ≠ .exiting b := by decide +kernel
theorem witness_VectorValueResults : (3 : BitVec 3) ≠ 4 ∧ isB 5 = false ∧ 31 < lanesOf 5 ∧ isB 2 = true ∧
    ∀ i, i < 16 → (0xFFFF0000 : Word).getLsbD (16 * 0 + i) = false := by decide +kernel
theorem witness_VectorLaneResults : (0 : BitVec 3) ≠ 7 ∧ (6 : BitVec 3) ≠ 7 ∧ (15 : BitVec 8).toNat < lanesOf 4 ∧ (31 : BitVec 8).toNat < lanesOf 0 ∧
    (0 < 16 ∧ (start.m 0).getLsbD (16 * 1 + 0) = true) := by decide +kernel
theorem witness_VectorSignsAndMoves : ((3 : BitVec 3) = 3 ∨ (3 : BitVec 3) = 4) ∧ ((6 : BitVec 3) = 5 ∨ (6 : BitVec 3) = 6) ∧ isB 0 = true ∧ isB 2 = true ∧
    (15 : BitVec 8).toNat < lanesOf 6 ∧ (31 : BitVec 8).toNat < lanesOf 5 := by decide +kernel
theorem witness_ScalarLoads :
    let s := putB (withG [(1, 0xFFF8), (2, 0x3000)]) 4 (bob 0x3000 64 .filling 0 0)
    ((((s.g 1).toNat + (0 : BitVec 16).toNat) % 65536) % 8 = 0 ∧ s.me.readFault 0xFFF8 8 = none ∧ (14 : BitVec 4).toNat % 2 = 0) ∧
    ((((s.g 1).toNat + (1 : BitVec 16).toNat) % 65536) % 2 ≠ 0) ∧ (s.me.readFault 0x3000 4).isSome = true := by decide +kernel
theorem witness_ScalarStores :
    let s := putB (withG [(1, 0xFFF8), (2, 0x3000)]) 4 (bob 0x3000 64 .full 0 0)
    ((((s.g 1).toNat + (0 : BitVec 16).toNat) % 65536) % 8 = 0 ∧ s.me.writeFault 0xFFF8 8 = none) ∧
    ((((s.g 1).toNat + (0xFFFF : BitVec 16).toNat) % 65536) % 8 ≠ 0) ∧ (s.me.writeFault 0x3038 8).isSome = true ∧ Memory.wf s.me.sram = true := by decide +kernel
theorem witness_VectorLoadsAndStores :
    let s := putB (withG [(2, 0x3000), (3, 0x5002), (4, 0x3004)]) 4 (bob 0x3020 64 .filling 0 0)
    let t := putB s 4 (bob 0x3020 64 .full 0 0)
    ((s.g 2).toNat % 8 = 0 ∧ (s.g 3).toNat % 2 = 0 ∧ start.me.readFaults [(0x3000, 32), (0x5002, 4)] = none ∧
      start.me.writeFaults [(0x3000, 32), (0x5002, 4)] = none ∧ Memory.wf start.me.sram = true ∧ vecBytes 1 = 32) ∧
    (∀ q, q < 32 → ∀ p, p < 4 → 0x3000 + q ≠ 0x5002 + p) ∧ ((s.g 4).toNat % 8 ≠ 0) ∧ (s.g 3 + 1).toNat % 2 ≠ 0 ∧
    (s.me.readFaults [(0x3000, 64)]).isSome = true ∧ (t.me.writeFaults [(0x3000, 64)]).isSome = true := by decide +kernel
theorem witness_TileLoadsAndStores :
    let s := (withG [(5, 0x2000), (6, 0x2004)]).modMe fun c => (c.store 0x2000 [0x00, 0x40, 0x00, 0x3F, 0x09, 0x01]).store 0x3000 [0, 0, 0, 0, 0xFF, 0xFF, 0xFF, 0xFF]
    let h := Hdr.ofNat (s.me.load 0x2000 8)
    let lay := h.layout s.me
    let t := putT s 1 (tile 3 0 0 [] [])
    s.me.headerFault 0x2000 3 = none ∧ s.me.readFaults lay.ranges = none ∧ h.swzFault s.me lay.ranges 0x2000 = none ∧ h.fmt = (s.t 0).fmt ∧
    s.me.writeFaults h.ranges = none ∧ Memory.wf s.me.sram = true ∧
    (s.g 6).toNat % 8 ≠ 0 ∧ (s.me.headerFault 0x3000 3).isSome = true ∧ h.fmt ≠ (t.t 1).fmt ∧
    ((putB s 5 (bob 0x4000 512 .full 512 0)).me.writeFaults h.ranges).isSome = true ∧
    ((s.modMe fun c => { c with ue := [0x4000] }).me.readFaults lay.ranges).isSome = true ∧
    (let b := (putB s 5 (bob 0x4000 512 .full 512 0)).me
     b.readFaults (h.layout b).ranges = none ∧ (h.swzFault b (h.layout b).ranges 0x2000).isSome = true) := by decide +kernel
/-- Numbers rising from lo. -/
def rising : Nat → List Nat → Bool
  | _, [] => true
  | lo, x :: t => decide (lo ≤ x) && rising (x + 1) t
theorem rising_nodup : ∀ (l : List Nat) (lo : Nat), rising lo l = true → (∀ x, x ∈ l → lo ≤ x) ∧ l.Nodup
  | [], _, _ => ⟨nofun, List.nodup_nil⟩
  | y :: t, lo, h => by
    simp only [rising, Bool.and_eq_true, decide_eq_true_eq] at h
    have r := rising_nodup t (y + 1) h.2
    refine ⟨fun x hx => ?_, List.nodup_cons.mpr ⟨fun hy => Nat.lt_irrefl y (r.1 y hy), r.2⟩⟩
    rcases List.mem_cons.mp hx with e | hx
    · exact e ▸ h.1
    · exact Nat.le_trans h.1 (Nat.le_of_succ_le (r.1 x hx))
theorem witness_TileLoadsAndStores_cells :
    let s := putT (withCore fun c => c.store 0x2000 [0x00, 0x40, 0x00, 0x3F, 0x03]) 0 (tile 3 15 15 [] [])
    let h := Hdr.ofNat (s.me.load 0x2000 8)
    let cells := h.cells ((s.t 0).rowList.map fun r => (rowBytes h.fmt r.1, r.2))
    s.me.headerFault 0x2000 3 = none ∧ h.fmt = (s.t 0).fmt ∧ cells.length = 512 ∧ (cells.map Prod.fst).Nodup := by
  exact ⟨by decide +kernel, by decide +kernel, by decide +kernel, (rising_nodup _ 0 (by decide +kernel)).2⟩
theorem witness_LocalAtomics :
    ((2 : BitVec 2) = 2 ∧ 4 = 4) ∧ ((3 : BitVec 2) = 3 ∧ 8 = 8 ∧ (14 : BitVec 4).toNat % 2 = 0) ∧
    (let s := withG [(1, 0xFFFC), (2, 0xFFF8)]
     ((s.g 1).toNat % 65536 % 4 = 0 ∧ s.me.checkWrite 0xFFFC 4 = none ∧ s.me.ueAt 0xFFFC 4 = none) ∧
     ((s.g 2).toNat % 65536 % 8 = 0 ∧ s.me.checkWrite 0xFFF8 8 = none ∧ s.me.ueAt 0xFFF8 8 = none) ∧ (s.g 1).toNat % 65536 % 8 ≠ 0 ∧
     Memory.wf s.me.sram = true ∧ ((putB s 5 (bob 0xFFF0 16 .full 16 0)).me.checkWrite 0xFFFC 4).isSome = true ∧
     (let u := s.modMe fun c => { c with ue := [0xFFF8] }
      u.me.checkWrite 0xFFFC 4 = none ∧ (u.me.ueAt 0xFFFC 4).isSome = true)) := by decide +kernel
theorem witness_CopyEngine :
    let s := putB (withG [(1, 0x3000), (2, 0x4000), (3, 16), (4, 65536), (5, 65544), (6, 5)]) 5 (bob 0x5000 64 .filling 48 0)
    let t := s.modMe fun c => { c with copies := [⟨0x3000, 0, 0x4000, 65536 - 65520, 7, none, 0, 0, 0, [], none⟩] }
    let u := s.modMe fun c => { c with cc := 9, copies := [⟨0x3000, 0, 0, 16, 7, some 5, 0, 16, 16, [], some 8⟩] }
    ((s.g 3).toNat % 8 = 0 ∧ (s.g 4).toNat ≤ 65536 ∧ (s.g 4).toNat % 8 = 0 ∧ (s.g 1).toNat % 65536 % 8 = 0 ∧ (s.g 2).toNat % 65536 % 8 = 0 ∧
      s.me.checkRead 0x3000 16 = none ∧ s.me.checkWrite 0x4000 16 = none ∧ s.me.tagFree 7 = true ∧
      (s.modMe fun c => c.takeTag 7 .copy).me.tagFree 7 = false) ∧
    (((s.g 6).toNat % 8 ≠ 0) ∧ 65536 < (s.g 5).toNat) ∧
    ((s.g 6).toNat = 5 ∧ (s.me.bobbin 5).valid = true ∧ isBTag (s.me.bobbin 5).fmt = false ∧ (s.me.bobbin 5).bkind = 0 ∧
      (s.me.bobbin 5).st = .filling ∧ (s.me.bobbin 5).fill.toNat + (s.g 3).toNat ≤ (s.me.bobbin 5).size.toNat) ∧
    (t.me.copies = ⟨0x3000, 0, 0x4000, 16, 7, none, 0, 0, 0, [], none⟩ :: [] ∧ t.me.ue = [] ∧ Memory.wf t.me.sram = true ∧ (∀ j, (t.me.strand j).run ≠ .waiting) ∧
      ∀ p, p < 16 → ∀ q, q < 16 → 0x3000 + p ≠ 0x4000 + q) ∧
    (u.me.copies = ⟨0x3000, 0, 0, 16, 7, some 5, 0, 16, 16, [], some 8⟩ :: [] ∧ 8 < u.cc ∧ (u.me.bobbin 5).st = .filling ∧ ∀ j, (u.me.strand j).run ≠ .waiting) ∧
    (let z := s.modMe fun c => { c with cc := 1, copies := [⟨0x3000, 0, 0x4000, 0, 7, none, 0, 0, 0, [], none⟩] }
     z.me.copies = ⟨0x3000, 0, 0x4000, 0, 7, none, 0, 0, 0, [], none⟩ :: [] ∧ 0 < z.cc ∧ ∀ j, (z.me.strand j).run ≠ .waiting) := by decide +kernel
theorem witness_BobbinInstructions :
    let s := (withG [(1, 0x3000), (2, 64), (3, 72), (4, 5), (5, 8)]).modMe fun c => c.store 0x3000 [0x00, 0x40, 0x40, 0x00, 0x03]
    let st := fun x fill head => putB s 31 (bob 0x5000 64 x fill head)
    s.st.run ≠ .waiting ∧
    ((s.g 1).toNat % 65536 % 8 = 0 ∧ s.me.readFault 0x3000 16 = none ∧ badDescriptor (s.me.load 0x3000 8) (s.me.load 0x3008 8) = false ∧ s.me.later = [] ∧
      (s.me.bobbin 0).valid = false ∧ (Bobbin.ofWords (s.me.load 0x3000 8) (s.me.load 0x3008 8)).ften = false ∧
      ∀ j, j ≠ 31 → ((st .empty 0 0).me.bobbin j).valid = false) ∧
    (Bobbin.ofWords (s.me.load 0x3000 8) (s.me.load 0x3008 8)).ranges.all (fun x => (bob 0x5000 64 .empty 0 0).ranges.all fun y => !overlap x y) = true ∧
    (badDescriptor (start.me.load 0x3000 8) (start.me.load 0x3008 8) = true ∧ (s.me.withDecls.bobbin 31).valid = false ∧
      ((st .full 16 0).me.withDecls.bobbin 31).valid = true ∧ ((st .full 16 0).me.withDecls.bobbin 31).st ≠ .empty) ∧
    (let t := putB s 3 (bob 0x4038 64 .empty 0 0)
     (t.me.withDecls.bobbin 31).valid = false ∧ (t.me.withDecls.bobbin 3).valid = true ∧
       (Bobbin.ofWords (t.me.load 0x3000 8) (t.me.load 0x3008 8)).ranges.any (fun x => (t.me.withDecls.bobbin 3).ranges.any fun y => overlap x y) = true) ∧
    (let t := putTag (s.modMe fun c => c.store 0x3005 [0x80]) 0 ⟨.busy, .none, false, 0, 0, 0⟩
     let new := Bobbin.ofWords (t.me.load 0x3000 8) (t.me.load 0x3008 8)
     new.ften = true ∧ new.ftag = 0 ∧ badDescriptor (t.me.load 0x3000 8) (t.me.load 0x3008 8) = false ∧ t.me.withDecls.boundTo 0 = none ∧
       (t.me.withDecls.tag 0).st = .busy ∧ (t.me.withDecls.bobbin 31).valid = false ∧
       (let b := putB t 31 { bob 0x5000 64 .empty 0 0 with ften := true, ftag := 1 }
        (b.me.bobbin 31).valid = true ∧ (b.me.bobbin 31).ften = true ∧ new.ftag ≠ (b.me.bobbin 31).ftag) ∧
       (let b := putB t 30 { bob 0x5000 64 .empty 0 0 with ften := true, ftag := 0 }
        b.me.withDecls.boundTo 0 = some 30)) ∧
    ((s.me.bobbin 31).valid = false ∧ (s.g 2).toNat % 8 = 0) ∧
    (∀ x ∈ [BobSt.empty, .filling, .full, .draining], ((st x 16 8).modMe fun c => { c with copies := [⟨0x5000, 0, 0x6000, 8, 0, none, 0, 0, 0, [], none⟩] }).me.copyUses 31 = true) ∧
    (s.g 4).toNat % 8 ≠ 0 ∧ (∀ x ∈ [BobSt.empty, .filling, .full, .draining], ((st x 16 8).me.bobbin 31).valid = true ∧ (st x 16 8).me.copyUses 31 = false ∧
      ((st x 16 8).me.bobbin 31).st = x) ∧
    ((s.g 2).toNat % 8 = 0 ∧ (s.g 2).toNat ≤ 64 ∧ 64 < (s.g 3).toNat ∧ (s.g 3).toNat % 8 = 0) ∧ (st .filling 16 8).depositing 0 31 = false ∧
    ({ st .filling 16 8 with reqs := [⟨0, 0, 1, 0, false, .eld 31 0 16 false true 3, [], .toBrick, 0, none, 0, false⟩] } : State).depositing 0 31 = true ∧
    (16 < 8 + (s.g 2).toNat ∧ 8 + (s.g 0).toNat < 16 ∧ 8 + (s.g 5).toNat = 16) := by decide +kernel
/-- Tag states met in the witnesses. -/
def tagSet : Tag := ⟨.set, .none, false, 0, 0, 0⟩
def tagBad : Tag := ⟨.faulted, .copy, false, 0x0D, 7, 8⟩
theorem witness_TagInstructions :
    let s := putTag (putTag (withG [(2, 0x11), (3, 0x80000000), (4, 0x8000), (7, 0x80000000)]) 63 tagSet) 4 tagBad
    let u := putTag s 4 tagSet
    let v := putTag (putTag s 4 tagSet) 0 tagSet
    s.st.frozen = false ∧
    ((s.p 2).getLsbD (4 : BitVec 6).toNat = true ∧ (s.me.tag 4).st = .faulted ∧ s.p 2 ≠ 0 ∧
      ∀ j : BitVec 6, j.toNat < (4 : BitVec 6).toNat → (s.p 2).getLsbD j.toNat = true → (s.me.tag j).st ≠ .faulted) ∧
    (∀ k : BitVec 6, (s.p 6).getLsbD k.toNat = true → (s.me.tag k).st ≠ .faulted) ∧
    ((s.p 6).getLsbD (63 : BitVec 6).toNat = true ∧ (s.me.tag 63).st = .set ∧
      ∀ j : BitVec 6, j.toNat < (63 : BitVec 6).toNat → (s.p 6).getLsbD j.toNat = true → (s.me.tag j).st ≠ .set) ∧
    (∀ k : BitVec 6, (s.p 4).getLsbD k.toNat = true → (s.me.tag k).st ≠ .set ∧ (s.me.tag k).st ≠ .faulted) ∧ s.p 8 = 0 ∧ s.p 4 ≠ 0 ∧
    (∀ k : BitVec 6, (v.p 2).getLsbD k.toNat = true → (v.me.tag k).st = .set) ∧
    ((u.p 2).getLsbD (0 : BitVec 6).toNat = true ∧ (u.me.tag 0).st ≠ .set ∧ ∀ k : BitVec 6, (u.p 2).getLsbD k.toNat = true → (u.me.tag k).st ≠ .faulted) := by
  decide +kernel
/-- The core with the route v on channel 63, and trick unit 7 with S blocks bound to it if S is not zero. -/
def routed (v : BitVec 16) (blocks : Nat) : State := withCore fun c => { c with
  routes := wr c.routes (63 : BitVec 6) v,
  tricks := if blocks = 0 then c.tricks else wr c.tricks (7 : BitVec 3) { Trick.reset with
    bound := some 63, ctl := 9, s := blocks, ofmt := 1, p := List.replicate blocks none, a := List.replicate blocks (List.replicate 16 (some 0)) } }
theorem witness_Sends :
    let s := routed 0x0A10 0
    let r := routed 0x0E10 2
    (routeValid (s.me.routeNow 63) = true ∧ routeIn (s.me.routeNow 63) 4 = true ∧ routeRed (s.me.routeNow 63) = false) ∧
    routeValid (s.me.routeNow 62) = false ∧ (routeValid ((routed 0x0A01 0).me.routeNow 63) = true ∧ routeIn ((routed 0x0A01 0).me.routeNow 63) 4 = false) ∧
    (routeValid (r.me.routeNow 63) = true ∧ routeIn (r.me.routeNow 63) 4 = true ∧ routeRed (r.me.routeNow 63) = true ∧ (routed 0x0E10 0).me.unitOf 63 = none) ∧
    (r.me.unitOf 63 = some 7 ∧ (r.me.unit 7).s = 2 ∧ (r.me.unit 7).s ≠ 0 ∧ 0 < 2 ∧ 2 ≠ 16) ∧ ((routed 0x0E10 16).me.unitOf 63 = some 7 ∧ ((routed 0x0E10 16).me.unit 7).s = 16) := by
  decide +kernel
theorem witness_BlockSends :
    let s := (routed 0x0A10 0).modSt fun t => (((t.putG 2 0x50023000).putG 3 65504).putG 5 65536).putG 7 4
    let q := fun (x : Inject) => s.modMe fun c => { c with inject := [x] }
    let m : Msg := ⟨mkHdr 63 0 5 0 1 false 0, [(0, 0)]⟩
    (routeValid (s.me.routeNow 63) = true ∧ routeIn (s.me.routeNow 63) 4 = true ∧ routeRed (s.me.routeNow 63) = false ∧
      (s.g 2).toNat % 65536 % 8 = 0 ∧ (s.g 2).toNat / 65536 % 2 = 0) ∧
    ((s.g 3).toNat % 8 = 0 ∧ (s.g 3).toNat ≤ 65528 ∧ (s.g 3).toNat % (2 * mw 0) = 0 ∧ s.me.checkRead 0x3000 16 = none ∧ s.me.tagFree 3 = true ∧
      (putTag s 3 tagBad).me.tagFree 3 = false) ∧
    ((s.g 7).toNat % 8 ≠ 0 ∧ 65528 < (s.g 5).toNat ∧ (s.g 5).toNat % 8 = 0) ∧
    ({ Core.reset with frozen := true } : Core).frozen = true ∧
    (let x := (q (.msg m 0 0)).core 0
     x.frozen = false ∧ x.inject = .msg m 0 0 :: [] ∧ 0 ≤ x.cc ∧ countOf (5, m.chan.toNat) x.used < 4 ∧ m.len = 1) ∧
    (let b : Bulk := ⟨63, 0x3000, 0x5002, 496, 496, 1, 3, 0, 0, none⟩
     let x := ((q (.sendb b)).modMe fun c => { c with cc := 2 }).core 0
     x.inject = .sendb b :: [] ∧ b.left ≠ 0 ∧ x.dataQ = [] ∧ x.latom = none ∧ x.ue = [] ∧ injectFlits x.inject + 32 ≤ 64 ∧ countOf (5, 63) x.used < 4 ∧
     b.issued + 2 ≤ x.cc ∧ (({ x with ue := [0x31E8] } : Core).ueAt 0x3000 496).isSome = true) ∧
    (let b : Bulk := ⟨63, 0x3000, 0x5002, 0, 496, 1, 3, 0, 0, none⟩
     ((q (.sendb b)).core 0).inject = .sendb b :: [] ∧ b.left = 0 ∧ b.n ≠ 0 ∧ m.chan = b.ch ∧
       ({ Core.reset with inject := [.msg m 0 0, .sendb b] } : Core).inject = .msg m 0 0 :: .sendb b :: []) ∧
    (let b : Bulk := ⟨63, 0x3000, 0x5002, 0, 0, 1, 3, 0, 0, none⟩
     let x := (q (.sendb b)).modMe fun c => { c with cc := 1 }
     x.me.inject = .sendb b :: [] ∧ b.n = 0 ∧ b.issued < x.cc) := by decide +kernel
theorem witness_Receives :
    let m : Msg := ⟨mkHdr 63 0 5 0 2 false 0, [(0, 0), (0, 0)]⟩
    let b : Msg := ⟨mkHdr 63 0 5 0 1 false 0, [(0, 0)]⟩
    let s := fun (m : List Msg) => (withG [(3, 0x80000000), (4, 1), (5, 0x80000000), (6, 0x10), (8, 0x20), (10, 0x30)]).modMe fun c => { c with
      trigs := wr (wr (wr c.trigs (63 : BitVec 6) 3) (4 : BitVec 6) (1 + 4 * 31)) (5 : BitVec 6) (2 + 256), locals := m.map fun x => ⟨x, x.len, x.word 0, true, 0, .stands⟩ }
    let l := fun (m : Msg) (n : Nat) => (⟨m, n, m.word 0, true, 0, .stands⟩ : LocalMsg)
    let f := putB (s [m]) 31 (bob 0x3000 64 .full 64 0)
    (s []).st.frozen = false ∧ (s []).me.trigAct 0 ≠ 3 ∧ ((s []).me.trigAct 63 = 3 ∧ (s []).me.standing 63 = none) ∧
    ((s [m]).me.standing 63 = some (l m 2) ∧ (∀ j, j ≠ (0 : BitVec 3) → ((s [m]).me.strand j).takes 63 = false) ∧ (14 : BitVec 4).toNat % 2 = 0 ∧
      m.vecOk = true ∧ (l m 2).whole = true ∧ (l m 1).whole = false ∧ (l m 2).came ≠ 0 ∧ (l m 0).came = 0 ∧ m.len ≠ 0) ∧
    ((s [b]).me.standing 63 = some (l b 1) ∧ b.vecOk = false) ∧
    ((f.p 4).getLsbD (0 : BitVec 6).toNat = true ∧ f.me.trigAct 0 = 0) ∧
    ((f.p 10).getLsbD (5 : BitVec 6).toNat = true ∧ f.me.trigAct 5 = 2 ∧
      ∀ j : BitVec 6, j.toNat < (5 : BitVec 6).toNat → (f.p 10).getLsbD j.toNat = true → ¬ (f.me.trigAct j = 0 ∨ f.me.trigAct j = 2)) ∧
    (f.p 2 ≠ 0 ∧ ∀ k : BitVec 6, (f.p 2).getLsbD k.toNat = true → f.me.trigAct k = 3 ∧ (f.me.standing k).isSome = true) ∧
    (f.p 6 ≠ 0 ∧ ∀ k : BitVec 6, (f.p 6).getLsbD k.toNat = true → f.me.trigAct k = 1 ∧ (f.me.bobbin (f.me.trigBob k)).st = .full) ∧
    (((s []).p 6).getLsbD (4 : BitVec 6).toNat = true ∧ ((s []).me.bobbin ((s []).me.trigBob 4)).st = .empty ∧ ∀ k : BitVec 6, ((s []).p 6).getLsbD k.toNat = true →
      (s []).me.trigAct k = 1) := by decide +kernel
/-- A partition of the first rectangle of the grid, 16 by 8 cores. -/
def part0 : PartRec := ⟨0, 0, 0, 0, 0, 0, 0, false, 0, 0, 0, 1, 1, 0, 0, 0, false, false, 0, false, true, 0, 0, 0, .running, 0, none, false⟩
/-- Core 0 belongs to it. -/
def inPart (s : State) : State := { s.modCore 0 fun c => { c with part := some 0 } with mgmt := { s.mgmt with parts := [part0] } }
theorem witness_ChannelConfiguration :
    let s := inPart ((withG [(1, 0x0A10), (2, 0x1000), (3, 0x0A50), (4, 0x0A11), (5, 0x0CE0), (8, 0x07C), (9, 0x081), (10, 0x3000), (11, 0x3008), (12, 0x3004), (13, 0x0A30)]).modMe fun c =>
      c.store 0x3010 [0x92, 0x3F])
    let e := fun (r : BitVec 4) => ((s.g r).truncate 16 : BitVec 16)
    let busy := (routed 0x0A10 2).modMe fun c => { c with tricks := wr c.tricks (7 : BitVec 3) { c.unit 7 with st := .settling } }
    let b := putB s 0 (bob 0x4000 64 .empty 0 0)
    let w := fun (s : State) => ofBytes ((Memory.bytes s.me.sram 0x3000 24).drop 16)
    let tree := fun (blk : Nat) => (routed 0x0E10 blk).modMe fun c => c.store 0x3010 [0x92, 0x3F]
    let off := (routed 0x0C10 2).modMe fun c => c.store 0x3010 [0x00, 0x3F]
    ((e 1).toNat < 4096 ∧ routeRed (e 1) = false ∧ s.badOut 0 (e 1) = false ∧ s.me.unitBusy 63 = false) ∧
    (4096 ≤ (e 2).toNat ∧ ((e 5).toNat < 4096 ∧ routeRed (e 5) = true ∧ (outPorts (e 5)).length ≠ 1)) ∧
    ((e 13).toNat < 4096 ∧ routeRed (e 13) = false ∧ start.badOut 0 (e 13) = true) ∧ (busy.badOut 0 (e 1) = false ∧ busy.me.unitBusy 63 = true) ∧
    (s.st.run ≠ .waiting ∧ (s.g 0).toNat < 4096 ∧ trigDeposits (s.g 0) = false) ∧
    (trigDeposits (b.g 9) = true ∧ (b.g 9).toNat < 4096 ∧ (b.me.bobbin 0).valid = true ∧ (b.me.bobbin 0).st = .empty ∧ (b.me.bobbin 0).bkind = 0) ∧
    (4096 ≤ (s.g 2).toNat ∧ trigDeposits (s.g 9) = true ∧ (s.me.bobbin 0).valid = false) ∧
    ((s.g 10).toNat % 65536 % 8 = 0 ∧ s.me.readFault 0x3000 24 = none ∧ (s.g 12).toNat % 65536 % 8 ≠ 0) ∧
    (let t := tree 0
     routeValid (t.me.routeNow 63) = true ∧ routeRed (t.me.routeNow 63) = true ∧ routeOut (t.me.routeNow 63) 4 = (w t).testBit 7 ∧
     (Memory.bytes t.me.sram 0x3000 24).getD 15 0 = 0 ∧ w t < 2 ^ 14 ∧ w t / 16 % 8 ≤ 2 ∧ w t % 16 ≠ 0 ∧
     (slots.all fun u => (t.me.unit u).bound.isNone) = true ∧ t.me.unitBusy 63 = false ∧ t.me.unitOf 63 = none ∧
     (slots.find? fun u => (t.me.unit u).bound.isNone) = some 0) ∧
    ((tree 2).me.unitOf 63 = some 7 ∧ (tree 2).me.unitBusy 63 = false ∧
      ((tree 2).modMe fun c => { c with tricks := wr c.tricks (7 : BitVec 3) { c.unit 7 with st := .settling } }).me.unitBusy 63 = true) ∧
    (off.me.unitOf 63 = some 7 ∧ w off % 16 = 0 ∧ routeValid (off.me.routeNow 63) = true ∧ routeRed (off.me.routeNow 63) = true ∧ routeOut (off.me.routeNow 63) 4 = (w off).testBit 7 ∧ w off < 2 ^ 14) ∧
    ((slots.find? fun u => ((((tree 0).modMe fun c => { c with tricks := Vector.replicate 8 { Trick.reset with bound := some 1 } }).me.unit u).bound.isNone)) = none) ∧
    (let o := (tree 2).modMe fun c => { c with tricks := wr c.tricks (0 : BitVec 3) { Trick.reset with bound := some 1, ctl := 63 } }
     (o.me.unit 0).bound.isNone = false ∧ (o.me.unit 0).bound ≠ some 63 ∧ (o.me.unit 0).ctl = BitVec.ofNat 6 (w o / 256)) ∧
    (∀ j, (s.me.strand j).run ≠ .waiting) := by decide +kernel
/-- A message of one payload flit on channel 63, and a head that no router accepts. -/
def msg63 (kind : BitVec 3) : Msg := ⟨mkHdr 63 0 5 0 1 false kind, [(0, 0)]⟩
/-- Core 0 with the route v on channel 63 and the first flit of m at input p. -/
def atInput (v : BitVec 16) (blk p : Nat) (m : Msg) : State :=
  (inPart (routed v blk)).modMe fun c => { c with inputs := [⟨p, m.flit 0, c.route 63, false⟩] }
theorem witness_RoutersAndTriggers :
    let a := atInput 0x0A50 0 4 (msg63 0)
    let full := a.modMe fun c => { c with reports := List.replicate 4 ⟨0, 0, 0, 0, none⟩ }
    let under := a.modMe fun c => { c with inputs := [⟨4, (msg63 0).flit 1, c.route 63, false⟩], ways := [⟨63, 4, [1], 1⟩] }
    let i : InFlit := ⟨4, (msg63 0).flit 0, 0x0A50, false⟩
    (63 : BitVec 6) = BitVec.ofNat 6 63 ∧ (5 ≤ 5 ∧ 0 ≤ 5) ∧
    (let z := a.modMe fun c => { c with owed := [((5, 63), 4), ((5, 66), 1)], used := [((4, 63), 4), ((4, 66), 1)] }
     ((z.core 0).owed.map Prod.fst).Nodup ∧ ((z.core 0).used.map Prod.fst).Nodup ∧
       ∀ e, e ∈ (z.core 0).owed ++ (z.core 0).used → e.1.2 < 67) ∧
    (start.core 0).flitAt 4 63 = none ∧
    ((a.core 0).flitAt 4 63 = some i ∧ (a.core 0).frozen = false ∧ ({ a.core 0 with frozen := true } : Core).frozen = true ∧
      ((atInput 0x0A50 0 3 (msg63 0)).core 0).flitAt 3 63 = some ⟨3, (msg63 0).flit 0, 0x0A50, false⟩) ∧
    ((under.core 0).flitAt 4 63 = some ⟨4, (msg63 0).flit 1, 0x0A50, false⟩ ∧ (under.core 0).wayAt 4 63 = some ⟨63, 4, [1], 1⟩ ∧ ([1] : List Nat).Nodup ∧
      under.credit 0 1 63 = true ∧ (under.modMe fun c => { c with used := [((1, 63), 4)] }).credit 0 1 63 = false ∧
      ((msg63 0).flit 1).type ≠ 1 ∧ ({ under.core 0 with ways := [] } : Core).wayAt 4 63 = none) ∧
    ((a.core 0).wayAt 4 63 = none ∧ i.flit.type = 1 ∧ i.flit.headMsg.chan = 63 ∧ i.flit.headMsg.malformed = false ∧ i.flit.headMsg.kind ≠ 2 ∧
      routeValid i.entry = true ∧ routeIn i.entry 4 = true ∧ routeRed i.entry = false ∧
      (a.core 0).granted 63 = some 4 ∧ a.neighbour 0 1 = some 1 ∧
      ((outPorts i.entry).filter fun o => o != 4 && (o == 4 || (a.neighbour 0 o).isSome)) = [1] ∧ a.credit 0 1 63 = true ∧ (a.core 0).ways = [] ∧
      (a.core 0).reports.length < 4 ∧ 4 ≤ (full.core 0).reports.length) ∧
    ((msg63 7).flit 0).headMsg.malformed = true ∧
    (((msg63 2).flit 0).headMsg.malformed = false ∧ ((msg63 2).flit 0).headMsg.kind = 2 ∧ (a.core 0).unitOfCtl 63 = none) ∧
    ((atInput 0x0E50 2 4 ⟨mkHdr 9 0 0 0 1 false 2, [(0, 0)]⟩).core 0).unitOfCtl 9 = some 7 ∧
    (routeValid 0x0250 = false ∧ routeIn 0x0A40 4 = false) ∧
    (routeRed 0x0E50 = true ∧ ((atInput 0x0E50 0 4 (msg63 0)).core 0).unitOf 63 = none ∧ ((atInput 0x0E50 2 4 (msg63 0)).core 0).unitOf 63 = some 7) ∧
    (({ a.core 0 with lastWin := [(63, 4)], inputs := [i, { i with port := 5 }, { i with port := 3 }] } : Core).granted 63 ≠ some 4) := by decide +kernel
/-- Core 0 with a trigger on channel 63, a bobbin 31, and a message at its local port. -/
def atTrigger (v : Word) (m : Msg) (b : Bobbin) (st : LocSt) : State := (putB start 31 b).modMe fun c => { c with
  trigs := wr c.trigs (63 : BitVec 6) v, locals := [⟨m, m.len, 0, true, 0, st⟩], entries := wr c.entries (15 : BitVec 4) (some (entryAt 0 0x400)) }
theorem witness_RoutersAndTriggers_local :
    let dep : Word := 1 + 4 * 31
    let spawn : Word := 2 + 4 * 31 + 15 * 256
    let filling := bob 0x3000 64 .filling 48 0
    let d := (atTrigger dep (msg63 0) filling .fresh).core 0
    let p := (atTrigger spawn (msg63 0) filling .fresh).core 0
    let v := (atTrigger (spawn + 128) (msg63 0) filling .fresh).core 0
    (start.core 0).localAt 63 = none ∧ (start.core 0).frozen = false ∧
    (d.locals = [] ++ ⟨msg63 0, 1, 0, true, 0, .fresh⟩ :: [] ∧ (msg63 0).chan = 63 ∧ d.frozen = false ∧ d.trigAct 63 = 1 ∧ d.trigBob 63 = 31 ∧
      (d.bobbin 31).valid = true ∧ (d.bobbin 31).st = .filling ∧ isB (msg63 0).fmt = false ∧ isB (d.bobbin 31).fmt = false ∧
      (msg63 0).size = 16 ∧ 16 ≤ (64 : BitVec 16).toNat ∧ 16 ≤ (64 : BitVec 16).toNat - (48 : BitVec 16).toNat ∧
      0 < (msg63 0).len ∧ 1 = (msg63 0).len ∧ (msg63 0).flits.length = (msg63 0).len ∧ Memory.wf d.sram = true ∧ (msg63 0).kind ≠ 1) ∧
    ({ d with frozen := true } : Core).frozen = true ∧
    (let at_ := fun (m : Msg) (n : Nat) (st : LocSt) => ({ d with locals := [⟨m, n, 0, true, 0, st⟩] } : Core)
     let two : Msg := ⟨mkHdr 63 0 5 0 2 false 0, [(0, 0)]⟩
     (at_ (msg63 0) 1 .stands).locals = [] ++ ⟨msg63 0, 1, 0, true, 0, .stands⟩ :: [] ∧
     (at_ (msg63 0) 1 (.queue 15 0)).locals = [] ++ ⟨msg63 0, 1, 0, true, 0, .queue 15 0⟩ :: [] ∧
     (at_ two 2 (.deposit 31 none)).locals = [] ++ ⟨two, 2, 0, true, 0, .deposit 31 none⟩ :: [] ∧ two.flits.length < 2 ∧ two.flits = (0, 0) :: [] ∧
     d.depQ = [] ∧ ({ d with depQ := [[0]] } : Core).depQ ≠ [] ∧
     (at_ { msg63 0 with flits := [] } 0 .fresh).locals = [] ++ ⟨{ msg63 0 with flits := [] }, 0, 0, true, 0, .fresh⟩ :: [] ∧
       ({ msg63 0 with flits := [] } : Msg).len ≠ 0) ∧
    (let b := ((atTrigger dep ⟨mkHdr 63 0 1 0 1 false 0, [(0, 3)]⟩ { filling with fmt := 1, st := .empty, fill := 0 } .fresh).core 0).bobbin 31
     b.valid = true ∧ b.st = .empty ∧ isB b.fmt = true ∧ (⟨mkHdr 63 0 1 0 1 false 0, [(0, 3)]⟩ : Msg).fmt = b.fmt ∧
       (⟨mkHdr 63 0 1 0 1 false 0, [(0, 3)]⟩ : Msg).size ≤ b.size.toNat) ∧
    ((atTrigger 0 (msg63 0) filling .fresh).core 0).trigAct 63 = 0 ∧
    ((((atTrigger dep (msg63 0) { filling with valid := false } .fresh).core 0).bobbin 31).valid = false) ∧
    ((msg63 1).kind = 1 ∧ (((atTrigger dep (msg63 1) (bob 0x3000 64 .full 64 0) .fresh).core 0).bobbin 31).st = .full) ∧
    (isB 1 = true ∧ (msg63 0).fmt ≠ 1) ∧ (8 : BitVec 16).toNat < (msg63 0).size ∧
    ((64 : BitVec 16).toNat - (56 : BitVec 16).toNat < (msg63 0).size ∧ (msg63 0).size ≤ (64 : BitVec 16).toNat) ∧
    (p.trigAct 63 = 2 ∧ p.trigEnt 63 = 15 ∧ p.entry 15 ≠ none ∧ start.me.entry 15 = none ∧ p.trigBv 63 = false ∧ v.trigBv 63 = true ∧
      p.reports.length < 4 ∧ (msg63 0).len ≠ 0 ∧ 1 ≠ 0) ∧
    ((atTrigger 3 (msg63 0) filling .fresh).core 0).trigAct 63 = 3 := by decide +kernel
/-- Core 0 with the route v on channel 63, the trick unit of that channel changed, and flits at port p. -/
def atTrick (v : BitVec 16) (f : Trick → Trick) (p : Nat) (l : List Flit) : State := (inPart (routed v 1)).modMe fun c => { c with
  tricks := wr c.tricks (7 : BitVec 3) (f (c.unit 7)), inputs := l.map fun x => ⟨p, x, v, false⟩ }
theorem witness_TrickProgress :
    let blk : Msg := ⟨mkHdr 63 0 1 0 1 false 0, [(0, 3)]⟩
    let two : Msg := ⟨mkHdr 63 0 7 0 2 false 0, [(1, 0), (0, 0)]⟩
    let x := fun (v : BitVec 16) (f : Trick → Trick) (p : Nat) (l : List Flit) => (atTrick v f p l).core 0
    let root := fun (u : Trick) => { u with root := true }
    let a := x 0x0E10 root 4 [blk.flit 0]
    let body := x 0x0E10 (fun u => { root u with st := .collecting, arcs := [(4, ⟨blk.hdr, []⟩)] }) 4 [blk.flit 1]
    let half := x 0x0E10 (fun u => { root u with st := .collecting, arcs := [(4, ⟨two.hdr, []⟩)] }) 4 [two.flit 1]
    let past := x 0x0C50 (fun u => { u with st := .collecting, p := [some 0], a := [List.replicate 16 (some 32767)], arcs := [(4, ⟨two.hdr, [(1, 0)]⟩)] }) 4 [two.flit 2]
    63 = BitVec.ofNat 6 63 ∧ a.frozen = false ∧
    (a.unitOf 63 = some 7 ∧ a.trickFlit 4 63 (a.unit 7).ctl = some ⟨4, blk.flit 0, 0x0E10, false⟩ ∧ a.wayAt 4 63 = none ∧ (blk.flit 0).chan = 63) ∧
    ((x 0x0E10 root 4 [(⟨mkHdr 9 0 0 0 1 false 2, [(0, 0)]⟩ : Msg).flit 0]).trickFlit 4 63 9).isSome = true ∧ (9 : BitVec 6) ≠ 63 ∧
    (((body.unit 7).arcs.find? fun e => e.1 == 4) = some (4, ⟨blk.hdr, []⟩) ∧ (blk.flit 1).chan = 63 ∧ 1 = blk.len ∧ (body.unit 7).root = true) ∧
    (((half.unit 7).arcs.find? fun e => e.1 == 4) = some (4, ⟨two.hdr, []⟩) ∧ 1 ≠ two.len) ∧
    (((past.unit 7).arcs.find? fun e => e.1 == 4) = some (4, ⟨two.hdr, [(1, 0)]⟩) ∧ (past.unit 7).root = false ∧ two.slots.length = 1 ∧
      two.slots.all (fun b => ((past.unit 7).addSlot 0 b).2 == some 1) = true ∧ two.flits.length = two.len) ∧
    (((a.unit 7).arcs.find? fun e => e.1 == 4) = none ∧ (blk.flit 0).type = 1 ∧ (blk.flit 0).headMsg.chan = 63 ∧ (blk.flit 0).headMsg.kind ≠ 2 ∧
      (blk.flit 0).headMsg.malformed = false ∧ routeValid 0x0E10 = true ∧ routeRed 0x0E10 = true ∧ routeIn 0x0E10 4 = true ∧
      ((blk.flit 0).headMsg.kind = 0 ∧ (blk.flit 0).headMsg.fmt = 1 ∧ (blk.flit 0).headMsg.size = (a.unit 7).s * (2 * mw 1)) ∧
      (a.unit 7).st ≠ .settling ∧ (a.unit 7).got.getLsbD 4 = false ∧ a.reports.length < 4) ∧
    ((x 0x0E10 (fun u => { u with st := .settling }) 4 []).unit 7).st = .settling ∧
    (((⟨mkHdr 63 0 3 0 1 false 0, [(0, 0)]⟩ : Msg).flit 0).headMsg.fmt ≠ 1 ∧ ((⟨mkHdr 63 0 3 0 1 false 0, [(0, 0)]⟩ : Msg).flit 0).headMsg.fmt = 3) := by decide +kernel
theorem witness_TrickProgress_slots :
    let u := ((atTrick 0x0E10 id 4 []).core 0).unit 7
    let b : Slot := ⟨3, false, false, List.replicate 16 (Val.ofInt 0), []⟩
    (0 < u.p.length ∧ u.p.length ≤ 15 ∧ u.a.length = u.p.length ∧ u.p.getD 0 none = none ∧ b.e < 255 ∧
      (({ u with p := [some 4] } : Trick).p.getD 0 none = some 4 ∧ 4 < 255) ∧
      (((u.a.getD 0 []).zip (b.x.map fun y => w16Align y (3 : Int))).map fun e => match e.1, e.2 with | some y, some z => some (y + z) | _, _ => none).all
        (fun y => decide ((y.getD 0).natAbs ≤ 32767)) = true) ∧
    some 16384 ∈ (renorm (halvings [some 32768]) [some 32768] 0).1 := by decide +kernel
theorem witness_TrickProgress_control :
    let up : Msg := ⟨mkHdr 9 0 0 0 1 false 2, [(256 * 5, 0)]⟩
    let down : Msg := ⟨mkHdr 9 0 0 0 1 false 2, [(7, 1)]⟩
    let x := fun (v : BitVec 16) (f : Trick → Trick) (p : Nat) (l : List Flit) => (atTrick v f p l).core 0
    let root := fun (u : Trick) => { u with root := true }
    let done := fun (u : Trick) => { u with st := TrickSt.collecting, got := 16, p := [some 3] }
    (let c := x 0x0E10 (fun u => { root u with p := [some 4] }) 4 [up.flit 0, up.flit 1]
     c.unitOfCtl 9 = some 7 ∧ c.renormAt 4 ((c.unit 7).bound.getD 0) 9 = some up ∧ (c.unit 7).root = true ∧ (up.word 0).toNat % 16 = 0 ∧ 0 < (c.unit 7).s ∧
     (c.unit 7).p.length = (c.unit 7).s ∧ (c.unit 7).s ≤ 15 ∧ (c.unit 7).p.getD 0 none = some 4 ∧ 4 < field (up.word 0).toNat 8 8 ∧ (c.unit 7).a.length = (c.unit 7).s ∧
     ¬ (4 < 4 ∧ routeIn (c.routeNow 63) 4 = true) ∧
     (let y := x 0x0E12 root 1 [up.flit 0, up.flit 1]
      y.unitOfCtl 9 = some 7 ∧ y.renormAt 1 ((y.unit 7).bound.getD 0) 9 = some up ∧ 1 < 4 ∧ routeIn (y.routeNow ((y.unit 7).bound.getD 0)) 1 = true) ∧
     ({ c.unit 7 with p := [none] } : Trick).p.getD 0 none = none) ∧
    (let c := x 0x0E10 (fun u => done (root u)) 4 []
     c.unitOf 63 = some 7 ∧ (c.unit 7).st = .collecting ∧ (c.unit 7).got = BitVec.ofNat 5 (c.routeNow 63).toNat ∧ (c.unit 7).root = true) ∧
    (let c := x 0x0C50 done 4 []
     (c.unit 7).got = BitVec.ofNat 5 (c.routeNow 63).toNat ∧ (c.unit 7).root = false ∧ c.parentPort 63 = 1 ∧ ((c.unit 7).st = .collecting)) ∧
    ((x 0x0E10 id 4 []).unit 7).st ≠ .collecting ∧
    (let e : Emit := ⟨63, 1, msg63 0, 1⟩
     let s := (inPart start).modMe fun c => { c with emits := [e] }
     (s.core 0).emits = e :: [] ∧ e.msg.chan = 63 ∧ s.credit 0 e.out 63 = true ∧ s.neighbour 0 e.out = some 1 ∧
     (s.modMe fun c => { c with used := [((1, 63), 4)] }).credit 0 e.out 63 = false ∧ ({ e with out := 4 } : Emit).out = 4) ∧
    (let c := x 0x0C50 (fun u => { done u with st := .settling }) 1 [down.flit 0, down.flit 1]
     c.unitOfCtl 9 = some 7 ∧ (c.unit 7).bound = some 63 ∧ c.renormAt 1 63 9 = some down ∧ (c.unit 7).root = false ∧ 1 = c.parentPort 63 ∧
     (c.unit 7).ctl = 9) := by decide +kernel
theorem witness_TileSetUp :
    let s := withG [(1, 0x124), (2, 0x200), (3, 5), (4, 0x02000000)]
    ((s.g 1).toNat % 8 ≤ 4 ∧ (s.g 1).toNat / 8 % 8 ≤ 4 ∧ (s.g 1).toNat / 64 % 8 ≤ 4 ∧ (s.g 1).toNat / 512 % 128 = 0 ∧ (s.g 1).toNat / 2 ^ 25 = 0) ∧
    (s.g 2).toNat / 512 % 128 ≠ 0 ∧ 4 < (s.g 3).toNat % 8 ∧ (s.g 4).toNat / 2 ^ 25 ≠ 0 ∧
    (7 : BitVec 3).toNat < s.st.tgrant ∧ (3 : BitVec 3).toNat < s.st.agrant ∧ s.st.agrant ≤ (4 : BitVec 3).toNat ∧
    (withSt fun t => { t with status := 0 }).st.tgrant ≤ (0 : BitVec 3).toNat := by decide +kernel
theorem witness_TileMoves :
    let s := putT start 7 (tile 3 15 15 [] [])
    (s.t 0).fmt = 1 ∧ (s.t 7).fmt = 3 ∧ isB 3 = false ∧ isB 1 = true ∧ (s.t 0).fmt ≠ 0 ∧ (s.t 7).fmt ≠ 2 ∧
    ∀ j : Nat, j < 16 → 15 < 16 := by decide +kernel
theorem witness_MatrixMultiply :
    let s := putT start 7 (tile 2 0 15 [] [])
    ((s.t 0).fmt = 1 ∧ (s.t 7).fmt = 2) ∧ (s.t 0).fmt ≠ 2 ∧ ((s.t 0).fmt = 1 ∧ (s.t 7).fmt ≠ 1) := by decide +kernel
theorem witness_GangMultiply :
    let feed : Bobbin := { bob 0x4000 256 .full 256 0 with fmt := 1 }
    let s := (putB (withG [(1, 0x3000)]) 31 feed).modMe fun c => { c.store 0x3000 [0x3F, 0x05, 0x01, 0x00, 0x1F] with
      routes := wr c.routes (63 : BitVec 6) 0x0A10, trigs := wr c.trigs (5 : BitVec 6) 3, tenOn := true }
    let d := s.me.load 0x3000 8
    let q : Gmma := ⟨3, true, false, 1, 1, 63, 5, 1, 31, 0, 0, 0x404, [], [], false, false, none⟩
    let m : Msg := ⟨mkHdr 5 0 1 0 16 false 0, List.replicate 16 (0, 0)⟩
    let l : LocalMsg := ⟨m, 16, 0, true, 0, .stands⟩
    let bad : LocalMsg := { l with msg := { m with hdr := mkHdr 5 0 5 0 16 false 0 } }
    let u := fun (l : List LocalMsg) => (s.modMe fun c => { c with locals := l }).modSt fun t => { t with gmma := some q, hold := .gmma }
    (s.st.gmma = none ∧ (s.g 1).toNat % 65536 % 8 = 0 ∧ s.me.readFault 0x3000 8 = none ∧ d / 64 % 4 = 0 ∧ d / 2 ^ 14 % 4 = 0 ∧ d < 2 ^ 42 ∧
      d / 65536 % 65536 = 1 ∧ BitVec.ofNat 6 d = 63 ∧ BitVec.ofNat 6 (d / 256) = 5 ∧ routeValid (s.me.routeNow 63) = true ∧ routeIn (s.me.routeNow 63) 4 = true ∧
      s.me.trigAct 5 = 3 ∧ (s.me.bobbin 31).valid = true ∧ (s.me.bobbin 31).st = .full ∧ (s.me.bobbin 31).head.toNat + 1 * tileBytes 1 ≤ (s.me.bobbin 31).fill.toNat) ∧
    (u []).st.gmma ≠ none ∧
    (q.fa = true ∧ q.inA = false ∧ injectFlits s.me.inject + tileFlits 1 ≤ 64 ∧ s.me.ue = [] ∧
      64 < injectFlits (List.replicate 3 (Inject.msg m 0 0)) + tileFlits 1 ∧ s.me.dataQ = [] ∧ s.me.latom = none ∧
      (s.modMe fun c => { c with dataQ := [[0]] }).me.dataQ ≠ [] ∧ (s.modMe fun c => { c with latom := some (0, false) }).me.latom ≠ none) ∧
    (q.fb = false ∧ (u []).me.standing 5 = none ∧ (u [l]).me.standing 5 = some l ∧ q.gotB.length < tileNeed 1 ∧ l.msg.fmt = 1 ∧ l.msg.len = tileLen 1 ∧
      (u [bad]).me.standing 5 = some bad ∧ bad.msg.fmt ≠ 1) ∧
    ((u []).st.gmma = some q ∧ (u []).st.hold = .gmma ∧ (u []).st.run = .ready ∧ (u []).st.frozen = false ∧ (u []).me.frozen = false ∧ q.done = none ∧
      (∀ k, ((u []).me.strand k).run ≠ .waiting) ∧ ((u []).modSt fun t => { t with frozen := true }).st.frozen = true ∧ q.step + 1 = q.k ∧ 0 + 1 ≠ 2) ∧
    ((u []).cc < 7 ∧ ((u []).modMe fun c => { c with cc := 7 }).cc = 7) := by decide +kernel
theorem witness_GangMultiply_steps :
    let feed : Bobbin := { bob 0x4000 256 .full 256 0 with fmt := 1 }
    let q : Gmma := ⟨3, true, false, 1, 1, 63, 5, 1, 31, 0, 0, 0x404, [], [], false, false, none⟩
    let m : Msg := ⟨mkHdr 5 0 1 0 16 false 0, List.replicate 16 (0, 0)⟩
    let l : LocalMsg := ⟨m, 16, 0, true, 0, .stands⟩
    let c := fun (l : List LocalMsg) => { (putB start 31 feed).me with
      routes := wr Core.reset.routes (63 : BitVec 6) 0x0A10, trigs := wr Core.reset.trigs (5 : BitVec 6) 3, tenOn := true, locals := l }
    let both := fun (x : Core) => match x.gather q false with | .ok (y, p) => some (y.gather p true) | .error _ => none
    ((both (c [l])).any fun r => match r with | .ok (_, p) => p.has false && p.has true | .error _ => false) = true ∧
    ((both (c [])).any fun r => match r with | .ok (_, p) => !p.has true | .error _ => false) = true ∧
    ((both (c [{ l with msg := { m with hdr := mkHdr 5 0 5 0 16 false 0 } }])).any fun r => match r with | .ok _ => false | .error _ => true) = true ∧
    (both { c [l] with ue := [0x4000] }).isNone = true ∧ (c [l]).tenOn = true ∧ (c [l]).units.array ≤ (c [l]).cc := by decide +kernel
theorem witness_Drains :
    let s := (withG [(1, 0x3000), (2, 0x3010), (3, 0x3014), (4, 0x3018)]).modMe fun c =>
      (((c.store 0x3000 [0x00, 0x40, 0x00, 0x3F, 0x01]).store 0x3010 [0x00, 0x40, 0x00, 0x00, 0x04]).store 0x3018 [0x00, 0x40, 0x00, 0x00, 0x04, 0x01])
    let h := fun (a : Nat) => Hdr.ofNat (s.me.load a 8)
    let w : DrainM := ⟨0, 0, true, [(0x4000, 1), (0x4001, 2)], [[2048]]⟩
    let v := s.modMe fun c => { c with drainM := [w] }
    (s.me.headerFault 0x3000 4 = none ∧ (h 0x3000).fmt = 1 ∧ (1 : BitVec 3) ≠ 4 ∧ s.me.writeFaults (h 0x3000).ranges = none) ∧
    (s.me.headerFault 0x3010 4 = none ∧ (h 0x3010).fmt = 4 ∧ (h 0x3010).swz ≠ 1 ∧ (h 0x3010).xp = false ∧ s.me.writeFaults (h 0x3010).ranges = none) ∧
    (s.g 3).toNat % 65536 % 8 ≠ 0 ∧ (h 0x3000).fmt ≠ 4 ∧ (s.me.headerFault 0x3018 4 = none ∧ (h 0x3018).fmt = 4 ∧ (h 0x3018).xp = true) ∧
    (v.me.drainM = w :: [] ∧ w.slot = v.slot ∧ w.due ≤ v.cc ∧ Memory.wf v.me.sram = true ∧ (w.writes.map Prod.fst).Nodup) ∧
    ((s.me.headerFault 0x3002 4).isSome = true ∧ ((putB s 5 (bob 0x4000 512 .full 512 0)).me.writeFaults (h 0x3000).ranges).isSome = true) ∧
    s.me.drainM = [] ∧ s.cc < 12 := by decide +kernel
/-- The strand's projection and map changed. -/
def withSig (p : Proj) (m : Map) : State := withSt fun t => { t with proj := p, map := m }
theorem witness_SignatureProjection :
    let p : Proj := { Proj.reset with kw := 12, n := 16, kc := 4094 }
    let s := withSig p Map.reset
    ((s.t 0).fmt = 1 ∧ s.st.proj.kw ≠ 0 ∧ s.st.proj.kw = (11 : BitVec 4).toNat + 1 ∧ s.st.proj.n = (s.t 0).rows.toNat + 1 ∧ s.st.proj.kc ≠ 4095) ∧
    (s.t 0).fmt ≠ 2 ∧ start.st.proj.kw = 0 ∧ (withSig { p with kc := 4095 } Map.reset).st.proj.kc = 4095 ∧
    (15 < (s.t 0).rows.toNat + 1 ∧ p.bad.getLsbD 15 = false ∧ ((putT s 0 (tile 1 15 15 (List.replicate 16 0x00FF) [])).t 0).rowBad 1 15 = true) ∧
    (let t := putT s 0 (tile 1 15 15 (List.replicate 16 0x0080) [])
     (t.t 0).rowBad 1 0 = false) ∧
    (16 ≤ (31 : BitVec 6).toNat ∧ (31 : BitVec 6).toNat < 32 ∧ 32 ≤ (47 : BitVec 6).toNat ∧ (47 : BitVec 6).toNat < 48) ∧
    (3 ≤ (15 : BitVec 6).toNat ∧ (15 : BitVec 6).toNat < 16 ∧ 48 ≤ (48 : BitVec 6).toNat) := by decide +kernel
theorem witness_SignatureMaps :
    let s := (withSig { Proj.reset with kw := 1, n := 16 } ⟨0, 0, 1, 16, 2⟩).modSt fun t => ((t.putG 1 0xFFE8).putG 2 0x3004).putG 3 0x3000
    let i := s.modMe fun c => c.store 0xFFE8 (List.replicate 16 0 ++ [1, 16, 0, 0, 0, 0, 0, 0])
    ((s.t 0).fmt = 1 ∧ s.st.proj.kw ≠ 0 ∧ (s.t 0).rows.toNat + 1 = s.st.proj.n) ∧ (s.st.map.rc ≠ 0 ∧ (s.t 0).rows.toNat + 1 = s.st.map.nr.toNat ∧ s.st.map.rule = 2) ∧
    (start.st.proj.kw = 0 ∧ start.st.map.rc = 0 ∧ (start.t 0).fmt = 1) ∧
    ((putT s 0 (tile 1 0 0 [] [])).t 0).rows.toNat + 1 ≠ 16 ∧ (s.t 0).fmt ≠ 0 ∧
    ((s.g 1).toNat % 65536 % 8 = 0 ∧ s.me.writeFault 0xFFE8 24 = none ∧ s.me.readFault 0xFFE8 24 = none ∧ mapOk (i.me.load 0xFFE8 24) = true ∧
      mapOk (s.me.load 0xFFE8 24) = false ∧ Memory.wf i.me.sram = true) ∧
    (s.g 2).toNat % 65536 % 8 ≠ 0 := by decide +kernel
/-- A record of rounds of 64 bytes, 8 of them, on brick 0. -/
def shape0 (dir : Bool) : Shape := ⟨3, dir, 1, 0, false, 0, 0, 0x1000, 0, Vector.ofFn fun i : Fin 8 => if i.val = 0 then 64 else if i.val = 1 then 8 else 0,
  Vector.ofFn fun i : Fin 8 => if i.val = 1 then 64 else 0, false⟩
/-- A round of it. -/
def round0 (dir : Bool) (st : RoundSt) : Round := ⟨5, 0, 7, none, shape0 dir, 0x3000, 0, 0, st, false, 0, [], none, [], none⟩
/-- Core 0 may access the first pages, slot 15 is bound with these rounds, entry 63 is the record and bobbin 31 fits it. -/
def streaming (dir : Bool) (rs : List Round) : State := (putB (withG [(2, 7), (3, 0x3000), (4, 8)]) 31 { bob 0x4000 512 .empty 0 0 with bkind := 2 }).modMe fun c => { c with
  plb := wr c.plb (0 : BitVec 4) 0x80001C0000000000, shapes := wr c.shapes (63 : BitVec 6) (some (shape0 dir)),
  bobbins := wr c.bobbins (30 : BitVec 5) (bob 0x5000 64 .empty 0 0),
  streams := wr c.streams (15 : BitVec 4) ⟨.bound, 63, if dir then none else some 31, 0, shape0 dir, rs, (0, 4)⟩ }
theorem witness_SpindlesAndRounds :
    let s := streaming false []
    let w := streaming true []
    let q := streaming false [round0 false .queued]
    let f := streaming false [round0 false .faulted]
    let b := s.modMe fun c => { c with streams := wr c.streams (15 : BitVec 4) { c.stream 15 with st := .binding } }
    let packed : State := b.setBrick 0 { b.brick 0 with spindles := (List.range 256).map fun i => (i, 1, 0) }
    (s.me.shape 63 = some (shape0 false) ∧ (s.me.stream 0).st = .free ∧ (shape0 false).valid = true ∧ (shape0 false).dir = false ∧ (s.me.bobbin 30).valid = true ∧
      (s.me.bobbin 30).st = .empty ∧ (s.me.bobbin 30).bkind = 0 ∧ (shape0 false).bytes ≤ (s.me.bobbin 30).size.toNat ∧ (s.me.bobbin 30).fmt = (shape0 false).fmt) ∧
    ((shape0 true).valid = true ∧ (shape0 true).dir = true) ∧ (s.me.stream 15).st = .bound ∧ ((s.me.stream 0).st ≠ .bound ∧ s.me.shape 0 = none) ∧
    (((b.core 0).stream 15).st = .binding ∧ ((b.core 0).stream 15).shape.brick.toNat = 0 ∧ ((b.brick 0).spindles.map Prod.fst).contains 0 = false) ∧
    ((packed.core 0).stream 15).st = .binding ∧ (packed.brick 0).spindles.map Prod.fst = List.range 256 ∧
    ((s.me.stream 15).rounds = [] ∧ (s.me.stream 0).st ≠ .bound ∧ (q.me.stream 15).rounds ≠ []) ∧
    (({ shape0 false with base := (s.p 4).truncate 57 } : Shape).valid = true ∧ ({ shape0 false with base := (s.p 2).truncate 57 } : Shape).valid = false) ∧
    ((∀ j, (s.me.strand j).run ≠ .waiting ∧ (s.me.strand j).hold = .none) ∧ s.me.frozen = false ∧ (s.g 2).toNat < (shape0 false).count ∧ (shape0 false).count ≤ (s.g 4).toNat ∧
      (shape0 false).bytes ≤ (s.me.bobbin 31).size.toNat ∧ s.me.plbCheck 0 ((shape0 false).intervals 7) = none ∧ s.me.tagFree 7 = true ∧ (s.me.bobbin 31).st = .empty ∧
      ((s.g 2).toNat < 128 ∧ (s.g 2).toNat ≠ 64 + 7)) ∧
    ((w.g 3).toNat % 65536 % 8 = 0 ∧ (w.g 3).toNat / 65536 % 2 = 0 ∧ w.me.checkRead 0x3000 64 = none ∧ (shape0 true).blk = false ∧
      w.me.plbCheck 1 ((shape0 true).intervals 7) = none) ∧
    (s.me.roundOf 7 = none ∧ s.holderOf 0 7 = none) ∧ (q.me.roundOf 7 = some (15, round0 false .queued) ∧ q.st.frozen = false) ∧
    f.me.roundOf 7 = some (15, round0 false .faulted) := by decide +kernel
theorem witness_RoundProgress :
    let r := round0 false .running
    let s := streaming false [r]
    let p : EdgeReq := ⟨3, 0, 0, 0, false, .unit 15 5 1, [⟨0, 8, 0, List.replicate 8 1⟩, ⟨8, 8, 0, List.replicate 8 2⟩, ⟨16, 8, 0, List.replicate 8 2⟩, ⟨24, 8, 0, List.replicate 8 2⟩], .back, 0, none, 0, false⟩
    let u : State := { streaming false [{ r with next := 2, landed := [0] }] with reqs := [p] }
    ((s.core 0).stream 15).rounds = r :: [] ∧ ((s.core 0).stream 15).st = .bound ∧ r.st = .running ∧ (s.core 0).frozen = false ∧ r.next < r.shape.units ∧
    (round0 false .queued).st ≠ .running ∧ r.shape.dir = false ∧ (((s.core 0).bobbin 31).st = .empty ∧ ((s.core 0).stream 15).bob = some 31) ∧
    (r.next = 0 ∧ (((putB s 31 (bob 0x4000 512 .full 0 0)).core 0).bobbin 31).st ≠ .empty) ∧
    (let w := round0 true .running
     w.shape.dir = true ∧ w.shape.xp = false ∧ w.shape.blk = false ∧ (w.kept.find? fun c => c.1 == w.next) = none ∧
     ({ w with kept := [(0, [])] }.kept.find? fun c => c.1 == w.next) = some (0, []) ∧ w.next < w.shape.units ∧
     (let c := (streaming true [w]).core 0
      (c.stream 15).rounds = w :: [] ∧ c.dataQ = [] ∧ c.latom = none ∧ c.ueAt 0x3000 32 = none ∧ (({ c with ue := [0x3008] } : Core).ueAt 0x3000 32).isSome = true ∧
      ({ c with dataQ := [[0]] } : Core).dataQ ≠ [] ∧ w.next ≤ w.done ∧ w.shape.unitBytes = 32 ∧ w.shape.bytes = 64 ∧
      w.done < 1 ∧ 1 < w.shape.units ∧ c.ueAt 0x3020 32 = none)) ∧
    (((putB u 31 (bob 0x4000 512 .full 0 0)).core 0).bobbin 31).st = .full ∧
    (u.req 3 = some p ∧ ((u.core 0).stream 15).rounds = { r with next := 2, landed := [0] } :: [] ∧ p.core = 0 ∧ p.stage = .back ∧ p.fault = none ∧ r.fault = none ∧
      ((u.core 0).bobbin 31).st = .empty ∧ r.st = .running ∧ (∀ j, ((u.core 0).strand j).run ≠ .waiting ∧ ((u.core 0).strand j).hold = .none) ∧ ((u.core 0).stream 15).bob = some 31 ∧ r.shape.dir = false ∧ r.shape.xp = false ∧
      (if ((u.core 0).bobbin 31).st = .empty then r.shape.swz else ((u.core 0).bobbin 31).swz) ≠ 1 ∧ Memory.wf (u.core 0).sram = true ∧ r.shape.blk = false ∧
      1 < r.shape.units ∧ p.bytes.length = min r.shape.unitBytes (r.shape.bytes - 1 * r.shape.unitBytes) ∧ p.bytes.length ≤ 65536 ∧
      Round.done { r with next := 2, landed := [1, 0] } = r.shape.units ∧ Round.done { r with next := 2, landed := [0] } ≠ r.shape.units) := by decide +kernel
/-- Brick 0 has a device of 1 GiB and a translation of its first 2 MiB; the requests stand. -/
def edgeState (rs : List EdgeReq) : State :=
  let s := withG [(2, 0x1008), (4, 0x1001), (6, 0x100), (8, 0x1000), (10, 0x100)]
  let s := (putB s 31 (bob 0x4000 512 .empty 0 0)).modMe fun c => { c with
    plb := wr c.plb (0 : BitVec 4) 0x80001C0000000000, bobbins := wr c.bobbins (30 : BitVec 5) { bob 0x5000 64 .filling 16 0 with fmt := 1 } }
  let b := s.brick 0
  { s.setBrick 0 { b with cxl := wr b.cxl (0 : BitVec 2) ⟨2, false, 16, false, false, gib⟩, tlb := [⟨0, 0, 21, true, true, false⟩] } with reqs := rs }
/-- A request of core 0's strand 0. -/
def req0 (write : Bool) (op : EdgeOp) (ps : List Piece) (st : Stage) (f : Option (BitVec 8 × BitVec 2 × Dword)) : EdgeReq :=
  ⟨3, 0, 0, 0, write, op, ps, st, 0, f, 0, false⟩
theorem witness_SmallTransfers :
    let s := edgeState []
    let r := fun (q : EdgeReq) => edgeState [q]
    let eld := req0 false (.eld 31 0 16 false true 7) [⟨0, 8, 0, List.replicate 8 1⟩, ⟨8, 8, 0, List.replicate 8 2⟩] .back none
    let est := req0 true (.est 7) [⟨0, 8, 0, []⟩] .back none
    let wat := fun (c : Dword) => req0 false (.ewatch c 7) [⟨0x1000, 8, 0x1000, []⟩] .toHome none
    ((s.p 8).toNat % (8 * 2 ^ (3 : BitVec 2).toNat) = 0 ∧ (s.me.bobbin 31).valid = true ∧ (s.me.bobbin 31).bkind = 0 ∧ (s.me.bobbin 31).st = .empty ∧
      (s.reserved 0 31).2 = false ∧ (s.me.bobbin 31).fill.toNat + (s.reserved 0 31).1 + 64 ≤ (s.me.bobbin 31).size.toNat ∧ isB (s.me.bobbin 31).fmt = false ∧
      s.me.plbCheck 0 [byteRange (s.p 8) 64] = none ∧ s.me.tagFree 7 = true ∧ (putTag s 7 tagBad).me.tagFree 7 = false) ∧
    (s.p 4).toNat % 8 ≠ 0 ∧ (s.p 4).toNat % 4 ≠ 0 ∧ ((s.p 2).toNat % 8 = 0 ∧ (s.p (2 + 2)).toNat % 2 ≠ 0) ∧
    ((s.p 8).toNat % 8 = 0 ∧ (s.p (8 + 2)).toNat % 2 = 0 ∧ (s.me.bobbin 30).valid = true ∧ (s.me.bobbin 30).bkind = 0 ∧ (s.me.bobbin 30).st = .filling ∧
      (s.me.bobbin 30).fill.toNat + (s.reserved 0 30).1 + 2 * mw 1 ≤ (s.me.bobbin 30).size.toNat ∧ isB (s.me.bobbin 30).fmt = true ∧
      s.me.plbCheck 0 [byteRange (s.p 8) (2 * mw 1), byteRange (s.p 10) 2] = none ∧ s.me.plbCheck 1 [byteRange (s.p 8) (2 * mw 0), byteRange (s.p 10) 2] = none) ∧
    ((s.p 2).toNat % 8 = 0 ∧ s.me.plbCheck 1 [byteRange (s.p 2) 8] = none ∧ s.me.plbCheck 0 [byteRange (s.p 2) 8] = none) ∧
    (∀ j, (((r est).core 0).strand j).run ≠ .waiting ∧ (((r est).core 0).strand j).hold = .none) ∧
    ((r eld).req 3 = some eld ∧ eld.stage = .back ∧ eld.landed = false ∧ eld.fault = none ∧ 0 = (((r eld).core 0).bobbin 31).fill.toNat ∧ 0 + 16 < 65536 ∧
      (∀ z, z ∈ (r eld).reqs → z.landed = false ∧ (z.id = 3 → z = eld)) ∧ (((r eld).core 0).bobbin 31).st = .empty ∧ (((r eld).core 0).bobbin 31).ften = false ∧ Memory.wf ((r eld).core 0).sram = true ∧ 16 ≤ eld.bytes.length) ∧
    ((r est).req 3 = some est ∧ est.op = .est 7 ∧ est.stage = .back ∧ est.fault = none ∧ (req0 true (.est 7) [] .back (some (0x1A, 3, 8))).fault.isSome = true) ∧
    ((r (wat 1)).req 3 = some (wat 1) ∧ (wat 1).stage = .toHome ∧ (r (wat 1)).home 0x1000 = some 0 ∧ (r (wat 1)).devRead 0x1000 8 = some (List.replicate 8 0) ∧
      ((r (wat 1)).brick 0).watches.length < 256 ∧ BitVec.ofNat 64 (ofBytes (List.replicate 8 0)) ≠ 1) := by decide +kernel
theorem witness_AtomicsAndFences :
    let s := edgeState []
    let a := req0 true (.atomic 0 true true false 1 0 4 0) [⟨0, 8, 0, []⟩] .back none
    let w := (edgeState [a]).modSt fun t => { t with edgeIds := [3], fences := [[], [3]] }
    ((s.p 2).toNat % 8 = 0 ∧ s.me.plbCheck 2 [byteRange (s.p 2) 8] = none ∧ s.me.plbCheck 2 [byteRange (s.p 2) 4] = none) ∧ (s.p 4).toNat % 4 ≠ 0 ∧
    (w.req 3 = some a ∧ a.op = .atomic 0 true true false 1 0 4 0 ∧ a.stage = .back ∧ a.fault = none ∧ (4 : BitVec 4).toNat % 2 = 0) ∧
    ({ a with fault := some (0x19, 0, 0) } : EdgeReq).fault ≠ none ∧ ({ a with op := .atomic 0 true false false 1 0 4 0 } : EdgeReq).op = .atomic 0 true false false 1 0 4 0 ∧
    s.st.edgeIds = [] ∧ w.st.edgeIds ≠ [] := by decide +kernel
theorem witness_RequestsAtBricks :
    let p : Piece := ⟨0x1000, 8, 0x1000, List.replicate 8 5⟩
    let far : Piece := ⟨2 ^ 40, 8, 2 ^ 40, []⟩
    let at_ := fun (w : Bool) (op : EdgeOp) (p : Piece) (st : Stage) => edgeState [req0 w op [p] st none]
    let sc : EdgeOp := .atomic 0 true true true 1 0 4 0
    let line : Line := ⟨64, List.replicate 64 1, true, 0⟩
    let held : State := { start.setBrick 0 { start.brick 0 with lines := [line] } with time := 54614 }
    let host : State := (edgeState []).setBrick 1 { (edgeState []).brick 1 with cxl := wr ((edgeState []).brick 1).cxl (0 : BitVec 2) ⟨2, true, 16, false, false, 0⟩ }
    let x := (at_ true (.est 7) p .toBrick).translatePieces 0 true [p]
    (∀ r : EdgeReq, (edgeState [r]).reqs = [r]) ∧
    ((at_ true (.est 7) p .toBrick).req 3 = some (req0 true (.est 7) [p] .toBrick none) ∧ x.fault = none ∧ x.done.all (fun p => (x.s.home p.pa).isSome) = true ∧
      ((at_ true (.est 7) far .toBrick).translatePieces 0 true [far]).fault.isSome = true) ∧
    ((at_ true sc p .toBrick).mgmt.takeover = false ∧ ((at_ true sc p .toBrick).translatePieces 0 true [p]).fault = none ∧
      ({ (at_ true sc p .toBrick) with mgmt := { start.mgmt with takeover := true } } : State).mgmt.takeover = true) ∧
    (((at_ true sc p .toBrick).translatePieces 0 true [p]).done.all (fun q => (((at_ true sc p .toBrick).translatePieces 0 true [p]).s.home q.pa).isSome) = true ∧
      ((at_ true sc far .toBrick).translatePieces 0 true [far]).fault.isSome = true ∧
      (at_ true sc p .unannounced).req 3 = some (req0 true sc [p] .unannounced none)) ∧
    ((req0 true (.est 7) [p] .back none).stage ≠ .toBrick ∧ (req0 true (.est 7) [p] .back none).stage ≠ .unannounced) ∧
    ((at_ false (.unit 15 5 1) p .toHome).devRead 0x1000 8 ≠ none ∧ (at_ false (.unit 15 5 1) far .toHome).devRead (2 ^ 40) 8 = none) ∧
    ((at_ true (.est 7) p .toHome).home p.pa = some 0 ∧ ((at_ true (.est 7) p .toHome).brick 0).line p.pa = none ∧ Memory.wf (at_ true (.est 7) p .toHome).edge = true) ∧
    (p.pa % 8 = 0 ∧ (∀ i, i < 8 → (at_ true (.atomic 0 true true false 1 0 4 0) p .toHome).home (p.pa + i) = some 0) ∧
      (at_ true (.atomic 0 true true false 1 0 4 0) p .toHome).devRead p.pa 8 ≠ none ∧ ((at_ true (.atomic 0 true true false 1 0 4 0) p .toHome).brick 0).lines = []) ∧
    (start.time < 64 * (0 + 9) ∧ 64 * (0 + 9) ≤ ({ start with time := 576 } : State).time ∧
      (at_ true sc p (.announced 1)).home p.pa = some 0 ∧ (1 : Nat) < 2) ∧
    ((held.brick 0).line (64 * 1) = some line ∧ 5 * 65536 ≤ 6 * (held.time - line.last) ∧ line.dirty = true ∧ line.data.length = 64 ∧ Memory.wf held.edge = true ∧
      6 * (54613 - line.last) < 5 * 65536) ∧
    (start.hostPort 1 = false ∧ host.hostPort 1 = true ∧ host.home 0x103F = some 0 ∧ [(1 : Byte)] ≠ [] ∧ 0x103F % 64 + [(1 : Byte)].length ≤ 64 ∧
      (host.brick 0).lines = [] ∧ Memory.wf host.edge = true) := by
  refine ⟨fun r => rfl, ?_⟩
  decide +kernel
/-- Where brick 0 is the only brick listed, every other brick is as at reset. -/
theorem brick_other (s : State) (h : s.bricks.map Prod.fst = [0]) {b : Nat} (hb : b ≠ 0) : s.brick b = Brick.reset := by
  unfold State.brick
  match e : s.bricks with
  | [] => rw [e] at h; exact absurd h (by simp)
  | x :: t =>
    rw [e] at h
    simp only [List.map_cons, List.cons.injEq, List.map_eq_nil_iff] at h
    simp only [lookup, h.1, h.2, if_neg (Ne.symm hb)]
theorem witness_RequestsAtBricks_watches : ∀ k, ((edgeState []).brick k).watches = [] := by
  intro k
  by_cases h : k = 0
  · subst h; decide +kernel
  · rw [brick_other _ (by decide +kernel) h]; rfl
theorem witness_RequestsAtBricks_fires :
    let p : Piece := ⟨0x1000, 8, 0x1000, List.replicate 8 5⟩
    let q := req0 true (.est 7) [p] .toHome none
    let far := req0 true (.est 7) [{ p with pa := 0x2000 }] .toHome none
    let z : EdgeReq := ⟨9, 0, 1, 0, false, .ewatch 0 5, [⟨0x1000, 8, 0x1000, []⟩], .armed, 0, none, 0, false⟩
    let w : Watch := ⟨9, 0, 5, 0x1000, 0⟩
    let s := fun (q : EdgeReq) => (edgeState [q, z]).setBrick 0 { (edgeState []).brick 0 with watches := [w] }
    let word := fun (q : EdgeReq) (p : Piece) => ofBytes ((List.range 8).map fun i =>
      if p.pa ≤ w.pa + i ∧ w.pa + i < p.pa + p.data.length then p.data.getD (w.pa + i - p.pa) 0 else Memory.get (s q).edge (w.pa + i))
    ((s q).req 3 = some q ∧ q.stage = .toHome ∧ q.write = true ∧ q.op = .est 7 ∧ q.pieces = [p] ∧ (s q).home p.pa = some 0 ∧ ((s q).brick 0).line p.pa = none ∧
      p.pa % 64 + p.data.length ≤ 64 ∧ Memory.wf (s q).edge = true ∧ ((s q).brick 0).watches = [w] ∧ w.pa % 8 = 0 ∧
      (∀ i, i < 8 → (s q).home (w.pa + i) = some 0) ∧ (s q).req w.id = some z ∧ z.stage = .armed ∧ (∀ j, (((s q).core z.core).strand j).run ≠ .waiting)) ∧
    (w.pa < p.pa + p.data.length ∧ p.pa < w.pa + 8 ∧ word q p ≠ w.cmp.toNat) ∧
    ((s far).req 3 = some far ∧ (s far).home 0x2000 = some 0 ∧ w.pa + 8 ≤ 0x2000) := by decide +kernel
theorem witness_RequestsAtBricks_windows :
    let p : Piece := ⟨0x1000, 8, 0x1000, List.replicate 8 5⟩
    let sc : EdgeOp := .atomic 0 true true true 1 0 4 0
    let one := fun (st : Stage) => edgeState [req0 true sc [p] st none]
    let many : State := { one .unannounced with reqs := List.replicate 64 { req0 true sc [p] (.announced 0) none with id := 7 } ++ [req0 true sc [p] .unannounced none] }
    let open_ := fun (s : State) => (s.reqs.filter fun r => r.brick == 0 && r.stage == .announced (s.time / 64)).length
    let ahead := fun (s : State) => (s.reqs.takeWhile fun r => r.id != 3).any fun r => r.brick == 0 && r.stage == .unannounced
    ((one .toBrick).mgmt.takeover = false ∧ open_ (one .toBrick) < 64 ∧ ahead (one .toBrick) = false ∧ (one .toBrick).req 3 = some (req0 true sc [p] .toBrick none)) ∧
    (open_ (one .unannounced) < 64 ∧ ahead (one .unannounced) = false) ∧ (64 ≤ open_ many ∧ many.req 3 = some (req0 true sc [p] .unannounced none)) ∧
    (let two : State := { one .unannounced with reqs := [{ req0 true sc [p] .unannounced none with id := 7 }, req0 true sc [p] .unannounced none] }
     ahead two = true ∧ two.req 3 = some (req0 true sc [p] .unannounced none)) := by decide +kernel
theorem witness_HubInstructions :
    let s := withG [(1, 0xFFF8), (2, 0xFFFC), (3, 0x20001), (4, 5)]
    let h := s.modSt fun t => { t with edgeIds := [3], rel := [⟨31, 2, true, []⟩] }
    let f : State := { h with reqs := [{ req0 true (.est 7) [] .held (some (0x1A, 3, 8)) with id := 3 }] }
    let rep := fun (y : Strand → Strand) (r : HubRep) => ({ s.modSt y with hubReps := [(0, 0, r)] } : State)
    ((s.g 1).toNat % 65536 % 8 = 0 ∧ (s.g 2).toNat % 65536 % 4 = 0) ∧ (s.g 2).toNat % 65536 % 8 ≠ 0 ∧ (s.st.edgeIds = [] ∧ h.st.edgeIds ≠ []) ∧
    (h.heldFault 0 [3] = none ∧ (f.heldFault 0 [3]).isSome = true) ∧ ((h.st.rel.filter fun x => x.ids.isEmpty) = [] ++ ⟨31, 2, true, []⟩ :: [] ∧ s.st.rel = []) ∧
    ((s.g 0).toNat % 8 < 5 ∧ (s.g 0).toNat / 2 ^ 17 = 0) ∧ (5 ≤ (s.g 4).toNat % 8 ∧ (s.g 3).toNat / 2 ^ 17 ≠ 0) ∧
    (rep id (.value 4 false 7 true)).hubReps = (0, 0, .value 4 false 7 true) :: [] ∧ (14 : BitVec 4).toNat % 2 = 0 ∧
    ((⟨.g 4, none, false⟩ : Pend) ∈ (rep (fun t => { t with pend := [⟨.g 4, none, false⟩] }) (.value 4 false 7 false)).st.pend) ∧
    (let w := rep (fun t => { t with run := .waiting, wait := .cjoinCount 31 2 false }) (.joined 31 2 1 true)
     w.st.run = .waiting ∧ w.st.wait = .cjoinCount 31 2 false) ∧
    ((rep id .freeze).hubReps = (0, 0, .freeze) :: [] ∧ (rep id .ack).hubReps = (0, 0, .ack) :: [] ∧ (rep id (.fault 7 1)).hubReps = (0, 0, .fault 7 1) :: []) ∧
    (let w := rep (fun t => { t with run := .waiting, wait := .cjoinFire 31 1 }) (.fire 31 1)
     w.st.wait = .cjoinFire 31 1 ∧ w.st.frozen = false) := by decide +kernel
theorem witness_HubActions :
    let q := fun (op : HubOp) => (⟨0, 3, op⟩ : HubReq)
    let u := start.hub 0
    let join := fun (j : Join) => start.setHub 0 { u with joins := wr u.joins (31 : BitVec 5) j }
    let full := (FaultRec.mk 0 0 0 0 none)
    let stopped := start.modSt fun t => { t with run := .stopped, offer := true }
    ({ start with hubReqs := [q (.catom 0 true 0xFFF8 1 0 4)] } : State).hubReqs = q (.catom 0 true 0xFFF8 1 0 4) :: [] ∧ hubOf 0 = 0 ∧ u.ue = [] ∧ Memory.wf u.sram = true ∧
    (∃ e, e ∈ [0xFFF8] ∧ e / 8 = (0xFFFF : Addr).toNat / 8) ∧
    ((rd u.joins (31 : BitVec 5)).count.toNat + 1 < (rd u.joins (31 : BitVec 5)).n.toNat) ∧
    ((rd ((join ⟨1024, 1023, 0, false⟩).hub 0).joins (31 : BitVec 5)).n.toNat ≤ (rd ((join ⟨1024, 1023, 0, false⟩).hub 0).joins (31 : BitVec 5)).count.toNat + 1) ∧
    ((1024 : Word).toNat ≠ 0 ∧ (1024 : Word).toNat ≤ 1024 ∧ (rd u.joins (31 : BitVec 5)).count = 0 ∧ (rd u.joins (31 : BitVec 5)).wait = false ∧
      1024 < (1025 : Word).toNat ∧ (0 : Word).toNat = 0 ∧ (rd ((join ⟨2, 1, 0, true⟩).hub 0).joins (31 : BitVec 5)).count ≠ 0) ∧
    (u.buf.length < 16 ∧ 16 ≤ (List.replicate 16 full).length) ∧ (start.core 0).quiescent = false ∧
    (((stopped.core 0).strand 0).offer = true ∧ ((stopped.core 0).strand 0).offered = 0 ∧ ((stopped.core 0).strand 0).notBefore ≤ (stopped.core 0).cc) ∧
    (let r := { start.core 0 with reports := [full] }
     r.reports = full :: [] ∧ r.offers = 0 ∧ r.reofferAt = none) ∧ (q (.offer full true 1)).op = .offer full true 1 ∧
    (({ u with buf := [full] } : Hub).buf = full :: [] ∧ (start.mgmt.queueOf none).full = true ∧
      ({ start.mgmt with mgq := ⟨0, 4, 1, 3⟩ } : Mgmt).queueOf none = ⟨0, 4, 1, 3⟩ ∧ (⟨0, 4, 1, 3⟩ : QRegs).full = false) ∧ 64 ≤ 64 ∧ 63 < 64 := by decide +kernel
/-- A parameter block of an all-reduce of 32 BF16 groups in group 1 with tag 7, as its bytes. -/
def collBlock : List Byte := toBytes 8 (3 * 64 + 65536) ++ toBytes 8 0 ++ toBytes 8 0x10000 ++ toBytes 8 0 ++ toBytes 8 0x20000 ++ toBytes 8 0 ++ toBytes 8 512 ++ toBytes 8 256 ++ toBytes 8 7
/-- Group 1 has one module with one local rank; the block lies at 0x3000, the tag is t, and the collectives stand. -/
def collState (t : Tag) (cs : List Coll) : State :=
  let s := (putTag (edgeState []) 7 t).modSt fun t => ((t.putG 1 0x3000).putG 2 0x3004).putG 3 0x5000
  let s := s.modMe fun c => c.store 0x3000 collBlock
  { s with colls := cs, mgmt := { s.mgmt with groups := wr s.mgmt.groups (1 : BitVec 8) 0x8000000001000001 } }
/-- Its participant, and the collective at a stage. -/
def collRank : CollPart := collPart 0 none 0 (ofBytes (collBlock ++ List.replicate 56 0))
def coll0 (st : CollSt) (ps : List CollPart) (bs : List CollBrick) : Coll := ⟨2, 1, 0, 1, 0, 1, 0, 0, 0, 0, ps, [], 0, bs, st, 0⟩
theorem witness_CollectiveInstructions :
    let s := collState Tag.reset []
    let w := s.me.load 0x3000 128
    let q := collPart 0 s.me.part 0 w
    let busy : Tag := ⟨.busy, .coll, true, 0, 0, 0⟩
    let c := coll0 .running [collRank] []
    ((s.g 1).toNat % 65536 % 8 = 0 ∧ s.me.readFault 0x3000 128 = none ∧ w / 2 ^ 16 % 256 = 1 ∧ badBlock w q (s.mgmt.group 1) = false ∧
      s.me.plbCheck 0 (q.ranges q.send q.sside (q.elements 1).1) = none ∧ s.me.plbCheck 1 (q.ranges q.recv q.rside (q.elements 1).2) = none ∧ q.tag = 7 ∧
      s.me.tagFree 7 = true ∧ s.colls = [] ∧ (collState tagBad []).me.tagFree 7 = false) ∧
    (let m := coll0 .matching [collRank] []
     let t := collState Tag.reset [m]
     t.colls = [m] ∧ m.group = 1 ∧ m.n = lookup 0 t.me.collCount (64 + q.lidx) ∧ m.st = .matching ∧ collRank.lidx = q.lidx ∧ 0 < nobody ∧ ∀ j, (t.me.strand j).run ≠ .waiting) ∧
    (s.g 2).toNat % 65536 % 8 ≠ 0 ∧ badBlock (s.me.load 0x5000 128) (collPart 0 none 0 (s.me.load 0x5000 128)) (s.mgmt.group 0) = true ∧
    ((collState { busy with st := .faulted, cause := 0x19 } [c]).collOf 0 7 = some c) ∧ ((collState busy [c]).collOf 0 7 = some c ∧ c.st ≠ .failed ∧ c.st ≠ .complete ∧ busy.st ≠ .set) ∧
    ((collState { busy with st := .set } [coll0 .complete [collRank] []]).collOf 0 7 = some (coll0 .complete [collRank] [])) ∧ s.collOf 0 7 = none ∧
    (let x := { coll0 .failed [collRank] [] with sub := 4 }
     (collState busy [x]).collOf 0 7 = some x ∧ x.st = .failed ∧ x.sub = 4 ∧ ({ x with sub := 2 } : Coll).sub ≠ 4 ∧
       (collState busy [{ x with sub := 2 }]).collOf 0 7 = some { x with sub := 2 }) ∧
    ((s.me.tag 7).st = .idle ∧ tagBad.holder ≠ .coll) ∧ ((collState busy []).st.frozen = false ∧ ((collState busy []).me.tag 7).holder = .coll) := by decide +kernel
theorem witness_CollectiveProgress :
    let busy : Tag := ⟨.busy, .coll, true, 0, 0, 0⟩
    let c := fun st ps bs => coll0 st ps bs
    let s := fun (x : Coll) => collState busy [x]
    let one := fun (k : CollBrick) => c .running [collRank] [k]
    let k : CollBrick := ⟨0, 0, 0, 0, 0, 0, 0, 0, [], none⟩
    let w : CollBrick := ⟨0, 1, 0, 0, 0, 0, 0, 0, [(0, (0, []))], none⟩
    let other := { collRank with op := 1 }
    let last : CollBrick := { w with write := 1 }
    (∀ x : Coll, x.id = 2 → (s x).coll x.id = some x) ∧ (c .matching [] []).parts.length < (c .matching [] []).localN ∧
    ((c .matching [collRank] []).localN ≤ [collRank].length ∧ (c .matching [collRank] []).gsize ≤ 1 ∧ collRank.agrees (c .matching [collRank] []).lead = true) ∧
    (c .waiting [collRank] []).st = .waiting ∧
    (let eight : State := { collState busy [] with colls := c .waiting [collRank] [] :: (List.range 8).map fun i => { c .running [] [] with id := 10 + i, slot := i } }
     let taken := eight.colls.filter fun x => x.st == .matched || x.st == .running || x.st == .aborting
     eight.coll 2 = some (c .waiting [collRank] []) ∧ (List.range 8).all (fun i => taken.any fun x => x.slot == i) = true ∧
       eight.colls.all (fun x => x.id == 2 || x.st == .running) = true) ∧
    other.agrees (c .matching [collRank, other] []).lead = false ∧
    ((one k).bricks.find? (fun x => x.brick == 0) = some k ∧ k.halted = none ∧ { k with halted := some (0, 7) }.halted ≠ none) ∧
    (groupCount ((one k).readRanges 0) = 1 ∧ (one k).chunksOf ((one k).readRanges 0) = 1 ∧ chunkGroups ((one k).readRanges 0) (one k).per 0 = [0] ∧
      k.ready (chunkGroups ((one k).writeRanges 0) (one k).per 0) 0 = false ∧ 1 ≤ { k with read := 1 }.read) ∧
    (((s (one k)).reduceGroup (one k) 0 0).2.toOption.isSome = true ∧ ((s (one k)).reduceGroup (one k) 0 0).1.colls = [one k]) ∧
    (let bad := { collRank with send := 2 ^ 40 }
     let x := c .running [bad] [k]
     ((s x).reduceGroup x 0 0).2.toOption = none ∧ ((s x).reduceGroup x 0 0).1.colls = [x] ∧ (∀ j, ((((s x).reduceGroup x 0 0).1.core 0).strand j).run ≠ .waiting) ∧
     bad.core < nobody ∧ ((((s x).reduceGroup x 0 0).1.core 0).tag 7).holder = .coll) ∧
    (w.write < (one w).chunksOf ((one w).writeRanges 0) ∧ w.ready (chunkGroups ((one w).writeRanges 0) (one w).per 0) 0 = true ∧
      chunkGroups ((one w).writeRanges 0) (one w).per 0 = [0] ∧
      ((s (one w)).deliverGroup (one w) 0 0 []).2 = none ∧ ((s (one w)).deliverGroup (one w) 0 0 []).1.colls = [one w]) ∧
    ((∀ x, x ∈ (one last).bricks → (one last).brickDone x = true) ∧ (one k).brickDone k = false ∧ (((s (one last)).core 0).tag 7).holder = .coll) ∧
    (c .aborting [collRank] []).st = .aborting ∧ ∀ b, b < 32 → ∀ p, p < 6 → ((s (one k)).port b p).got = [] := by
  refine ⟨fun x h => ?_, by decide +kernel⟩
  show [x].find? _ = _
  simp
/-- A collective of two modules on a ring: its SUCC port is 0 and its PRED port 1, on every brick, as these ports stand. -/
def ring (st : CollSt) (bs : List CollBrick) : Coll := { coll0 st [collRank] bs with gsize := 2, succ := 1, pred := 2 }
def ringState (x : Coll) (f : Nirber) : State :=
  { collState ⟨.busy, .coll, true, 0, 0, 0⟩ [x] with bricks := (List.range 32).map fun b => (b, { Brick.reset with ports := Vector.replicate 6 f }) }
theorem witness_CollectiveProgress_ring :
    let up : Nirber := { Nirber.reset with st := 2 }
    let k : CollBrick := ⟨1, 0, 0, 0, 0, 0, 0, 0, [(0, (0, [])), (16, (0, List.replicate 64 0))], none⟩
    let r := { k with send := 2 }
    let f : NFlit := ⟨1, 0, 0, BitVec.ofNat 32 (2 ^ 13 + 2 ^ 25 * 2), List.replicate 64 0⟩
    let x := fun (k : CollBrick) => ring .running [k]
    let s := ringState (x k) up
    (1 < (ring .matching []).gsize ∧ (ring .matching []).localN ≤ (ring .matching []).parts.length) ∧
    ((∀ b, b < 32 → s.upPorts b 1 ≠ [] ∧ s.upPorts b 2 ≠ []) ∧ (ringState (x k) Nirber.reset).allDown 0 1 = true) ∧
    ((x k).bricks.find? (fun y => y.brick == 1) = some k ∧ s.upPorts 1 1 = [0] ∧ s.upPorts 1 2 = [1] ∧ s.allDown 1 1 = false ∧ s.allDown 1 2 = false) ∧
    ((x k).toSend k = some (2, 1, [16]) ∧ (x k).flits [16] = 1 ∧ k.ready [16] 0 = true ∧ (s.port 1 0).replayBuf.length < 512 ∧ k.sFlit = 0) ∧
    ((x r).toSend r = none ∧ (x r).toRecv r = some (2, 1, [0]) ∧ r.ready [0] 0 = true ∧
      ((ringState (x r) { up with got := [f] }).port 1 1).got = f :: [] ∧ f.type = 1 ∧ f.failure = 0 ∧ f.index = 0 ∧
      f.stream = BitVec.ofNat 32 (r.rChunk % 2 ^ 13 + 2 ^ 13 * (1 % 2 ^ 12) + 2 ^ 25 * (2 % 4) + 2 ^ 27 * (x r).peer) ∧
      (2 : BitVec 6).getLsbD 1 = true ∧ ∀ q, q < 6 → (2 : BitVec 6).getLsbD q = true → q = 1) := by decide +kernel
theorem witness_CollectiveProgress_matched :
    let up : Nirber := { Nirber.reset with st := 2 }
    let c := ring .matched []
    let tells := fun (y : Coll) => (⟨5, 0, 0, 0, ({ y with mrank := 1 } : Coll).matchBytes⟩ : NFlit)
    let s := fun (l : List NFlit) => ringState c { up with got := l }
    let sees := fun (y : Coll) (p : Nat) => ((s [tells y]).port 31 p).matchOf c.group
    let late := { c with parts := [{ collRank with op := 1 }] }
    (c.localN ≤ c.parts.length ∧ c.st = .matched ∧ (s []).upPorts 31 (c.succ ||| c.pred) = [0, 1] ∧ ((s []).port 31 1).matchOf c.group = none) ∧
    (sees c 0 = some (tells c) ∧ sees c 1 = some (tells c) ∧ c.mismatch (tells c) 0 = 0 ∧ c.mismatch (tells c) 1 = 0 ∧ (tells c).failure = 0) ∧
    (sees late 0 = some (tells late) ∧ c.mismatch (tells late) 0 = 2 ∧ c.mismatch (tells late) 1 = 2) ∧
    (c.mismatch (tells { c with n := 1 }) 0 = 6 ∧ c.mismatch (tells { c with n := 1 }) 1 = 6) := by decide +kernel
/-- Where core 0 is the only core listed, every other core is as at reset but for its domain's cycle count. -/
theorem core_other (s : State) (h : s.cores.map Prod.fst = [0]) {l : Nat} (hl : l ≠ 0) : s.core l = { Core.reset with cc := s.dcyc (domainOf l) } := by
  unfold State.core
  match e : s.cores with
  | [] => rw [e] at h; exact absurd h (by simp)
  | x :: t =>
    rw [e] at h
    simp only [List.map_cons, List.cons.injEq, List.map_eq_nil_iff] at h
    simp only [lookup, h.1, h.2, if_neg (Ne.symm hl)]
theorem witness_CollectiveProgress_no_wait : ∀ l j, (((collState ⟨.busy, .coll, true, 0, 0, 0⟩ []).core l).strand j).run ≠ .waiting := by
  intro l
  by_cases h : l = 0
  · subst h; decide +kernel
  · rw [core_other _ (by decide +kernel) h]; exact (by decide +kernel : ∀ j, (Core.reset.strand j).run ≠ .waiting)
/-- Port 5 of brick 31 is x. -/
def portState (x : Nirber) (t : Nat) : State := { start.modPort 31 5 fun _ => x with time := t }
/-- A flit of 256 bytes that begins with h, with its CRC. -/
def flit (h : List Byte) : List Byte :=
  (h ++ List.replicate (248 - h.length) 0) ++ toBytes 8 (crc64 (h ++ List.replicate (248 - h.length) 0)).toNat
theorem toBytes_length : ∀ n v, (toBytes n v).length = n
  | 0, _ => rfl
  | n + 1, v => congrArg (· + 1) (toBytes_length n (v / 256))
theorem ofBytes_toBytes : ∀ n v, v < 256 ^ n → ofBytes (toBytes n v) = v
  | 0, v, h => by simp at h; simp [toBytes, ofBytes, h]
  | n + 1, v, h => by
    rw [toBytes, ofBytes, ofBytes_toBytes n (v / 256) (Nat.div_lt_of_lt_mul (by rw [Nat.pow_succ] at h; omega)), BitVec.toNat_ofNat]
    omega
theorem flit_good (h : List Byte) (hl : h.length ≤ 248) :
    (flit h).length = 256 ∧ crc64 ((flit h).take 248) = BitVec.ofNat 64 (ofBytes (((flit h).drop 248).take 8)) := by
  have l : (h ++ List.replicate (248 - h.length) 0).length = 248 := by simp; omega
  unfold flit
  rw [List.length_append, l, toBytes_length, List.take_append_of_le_length (Nat.le_of_eq l.symm), List.take_of_length_le (Nat.le_of_eq l),
    List.drop_append_of_le_length (Nat.le_of_eq l.symm), List.drop_of_length_le (Nat.le_of_eq l), List.nil_append,
    List.take_of_length_le (Nat.le_of_eq (toBytes_length 8 _)), ofBytes_toBytes 8 _ (BitVec.isLt _)]
  exact ⟨rfl, by simp⟩
theorem witness_NirberLinks :
    let up : Nirber := { Nirber.reset with st := 2, recvSeq := 5, replayBuf := [(⟨1, 4, 0, 0, []⟩, 0)] }
    let due := portState up 2000
    (31 < 32 ∧ 5 < 6 ∧ (start.port 31 5).st ≠ 2 ∧ due.port 31 5 = up ∧ up.st = 2) ∧
    ([0x02, 0x40, 0x00] : List Byte).length ≤ 248 ∧
    ((NFlit.ofBytes (flit [0x51, 0x00])).type = 1 ∧ (NFlit.ofBytes (flit [0x51, 0x00])).seq = 5) ∧ (NFlit.ofBytes (flit [0x61, 0x00])).seq ≠ 5 ∧
    (NFlit.ofBytes (flit [0x02, 0x40, 0x00])).type = 2 ∧ (NFlit.ofBytes (flit [0x03])).type = 3 ∧ (NFlit.ofBytes (flit [0x05])).type = 5 ∧
    ¬ (256 ≤ ([] : List Byte).length) ∧
    (up.replayBuf.any (fun e => decide (e.2 + 2000 ≤ due.time)) = true ∧ up.replayBuf.any (fun e => decide (e.2 + 2000 ≤ (portState up 1999).time)) = false) ∧
    (16 ≤ { up with replays := 16 }.replays ∧ { up with replays := 15 }.replays < 16) ∧
    ({ up with st := 3 }.st = 3 ∧ up.retrainAt + 10000000 ≤ (portState up 10000000).time ∧ (portState up 9999999).time < up.retrainAt + 10000000) ∧
    (let over_ := { up with skip := [(0, 0, 0)] }
     (over_.skip.find? fun e => (NFlit.ofBytes (flit [0x51, 0x00])).stream.toNat / 2 ^ 27 == e.2.2) = some (0, 0, 0) ∧
       (over_.skip.find? fun e => (NFlit.ofBytes (flit [0x05])).group == e.1 && (NFlit.ofBytes (flit [0x05])).number == e.2.1) = some (0, 0, 0) ∧ up.skip = []) ∧
    (let c := { ring .running [] with succ := 3 }
     let e : NFlit × Nat := (⟨1, 0, 0, 0, []⟩, 0)
     let s := (ringState c { Nirber.reset with st := 2 }).modPort 0 0 fun x => { x with st := 0, replayBuf := [e] }
     (s.port 0 0).st = 0 ∧ (s.port 0 0).replayBuf = [e] ∧ s.colls = [c] ∧ c.slot = e.1.stream.toNat / 2 ^ 27 ∧ c.succ.getLsbD 0 = true ∧
       s.upPorts 0 c.succ = [1] ∧ (s.port 0 1).replayBuf.length < 512) ∧
    ({ up with st := 1 }.st = 1 ∧ (4 : Nat).testBit 8 = false ∧ 4 ≤ 4 % 16) ∧ (3 % 16 < 4 ∧ (0x108 : Nat).testBit 8 = true) ∧ ({ up with st := 0 }.st ≠ 1 ∧ { up with st := 0 }.st ≠ 3) := by
  decide +kernel
theorem witness_Declarations :
    let d := fun (st : DeclSt) => (⟨st, 3, 2, 0, some 64⟩ : Decl)
    let s := fun (t : Strand → Strand) (z : Domain → Domain) (cc : Nat) =>
      let u := ((withG [(1, 0x0002F010)]).modSt t).modMe fun c => { c with cc := cc }
      u.setDomain 0 (z (u.domain 0))
    let r : Charge := ⟨0, 0, 4, 0, 3⟩
    let one := fun (l : List Charge) => ({ s (fun t => { t with decl := { d .requested with start := none } }) (fun z => { z with requests := l }) 0 with cycles := [(0, 16)] } : State)
    let a := one [r]
    let b := one [r, { r with core := 1 }]
    let p := s (fun t => { t with phases := [⟨4, 40, 0, some 64⟩], pend := [⟨.g 4, none, false⟩], decl := d .requested }) id 40
    ((s id id 0).g 0).toNat / 65536 = 0 ∧ ((s id id 0).g 1).toNat / 65536 ≠ 0 ∧ (start.domain 0).requests = [] ∧ (d .active).st ≠ .none ∧
    ((b.domain 0).requests = [r, { r with core := 1 }] ∧ r.issued / 16 < b.dcyc 0 / 16 ∧ r.core % 1024 < 1 % 1024 ∧ (b.domain 0).charges = [] ∧
      r.amount ≤ (b.domain 0).admitMax.toNat) ∧
    ((a.domain 0).requests = [r] ∧ r.issued / 16 < a.dcyc 0 / 16 ∧ r.amount ≤ (a.domain 0).admitMax.toNat ∧
      ((a.core 0).strand 0).decl.st = .requested ∧ ((a.core 0).strand 0).decl.issued = r.issued) ∧
    (((p.core 0).strand 0).phases = ⟨4, 40, 0, some 64⟩ :: [] ∧ 40 ≤ (p.core 0).cc ∧ (p.domain 0).requests = [] ∧ (⟨.g 4, none, false⟩ : Pend) ∈ ((p.core 0).strand 0).pend ∧
      ((p.core 0).strand 0).decl.st = .requested) ∧
    ((((s (fun t => { t with phases := [⟨4, 40, 0, some 64⟩] }) id 39).core 0).strand 0).phases = [⟨4, 40, 0, some 64⟩] ∧ 39 < 40) ∧
    ((d .admitted).start = some 64 ∧ 64 ≤ ((s id id 64).core 0).cc + ((s id id 64).core 0).stretched ∧ ((s id id 63).core 0).cc + ((s id id 63).core 0).stretched < 64) ∧
    (64 + 256 * (d .active).length ≤ ((s id id 576).core 0).cc + 0 ∧ ((s id id 575).core 0).cc + 0 < 64 + 256 * (d .active).length) := by decide +kernel
theorem witness_TimeAndPowerEvents :
    let dom := fun (f : Domain → Domain) => (start.setDomain 0 (f (start.domain 0))).domain 0
    let w := fun (x : Wait) => (withSt fun t => { t with run := .waiting, wait := x }).st
    let g := withG [(2, 5)]
    (14 : BitVec 4).toNat % 2 = 0 ∧ (start.p 0).toNat ≤ start.time ∧ g.time < (g.p 2).toNat ∧
    ((w (.timew 5)).run = .waiting ∧ (w (.timew 5)).frozen = false ∧ (w (.timew 5)).wait = .timew 5 ∧ (5 : Dword).toNat ≤ ({ start with time := 5 } : State).time ∧
      start.time < (5 : Dword).toNat) ∧
    (dom id).tokenQ = [] ∧ (dom fun z => { z with tokenQ := [(0, 0, true)], tokens := 4 }).tokenQ = (0, 0, true) :: [] ∧
    (4 ≤ (dom fun z => { z with tokenQ := [(0, 0, true)], tokens := 4 }).tokens ∧ (dom fun z => { z with tokens := 7 }).tokens < 8 ∧
      0 < ({ start with cycles := [(0, 1)] } : State).dcyc 0 ∧
      (let e := withCore fun c => { c with cc := 1 }
       ∀ q, q ∈ e.cores → domainOf q.1 = 0 → e.dcyc 0 < q.2.cc + q.2.stretched) ∧
      ¬ (0 < start.dcyc 0 ∨ ∀ q, q ∈ start.cores → domainOf q.1 = 0 → start.dcyc 0 < q.2.cc + q.2.stretched)) ∧
    ((dom fun z => { z with returns := [(0, 4), (1, 8)] }).returns = (0, 4) :: [(1, 8)] ∧ 0 ≤ start.dcyc 0 ∧ start.dcyc 0 < 1) ∧
    (start.me.vecOn = true ∧ 256 ≤ ({ start.me with vecIdle := 256 } : Core).vecIdle ∧ start.me.tenOn = true ∧ 1024 ≤ ({ start.me with tenIdle := 1024 } : Core).tenIdle) ∧
    (({ start.hub 0 with drth := 0 } : Hub).drth = 0 ∧ ({ start.hub 0 with drth := 20 } : Hub).drth ≠ 0 ∧ ({ start.hub 0 with drth := 20 } : Hub).drth.toNat < 21 ∧ 20 ≤ ({ start.hub 0 with drth := 20 } : Hub).drth.toNat) ∧
    (({ start.me with stretchLeft := 1 } : Core).stretchLeft = 1 ∧ start.me.stretchLeft ≠ 1 ∧ ({ start.me with halfLeft := 2 } : Core).halfLeft / 2 = 1 ∧ start.me.halfLeft / 2 ≠ 1) ∧
    (84 ≤ 84 ∧ 83 < 84 ∧ ({ start.mgmt with ocHolds := [(83, 5)] } : Mgmt).ocHolds = (83, 5) :: [] ∧ 5 ≤ ({ start with time := 5 } : State).time) ∧
    ((dom fun z => { z with want := some (3, false) }).want = some (3, false) ∧ (dom fun z => { z with want := some (3, true), settling := true }).want = some (3, true)) ∧
    (({ start.mgmt with unsync := false } : Mgmt).unsync = false ∧ ({ start.mgmt with unsync := true } : Mgmt).unsync = true) ∧
    ((1 : Word).getLsbD 0 = true ∧ (2 : Word).getLsbD 0 = false) := by decide +kernel
theorem witness_TrapsHandlersAndReturns :
    let s := withG [(1, 1), (2, 8), (3, 0x5000), (4, 0x5001), (5, 63), (6, 64), (8, 0x1000), (10, 0x1008)]
    let stop := fun (c : Core) (k : BitVec 3) (lb : Addr) (ix : BitVec 6) => c.setStrand k { c.strand k with
      run := .stopped, handlerDue := true, trapEntry := some 0x400, frame := ⟨0x20, false, false, lb + 4, lb, ix, 0, 0⟩ }
    let t := s.modMe fun c => stop c 1 0x400 0
    let u := s.modMe fun c => stop c 1 0x400 1
    let full := t.modMe fun c => (List.range 8).foldl (fun c k => if k = 1 then c else c.setStrand (BitVec.ofNat 3 k) { c.strand (BitVec.ofNat 3 k) with run := .waiting }) c
    let p := (s.modMe fun c => { c with plb := wr c.plb (0 : BitVec 4) 0x80001C0000000000, priv := true })
    ((withSt fun t => { t with trapEntry := some 0x400 }).st.trapEntry.isSome = true ∧ s.st.handler = false ∧ s.st.trapEntry.isSome = false) ∧
    ((t.me.strand 1).handlerDue = true ∧ (t.me.strand 1).run = .stopped ∧ (t.me.strand 1).frozen = false ∧ (t.me.strand 1).trapEntry = some 0x400 ∧
      t.me.taken 2 = false ∧ (∀ q : BitVec 3, q.toNat < (2 : BitVec 3).toNat → t.me.taken q = true) ∧ (2 : BitVec 3) ≠ 1) ∧
    ((∀ f, full.me.taken f = true) ∧ (full.me.strand 1).handlerDue = true) ∧
    ((t.g 1).toNat < 8 ∧ ((t.g 1).truncate 3 : BitVec 3) ≠ t.slot ∧ t.me.fillFault (0x400 : Addr).toNat 4 = none ∧ t.me.isTarget 0x400 = true ∧
      malformed (t.me.word 0x400) 0x400 = false ∧ (0 : BitVec 6).toNat + (0 : BitVec 1).toNat < hdrCount (t.me.word 0x400)) ∧
    ((u.me.strand 1).frame.eidx.toNat + (0 : BitVec 1).toNat = hdrCount (u.me.word 0x400) ∧ hdrIndiv (u.me.word 0x400) = false ∧
      (t.me.strand 1).frame.eidx.toNat + (1 : BitVec 1).toNat = hdrCount (t.me.word 0x400) ∧ hdrCount (u.me.word 0x400) < 1 + 1) ∧
    (s.me.isTarget 0x5000 = false ∧ malformed 0xF8000001 0x5000 = true) ∧
    (putB s 31 (bob 0x5000 64 .filling 0 0)).me.fillFault 0x5000 4 ≠ none ∧
    (¬ (s.g 2).toNat < 8 ∧ ((s.g 0).truncate 3 : BitVec 3) = s.slot ∧ (s.me.strand 1).run ≠ .stopped) ∧
    ((p.g 5).toNat < 64 ∧ p.me.priv = true ∧ 64 ≤ (p.g 6).toNat ∧ s.me.priv = false) ∧
    ((p.p 8).toNat % 128 = 0 ∧ p.me.plbCheck 0 [byteRange (p.p 8) 128] = none ∧ p.me.plbCheck 1 [byteRange (p.p 8) 128] = none ∧ (p.p 10).toNat % 128 ≠ 0) := by decide +kernel
theorem witness_TrapsHandlersAndReturns_fills :
    let f := fun (a : Addr) (why : FillWhy) => withSt fun t => { t with fill := some ⟨a, why, 0, none, 0, []⟩ }
    (let x := f 0x400 .enter
     x.st.fill = some ⟨0x400, .enter, 0, none, 0, []⟩ ∧ x.st.run = .ready ∧ x.st.hold = .none ∧ x.st.frozen = false ∧ x.me.frozen = false ∧ 0 ≤ x.cc ∧
     (∀ j, j ≠ 0 → (x.me.strand j).fill = none) ∧ x.me.filled = false ∧ x.me.banks = [] ∧ x.me.copies = [] ∧ ({ x.me with filled := true } : Core).filled = true ∧
     (0x400 + 4 * hdrCount (x.me.word 0x400) + 3) / 8 - 0x400 / 8 + 1 ≤ 4 ∧ 0 < hdrCount (x.me.word 0x400) ∧ x.me.fillFault 0x400 4 = none ∧
     x.me.isTarget 0x400 = true ∧ malformed (x.me.word 0x400) 0x400 = false ∧ x.me.fillFault 0x400 (4 * (hdrCount (x.me.word 0x400) + 1)) = none) ∧
    (let x := (putB (f 0x5000 .fall) 31 (bob 0x5000 64 .filling 0 0)).me
     (x.fillFault 0x5000 4).isSome = true) ∧
    (let x := (f 0x6000 (.jump ⟨0x404, 0x400, 0, false⟩)).me
     x.isTarget 0x6000 = false ∧ x.fillFault 0x6000 4 = none) ∧
    (let x := ((f 0x6000 .enter).modMe fun c => c.store 0x6000 (toBytes 4 0xF8800000)).me
     x.isTarget 0x6000 = true ∧ malformed (x.word 0x6000) 0x6000 = false ∧ x.fillFault 0x6000 (4 * (hdrCount (x.word 0x6000) + 1)) = none ∧
     4 < (0x6000 + 4 * hdrCount (x.word 0x6000) + 3) / 8 - 0x6000 / 8 + 1) ∧
    ((f 0x5000 .fall).me.isTarget 0x5000 = false ∧ (f 0x5000 .fall).me.fillFault 0x5000 4 = none ∧
      (let x := (f 0x6000 .enter).modMe fun c => c.store 0x6000 (toBytes 4 0xF8000001)
       x.me.isTarget 0x6000 = true ∧ malformed (x.me.word 0x6000) 0x6000 = true ∧ 0x6000 + 4 * hdrCount (x.me.word 0x6000) ≤ 0xFFFC ∧
       (0x6000 + 4 * hdrCount (x.me.word 0x6000) + 3) / 8 - 0x6000 / 8 + 1 ≤ 4)) := by decide +kernel
theorem witness_ControlRegisters :
    let s := withG [(1, 8)]
    let p := s.modMe fun c => { c with priv := true }
    let st := s.modMe fun c => (c.setStrand 1 { c.strand 1 with run := .stopped }).setStrand 0 { c.strand 0 with fsel := 1 }
    let low := s.modMe fun c => { c with plbLow := wr c.plbLow (15 : BitVec 4) (some 5) }
    (¬ ((5 : BitVec 12).toNat ≤ 4) ∧ ¬ (0x304 : BitVec 12).toNat ≤ 0x302) ∧ (s.me.priv = false ∧ p.me.priv = true) ∧
    ((0x200 : BitVec 12).toNat ≤ 0x203 ∧ 0x200 ≤ (0x203 : BitVec 12).toNat) ∧ (0x12F : BitVec 12).toNat ≤ 0x12F ∧
    ((0 : BitVec 2) = 0 ∧ (st.me.strand 0).fsel ≠ 0 ∧ (st.me.strand (st.me.strand 0).fsel).run = .stopped) ∧
    ((1 ≤ (8 : Word).toNat ∧ (8 : Word).toNat ≤ 8) ∧ ¬ (1 ≤ (0 : Word).toNat) ∧ ¬ ((9 : Word).toNat ≤ 8) ∧ (2 : Word).toNat ≤ 2 ∧ 2 < (3 : Word).toNat) ∧
    rd low.me.plbLow (15 : BitVec 4) = some 5 ∧ (15 : BitVec 4) ≠ 0 ∧ ((1 : BitVec 2) = 1 ∧ (1 : Word).getLsbD 0 = true) := by decide +kernel
/-- A launch record of part 0 at 0x3000 with its image at 0x2000 behind the sentinel at 0x2800, the queue's descriptor, and the
grid of one cluster; every core of it gets one clause of EXIT at 0x400. -/
def region : Nat := 15 * 2 ^ 10 + 7 * 2 ^ 30
def image0 : List Byte :=
  toBytes 8 (0x4C574B31 + 3 * 2 ^ 32 + 16 * 2 ^ 40 + 8 * 2 ^ 51) ++ toBytes 8 (0x40 + 2 ^ 32) ++ toBytes 8 (0x58 + 2 ^ 32) ++ List.replicate 32 0 ++ toBytes 8 2 ++
  toBytes 24 (0x400 + 8 * 2 ^ 16 + 0x68 * 2 ^ 33 + region * 2 ^ 65 + 0x70 * 2 ^ 105 + 2 ^ 137) ++ toBytes 16 (0x400 + 2 ^ 30 + region * 2 ^ 64) ++
  toBytes 4 0xF8000000 ++ toBytes 4 0x10500000 ++ toBytes 2 0x400
def dealState : State :=
  let s := edgeState []
  let m := s.mgmt
  let e := Memory.flatWrite (Memory.flatWrite (Memory.flatWrite [] 0x2000 image0) 0x2800 (toBytes 8 0x3000)) 0x3008 (toBytes 8 0x2000 ++ toBytes 8 0x80000)
  { s with edge := e, mgmt := { m with grid := BitVec.ofNat 32 (16 + 8 * 2 ^ 11), bootProg := 23, sentinels := [(63, 0x2800)],
                                       queues := wr m.queues (63 : BitVec 6) (BitVec.ofNat 128 (2 ^ 67)) } }
theorem witness_DealerStarts :
    let s := dealState
    let p : PartRec := { part0 with recVa := 0x3000, image := 0x2000, save := 0x80000, queue := 63, priv := false, rowdiv := 1, st := .selected }
    let l : State := { s with mgmt := { s.mgmt with loading := some p } }
    let way : State := { l with mgmt := { l.mgmt with parts := [part0] } }
    let q := fun (x : Core) (ps : List PartRec) => { start.setCore 0 x with mgmt := { start.mgmt with parts := ps } }
    let g : CfgMsg := .splice 0x3000 ⟨0, 0, 0, [], [], [], [], [], []⟩ (Vector.replicate 16 0)
    let done : Core := { Core.reset with cfg := [g], splice := true }
    (start.mgmt.bootProg.getLsbD 4 = false ∧ l.mgmt.loading ≠ none ∧ s.mgmt.loading = none ∧ s.mgmt.bootProg.getLsbD 4 = true ∧ s.mgmt.takeover = false) ∧
    ((s.firstReady s.mgmt.served).2 = some p ∧ (s.firstReady []).2 = none) ∧ l.mgmt.loading = some p ∧ (p.kind ≠ 2 ∧ way.mgmt.inTheWay p ≠ []) ∧
    ({ p with kind := 3 }.kind = 3 ∧ l.mgmt.gridC < 16 * ({ p with col0 := 1 }.col0 + p.ncol)) ∧ (l.mgmt.inTheWay p = [] ∧ l.mgmt.recordCause { p with resv := true } ≠ 0) ∧
    (l.mgmt.recordCause p = 0 ∧ p.kind = 0 ∧ (match (l.writeStatus p 2 0 0 0 0).readImage p.image with | (u, .image g) => (u.imageCause p g).isNone | _ => false) = true) ∧
    start.me.cfgIn = [] ∧
    (let r := { p with remap := true, st := .frozen }
     let n : Mgmt := { s.mgmt with parts := [r] }
     (n.parts.find? fun p => p.st == .frozen && n.remapDone p) = some r ∧ (s.mgmt.parts.find? fun p => p.st == .frozen && s.mgmt.remapDone p) = none) ∧
    (done.cfg = g :: [] ∧ ({ done with splice := false } : Core).splice = false ∧ done.splice = true ∧ done.residents = [] ∧ start.me.residents ≠ [] ∧
      ((q done [p]).mgmt.parts.find? fun q => q.recVa == 0x3000) = some p ∧ ∀ r, r ∈ (q done [p]).mgmt.parts → r.succOf ≠ some 0x3000) := by decide +kernel
/-- A launch being dealt, and a message of the configuration class at core 0, with what stands at its eastern neighbour. -/
theorem witness_DealerStarts_dealing :
    let p : PartRec := { part0 with recVa := 0x3000, image := 0x2000, save := 0x80000, queue := 63, priv := false, rowdiv := 1, st := .loading }
    let sec : Section := ⟨0x400, 8, [1, 2, 3, 4, 5, 6, 7, 8], []⟩
    let code : CfgMsg := .code 0x3000 [(region, sec)]
    let l : State := { dealState with mgmt := { dealState.mgmt with loading := some p, parts := [p] } }
    let f : CfgFlit := { code.flit 1 with port := 3 }
    let at_ := l.modCore 0 fun x => { x with cfgIn := [f], cfgOuts := [1, 2, 4] }
    let outs := (at_.core 0).cfgOuts.filter (· < 4)
    (l.mgmt.loading = some p ∧ l.mgmt.takeover = false ∧ p.st = .loading ∧ p.kind = 0 ∧ l.mgmt.cfgNet = [] ∧ (∀ c, c ∈ p.cores → (l.core c).cfgIn = []) ∧
      (∀ c, c ∈ p.cores → ∀ j, ((l.core c).strand j).run ≠ .waiting)) ∧
    (((0, code, 0) ∈ ({ l.mgmt with cfgNet := [(0, code, 0)] } : Mgmt).cfgNet) ∧ code.record = p.recVa) ∧
    (code.flits = 2 ∧ f.brings = some code ∧ (code.flit 0).brings = none ∧ f.port < 4 ∧ f.rec_ = p.recVa) ∧
    ((at_.core 0).cfgIn = f :: [] ∧ 1 ∈ outs ∧ (at_.modCore 0 fun x => { x with used := [((1, 66), 4 * at_.routers 0 1)] }).credit 0 1 cfgClass = false) ∧
    (outs = [1, 2] ∧ at_.credit 0 1 cfgClass = true ∧ at_.credit 0 2 cfgClass = true ∧ (outs.map fun o => (at_.mgmt.torus 0 o).1).Nodup ∧
      0 ∉ outs.map (fun o => (at_.mgmt.torus 0 o).1) ∧ (at_.mgmt.parts.find? fun q => q.recVa == 0x3000) = some p ∧
      mine (p.rel 0).1 (p.rel 0).2 [(region, sec)] = [sec] ∧ Memory.wf (at_.core 0).sram = true ∧ sec.addr + sec.data.length ≤ 65536) ∧
    (let g : CfgMsg := .splice 0x3000 ⟨0, 0, 0, [], [], [], [], [], []⟩ (Vector.replicate 16 0)
     (g.flit 0).brings = some g ∧ p ∈ at_.mgmt.parts ∧ p.recVa = 0x3000) := by decide +kernel
/-- The partition part0 at a stage with every core of it as x, its save area at 1 MiB in domain 0, which may write it, on a device behind brick b. -/
def partState (st : PartSt) (x : Core) (u : Hub) (may : Bool) (b : Nat) : State :=
  let m := start.mgmt
  let k := start.brick b
  ({ start with cores := part0.cores.map fun l => (l, x), hubs := [(0, u)],
                mgmt := { m with parts := [{ part0 with st := st, save := 0x100000 }], domains := if may then [(0, 0x80001C5000000000)] else [] } } : State).setBrick b
    { k with cxl := wr k.cxl (0 : BitVec 2) ⟨2, false, 16, false, false, gib⟩, tlb := [⟨0, window b, 30, true, true, false⟩] }
theorem witness_FreezesAndEnds :
    let held : Core := { Core.reset with exitRep := .held }
    let calm : Core := { Core.reset with frozen := true, drained := true, quiescent := true }
    let froz : Core := { Core.reset with frozen := true, part := some 0 }
    let s := partState .running held Hub.reset false 31
    let f := partState .freezing calm { Hub.reset with frozen := true } true 31
    let bad := partState .freezing calm { Hub.reset with frozen := true } false 31
    let fault := fun (s : State) => s.saveFault (s.ebrick ((hubCores 0).headD 0)) 0 (pages 0x100000 65536 ++ pages 0x110000 (20608 * 1024))
    let free : Core := { Core.reset with part := some 0 }
    start.me.part = none ∧
    (free.part ≠ none ∧ free.frozen = false ∧ free.exitRep ≠ .held ∧ free.residents = [] ∧ free.copies = [] ∧ free.inject = [] ∧ (tagNums.any fun j => (free.tag j).live) = false ∧
      (partState .running free Hub.reset false 31).edgeCount 0 = 0) ∧
    ((start.mgmt.parts.find? fun q => q.part == 0) = none ∧
      (s.mgmt.parts.find? fun q => q.part == 0 && q.st == .running && !(s.mgmt.parts.any fun r => r.succOf == some q.recVa)) = some { part0 with save := 0x100000 }) ∧
    (∀ l, l ∈ part0.cores → (s.core l).skein = 0 ∧ (s.core l).exitRep = .held ∧ (s.core l).inputs = [] ∧ (s.core l).ways = [] ∧ (s.core l).emits = [] ∧
      (s.core l).locals = [] ∧ (s.core l).spawnQ = []) ∧
    (Core.reset.exitRep ≠ .held) ∧ (start.mgmt.parts.find? fun q => (q.st == .freezing || q.st == .saving) && q.hubs.contains 0) = none ∧
    ((f.mgmt.parts.find? fun q => (q.st == .freezing || q.st == .saving) && q.hubs.contains 0) = some { part0 with save := 0x100000, st := .freezing } ∧ Hub.reset.frozen = false) ∧
    (froz.frozen = true ∧ froz.drained = false ∧ froz.inputs = [] ∧ ([0, 1, 2, 3].all fun a => match (partState .freezing froz Hub.reset false 31).neighbour 0 a with
      | some l => ((partState .freezing froz Hub.reset false 31).core l).frozen | none => true) = true) ∧
    (Core.reset.frozen = false ∧ froz.quiescent = false ∧ (partState .freezing froz Hub.reset false 31).coreSettled 0 = true) ∧
    ((f.hub 0).frozen = true ∧ (f.hub 0).saved = false ∧ (f.hub 0).savef = false ∧ (∀ l, l ∈ hubCores 0 → (f.core l).quiescent = true ∧ (f.core l).drained = true) ∧
      f.hubReqs = [] ∧ f.hubReps = []) ∧
    ((fault f).2 = none ∧ (fault bad).2.isSome = true) := by decide +kernel
theorem witness_FreezesAndEnds_answers :
    let s := partState .running Core.reset Hub.reset false 31
    let ask := fun (s : State) (n : Word) => ({ s with mgmt := { s.mgmt with freezeAns := [(0, 7, 4, n)] } } : State)
    takeFirst (fun f : Nat × BitVec 3 × BitVec 4 × Word => f.1 == 0 && f.2.1 == BitVec.ofNat 3 7) (ask s 0).mgmt.freezeAns = some ((0, BitVec.ofNat 3 7, 4, 0), []) ∧
      s.mgmt.freezeAns = [] := by decide +kernel
theorem witness_FreezesAndEnds_parts :
    let s := partState .running Core.reset Hub.reset false 31
    let f := partState .freezing Core.reset Hub.reset true 31
    (f.mgmt.parts.any fun p => p.part == 0 && (p.st == .freezing || p.st == .saving)) = true ∧
      (s.mgmt.parts.any fun p => p.part == 0 && (p.st == .freezing || p.st == .saving)) = false ∧
      (s.mgmt.parts.find? fun p => p.part == 0 && p.st == .running) = some { part0 with save := 0x100000 } := by decide +kernel
theorem witness_FreezesAndEnds_standing :
    let x : Core := { Core.reset with exitRep := .held, locals := [⟨msg63 0, (msg63 0).len, 0, true, 0, .stands⟩] }
    let s := partState .running x Hub.reset false 31
    (∀ l, l ∈ part0.cores → (s.core l).skein = 0 ∧ (s.core l).exitRep = .held ∧ (s.core l).inputs = [] ∧ (s.core l).ways = [] ∧ (s.core l).emits = [] ∧
      (∀ z, z ∈ (s.core l).locals → z.st = .stands ∧ z.whole = true) ∧ (s.core l).spawnQ = []) ∧ x.locals ≠ [] := by decide +kernel
theorem witness_FreezesAndEnds_ends :
    let s := partState .running Core.reset Hub.reset false 31
    0x100000 ≠ 0 ∧ part0.save = 0 ∧ (s.mgmt.parts.find? fun p => p.part == 63 && p.st == .running) = none ∧
      ∀ q, q ∈ s.mgmt.parts → q.succOf ≠ some 0 := by decide +kernel
/-- Brick 7 has a trained host port, and a command is in progress. -/
def winState (code : Nat) (a0 a1 : Dword) : State :=
  let k := start.brick 7
  ({ inPart start with mgmt := { (inPart start).mgmt with cmd := BitVec.ofNat 64 code, arg0 := a0, arg1 := a1, cmdStat := 1, staged := [((7, 0x108), 5)] } } : State).setBrick 7
    { k with cxl := wr k.cxl (0 : BitVec 2) ⟨2, true, 16, false, false, 0⟩ }
theorem witness_ManagementWindow :
    let s := winState 1 0x10000 0x10000
    let t := { s with reqs := [req0 false (.est 7) [⟨0x1FFFF, 1, 0, []⟩] .toHome none] }
    let stopped := (winState 5 0 0).modMe fun c => c.setStrand 7 { c.strand 7 with run := .stopped }
    (start.hostPort 7 = false ∧ s.hostPort 7 = true ∧ 0x108 % 8 = 0 ∧ 0x3FFFFF8 < 2 ^ 26 ∧ (3 ≠ 4 ∧ 3 ≠ 8) ∧ 0x104 % 8 ≠ 0 ∧ 2 ^ 26 ≤ 2 ^ 26) ∧
    (s.mgmt.staged.find? fun e => e.1 == (7, 0x108)) = some ((7, 0x108), 5) ∧ (s.mgmt.cmdStat.toNat % 4 = 1 ∧ start.mgmt.cmdStat.toNat % 4 ≠ 1 ∧ 255 < 256) ∧
    (31 < 32 ∧ 32 ≤ 32 ∧ (start.brick 31).counters = [] ∧ 4 ≤ 4 % 32 ∧ 20 % 32 ≤ 20 ∧ ¬ (4 ≤ 3 % 32)) ∧ (63 < 64 ∧ 1 < 2 ∧ 64 ≤ 64) ∧
    (s.mgmt.cmd = BitVec.ofNat 64 1 ∧ s.mgmt.takeover = false ∧ s.mgmt.cmd ≠ BitVec.ofNat 64 2) ∧
    (64 ≤ (winState 2 64 0).mgmt.arg0.toNat ∧ (winState 2 63 0).mgmt.arg0.toNat < 64 ∧ ((winState 2 63 0).mgmt.parts.filter fun p => p.part == 63 && p.resident) = [] ∧
      (winState 4 63 0).mgmt.loading = none) ∧
    ((winState 1 1 0).mgmt.arg0.toNat % 65536 ≠ 0 ∧ s.mgmt.arg0.toNat % 65536 = 0 ∧ s.mgmt.arg1.toNat % 65536 = 0 ∧ s.reqs = []) ∧
    ((req0 false (.est 7) [⟨0x1FFFF, 1, 0, []⟩] .toHome none).translated = true ∧ t.mgmt.etinvHits 0x1FFFF 1 = true ∧ t.reqs ≠ []) ∧
    ((winState 2 0 0).mgmt.parts.filter fun p => p.part == (winState 2 0 0).mgmt.arg0.toNat && p.resident) = [part0] ∧
    (s.mgmt.bootCause.getLsbD 3 = false ∧ ({ s.mgmt with bootCause := 8 } : Mgmt).bootCause.getLsbD 3 = true) ∧
    (¬ ((winState 5 0 1023).mgmt.arg1.toNat % 1024 < 16 * part0.ncol)) ∧
    (0 < 16 * part0.ncol ∧ 0 < 8 * part0.nrow ∧ part0.coreAt 0 0 = 0 ∧ ((stopped.core 0).strand 7).run = .stopped) := by decide +kernel
theorem witness_BootAndFailures :
    let m := start.mgmt
    let at_ := fun (n : BitVec 5) => ({ start with mgmt := { m with bootProg := n } } : State)
    let part : PartRec := { part0 with save := 0x100000 }
    let placed : State := { (at_ 24) with mgmt := { (at_ 24).mgmt with grid := BitVec.ofNat 32 (1024 + 1000 * 2 ^ 11), parts := [part] } }
    let f := partState .freezing Core.reset { Hub.reset with frozen := true } false 31
    let g := partState .saving Core.reset { Hub.reset with frozen := true, saved := true } false 31
    (start.power = true ∧ State.reset.power = false ∧ State.reset.mgmt.alive ≠ 0) ∧ ((at_ 0).mgmt.bootStep + 1 ≠ 8 ∧ (at_ 23).mgmt.bootStep + 1 = 8 ∧ (at_ 1).mgmt.bootStep + 1 = 2 ∧
      m.takeover = false) ∧
    ((at_ 3).mgmt.bootStep = 3 ∧ 0 < 1064 ∧ (at_ 3).mgmt.floods 0 = true ∧ ((at_ 3).mgmt.floods 5 = false) ∧ 1064 ≤ 1064) ∧ ((at_ 23).mgmt.bootStep = 7 ∧ 31 < 32 ∧ 3 < 4 ∧ 32 ≤ 32) ∧
    ((at_ 24).mgmt.bootStep ≠ 0 ∧ 3 < 4 ∧ 3 ≠ m.leader.toNat ∧ m.alive.getLsbD 3 = true ∧ 4 ≤ 4) ∧
    (4 < 5 ∧ 4 ≠ 2 ∧ (m.transients.filter fun e => e.1 == 0).length < 64 ∧ ({ m with errlog := ⟨0, 4, 1, 3⟩ } : Mgmt).errlog.full = false ∧ 5 ≤ 5) ∧
    (start.hubReqs = [] ∧ ∃ r, r ∈ [(⟨0, 3, .query 31 4⟩ : HubReq)] ∧ r.core = 0) ∧
    ((at_ 21).mgmt.bootStep < 6 ∧ 6 ≤ placed.mgmt.bootStep ∧ 1072511 < 1072512 ∧ 3 < 4 ∧ placed.mgmt.map.marked 0 0 = false ∧
      (m.map.mark 0 0).marked 0 0 = true) ∧
    (placed.mgmt.failures = [] ∧ (∀ r, r ∈ placed.mgmt.parts → r.remap = false) ∧ placed.mgmt.coreAtSite (siteIx (placed.mgmt.site 0)) = some 0 ∧ (∃ q, q ∈ placed.mgmt.struck (siteIx (placed.mgmt.site 0)) 0 ∧ q.save ≠ 0 ∧ q.st = .running) ∧
      ∀ q, q ∈ placed.mgmt.parts → q.succOf = none) ∧
    (m.parts.find? fun q => q.part == 0 && (q.st == .freezing || q.st == .saving)) = none ∧
    ((f.mgmt.parts.find? fun q => q.part == 0 && (q.st == .freezing || q.st == .saving)) = some { part0 with save := 0x100000, st := .freezing } ∧ 0 ∈ part0.hubs ∧ (f.hub 0).saved = false) ∧
    ((∀ h, h ∈ part0.hubs → (g.hub h).saved = true) ∧ part0.remap = false ∧ g.mgmt.failures = []) := by decide +kernel
theorem witness_BootAndFailures_links : ∀ j (q : BitVec 2), j < 32 → (rd (start.brick j).cxl q).link ≠ 1 := by
  intro j q _
  have e : start.brick j = Brick.reset := rfl
  rw [e]
  revert q
  decide +kernel
/-- The flood cannot begin: site 0 does not work. -/
theorem witness_BootAndFailures_flood : let m := { start.mgmt with badSites := [(0, 2)] }
    m.bootStep + 1 = 1 ∧ ({ m with bootProg := 3 } : Mgmt).bootStep + 1 = 4 ∧ ∀ j, ({ m with bootProg := 3 } : Mgmt).floods j = false := by
  refine ⟨by decide +kernel, by decide +kernel, fun j => ?_⟩
  by_cases h : j = 0
  · subst h; decide +kernel
  · have e : (start.mgmt.discovered : List Nat) = [] := by decide +kernel
    simp [Mgmt.floods, h, e]

theorem witness_ManagementWindow_translations :
    let s := winState 1 0x10000 0x10000
    let m := s.mgmt
    let r := req0 false (.est 7) [⟨0x1FFFF, 1, 0, []⟩] .toHome none
    let far : EdgeReq := { r with pieces := [⟨0x1FFFFF, 1, 0, []⟩] }
    let page : Tlb := ⟨0x1FF000, 0, 21, true, true, false⟩
    let big := s.setBrick 31 { s.brick 31 with tlb := [page] }
    let waits : State := { s with mgmt := { m with etinv := some [3] } }
    (m.etinv = none ∧ s.reqs = [] ∧ m.takeover = false) ∧ (r.translated = true ∧ m.etinvHits 0x1FFFF 1 = true) ∧
    (far.translated = true ∧ m.etinvHits 0x1FFFFF 1 = false ∧ (31, big.brick 31) ∈ big.bricks ∧ page ∈ (big.brick 31).tlb ∧
      m.etinvHits (page.va / 2 ^ page.bits * 2 ^ page.bits) (2 ^ page.bits) = true ∧ 0x1FFFFF / 2 ^ page.bits = page.va / 2 ^ page.bits) ∧
    (waits.mgmt.etinv = some [3] ∧ waits.reqs = [] ∧ r.id = 3) := by decide +kernel
theorem witness_ManagementWindow_abort :
    let s := winState 4 0 0
    let m := s.mgmt
    let q : PartRec := { part0 with part := 1, recVa := 64, kind := 2, st := .spliceWait, succOf := some 0 }
    let n : Mgmt := { m with parts := [part0, q] }
    (m.cmdStat.toNat % 4 = 1 ∧ m.cmd = BitVec.ofNat 64 4 ∧ m.takeover = false ∧ m.loading = none) ∧
    ((m.parts.filter fun p => p.part == m.arg0.toNat && p.resident) = [part0] ∧ ∀ q, q ∈ m.parts → q.succOf = none) ∧
    ((n.parts.filter fun p => p.part == n.arg0.toNat && p.resident) = [part0] ∧ part0.succOf = none ∧ q.succOf = some part0.recVa ∧ q.recVa ≠ part0.recVa) := by
  decide +kernel
theorem witness_BootAndFailures_leader :
    let m : Mgmt := { start.mgmt with takeover := true }
    let n : Mgmt := { m with missed := wr (wr m.missed (1 : BitVec 2) 2) (2 : BitVec 2) 3 }
    let claims := fun (m : Mgmt) (i : BitVec 2) => m.alive.getLsbD i.toNat = true ∧ i ≠ m.leader ∧ 3 ≤ rd m.missed i
    (∀ i, ¬ claims m i) ∧ claims n 2 ∧ ∀ j : BitVec 2, j.toNat < (2 : BitVec 2).toNat → ¬ claims n j := by decide +kernel
theorem witness_BootAndFailures_loading :
    let q : PartRec := { part0 with st := .loading }
    let m : Mgmt := { start.mgmt with takeover := true, missed := wr start.mgmt.missed (2 : BitVec 2) 3, parts := [q] }
    m.parts = [q] ∧ q.st = .loading ∧ m.takeover = true ∧ (m.alive.getLsbD (2 : BitVec 2).toNat = true ∧ (2 : BitVec 2) ≠ m.leader ∧ 3 ≤ rd m.missed (2 : BitVec 2)) ∧
      (∀ j : BitVec 2, j.toNat < (2 : BitVec 2).toNat → ¬ (m.alive.getLsbD j.toNat = true ∧ j ≠ m.leader ∧ 3 ≤ rd m.missed j)) := by decide +kernel
theorem witness_BootAndFailures_deal :
    let s := fun (g : BitVec 32) => ({ start with mgmt := { start.mgmt with bootProg := 6, grid := g } } : State)
    ((s 0).power = true ∧ (s 0).mgmt.bootStep + 1 = 7 ∧ (s 0).mgmt.takeover = false ∧ (s 0).bootDeal.2 = true) ∧
    (let m := (s (BitVec.ofNat 32 (16 + 8 * 2 ^ 11))).mgmt
     m.bootStep = 6 ∧ m.gridC = 16 ∧ m.gridR = 8 ∧ m.loading = none ∧ m.bringUp = 0) := by decide +kernel
theorem witness_BootAndFailures_sites :
    let r : HubReq := ⟨0, 3, .query 31 4⟩
    let s : State := { start with mgmt := { start.mgmt with bootProg := 24 }, hubReqs := [r] }
    let g : State := { partState .saving Core.reset { Hub.reset with frozen := true, saved := true } false 31 with mgmt := { start.mgmt with parts := [{ part0 with st := .saving, remap := true }] } }
    (r ∈ s.hubReqs ∧ r.core = 0 ∧ 0 ∉ s.mgmt.resent ∧ 0 ∈ ({ s.mgmt with resent := [0] } : Mgmt).resent ∧ 6 ≤ s.mgmt.bootStep) ∧
    (s.mgmt.failures = [] ∧ s.mgmt.map.marked 5 0 = false ∧ s.mgmt.struck 5 0 = [] ∧ 5 < 1072512) ∧
    ((g.mgmt.parts.find? fun q => q.part == 0 && (q.st == .freezing || q.st == .saving)) = some { part0 with st := .saving, remap := true } ∧
      (∀ h, h ∈ part0.hubs → (g.hub h).saved = true) ∧ g.mgmt.failures = []) := by decide +kernel

end Sys2Proof.Tests
end

section
/-! What an access to edge memory leaves of the management plane and of each core: its watches fire, so tags are set and strands
wake (R291). -/

namespace Sys2Proof.Machine

/-! ### A core under such an access -/

/-- What a core has of the skein that it runs. -/
def Core.owner (c : Core) : Nat × Option Nat × Word × Bool := (c.skein, c.part, c.sigSeed, c.priv)
/-- No strand of the core waits. -/
def Core.noneWaits (c : Core) : Prop := ∀ k, (c.strand k).run ≠ .waiting
/-- From c to d the core stays with its skein, and where no strand waits, no message leaves its local port. -/
structure Core.Tends (c d : Core) : Prop where
  owner : d.owner = c.owner
  idle : c.noneWaits → d.noneWaits ∧ d.locals = c.locals

theorem Core.Tends.refl (c : Core) : c.Tends c := ⟨rfl, fun h => ⟨h, rfl⟩⟩
theorem Core.Tends.trans {c d e : Core} (h : c.Tends d) (g : d.Tends e) : c.Tends e :=
  ⟨g.owner.trans h.owner, fun n =>
    have ⟨nd, ld⟩ := h.idle n
    have ⟨ne, le⟩ := g.idle nd
    ⟨ne, le.trans ld⟩⟩
/-- A change that leaves the strands and the local port alone. -/
theorem Core.Tends.of {c d : Core} (ho : d.owner = c.owner) (hs : d.strands = c.strands) (hl : d.locals = c.locals) : c.Tends d :=
  ⟨ho, fun h => ⟨fun k => by rw [Core.strand, hs]; exact h k, hl⟩⟩
/-- A change of one strand that does not begin to wait. -/
theorem Core.tends_modStrand (c : Core) (k : BitVec 3) (f : Strand → Strand) (hf : ∀ t, t.run ≠ .waiting → (f t).run ≠ .waiting) :
    c.Tends (c.modStrand k f) := by
  refine ⟨rfl, fun h => ⟨fun j => ?_, rfl⟩⟩
  by_cases hj : j = k
  · rw [hj, Core.strand_modStrand]
    exact hf _ (h k)
  · rw [Core.modStrand, Core.strand_setStrand_ne c hj]
    exact h j

@[simp] theorem Core.owner_setStrand (c : Core) (k : BitVec 3) (t : Strand) : (c.setStrand k t).owner = c.owner := rfl
@[simp] theorem Core.owner_clearTag (c : Core) (k : BitVec 6) : (c.clearTag k).owner = c.owner := by
  unfold Core.clearTag; split <;> rfl
@[simp] theorem Core.owner_setLoc (c : Core) (ch : BitVec 6) (st : LocSt) : (c.setLoc ch st).owner = c.owner := by
  unfold Core.setLoc; split <;> rfl
@[simp] theorem Core.owner_dropLocal (c : Core) (ch : BitVec 6) : (c.dropLocal ch).owner = c.owner := by
  unfold Core.dropLocal
  split
  · rfl
  · split <;> rfl
@[simp] theorem Core.owner_standNext (c : Core) (ch : BitVec 6) : (c.standNext ch).owner = c.owner := by
  unfold Core.standNext
  split
  · split
    · exact c.owner_setLoc ch .stands
    · rfl
  · rfl
@[simp] theorem Core.owner_takeLocal (c : Core) (ch : BitVec 6) : (c.takeLocal ch).owner = c.owner := by simp [Core.takeLocal]

/-- A fold of steps that each keep a value keeps it. -/
theorem foldl_keeps {α β γ : Type} (v : β → γ) (f : β → α → β) (h : ∀ b a, v (f b a) = v b) (l : List α) (b : β) :
    v (l.foldl f b) = v b :=
  List.foldlRecOn (motive := fun x => v x = v b) l f rfl fun x hx a _ => (h x a).trans hx

theorem Core.owner_wakeSlot (r : Nat) (c : Core) (k : BitVec 3) : (c.wakeSlot r k).owner = c.owner := by
  have clears : ∀ (l : List (BitVec 6)) (mask : Dword) (d : Core),
      (l.foldl (fun c i => if mask.getLsbD i.toNat then c.clearTag i else c) d).owner = d.owner := fun l mask d =>
    foldl_keeps Core.owner _ (fun c i => by split <;> simp) l d
  unfold Core.wakeSlot
  dsimp only
  split
  · rfl
  · split
    case h_1 => split <;> simp
    case h_2 =>
      split
      · split <;> simp
      · rfl
    case h_3 =>
      split
      · split
        · rfl
        · split
          · rfl
          · exact Core.owner_takeLocal _ _
      · rfl
    case h_4 => split <;> simp
    case h_5 => split <;> rfl
    case h_6 =>
      split
      · rfl
      · split
        · split <;> simp
        · rfl
    case h_7 =>
      split
      · rfl
      · split
        · split
          · exact clears _ _ _
          · rfl
        · rfl
    case h_8 => split <;> rfl
    case h_9 => rfl

/-- Only a strand that waits is woken. -/
theorem Core.wakeSlot_of_not_waiting (r : Nat) (c : Core) (k : BitVec 3) (h : (c.strand k).run ≠ .waiting) : c.wakeSlot r k = c := by
  simp [Core.wakeSlot, h]
theorem Core.tends_wakeSlot (r : Nat) (c : Core) (k : BitVec 3) : c.Tends (c.wakeSlot r k) := by
  refine ⟨c.owner_wakeSlot r k, fun h => ?_⟩
  rw [c.wakeSlot_of_not_waiting r k (h k)]
  exact ⟨h, rfl⟩
theorem Core.Tends.foldl {α : Type} (f : Core → α → Core) (h : ∀ (c : Core) a, c.Tends (f c a)) (l : List α) (c : Core) : c.Tends (l.foldl f c) :=
  List.foldlRecOn (motive := fun d => c.Tends d) l f (.refl c) fun d hd a _ => hd.trans (h d a)
theorem Core.tends_wake (c : Core) : c.Tends c.wake :=
  (Core.Tends.foldl _ (Core.tends_wakeSlot _) _ c).trans (Core.Tends.foldl _ (Core.tends_wakeSlot _) _ _)
theorem Core.tends_promote (c : Core) : c.Tends c.promote := by
  unfold Core.promote
  split
  · exact .refl c
  · exact Core.Tends.of rfl rfl rfl
theorem Core.tends_finishTag (c : Core) (k : BitVec 6) : c.Tends (c.finishTag k) := Core.Tends.of rfl rfl rfl

/-! ### The state under such an access -/

/-- From s to t nothing of the management plane changes, and of the cores only what an access to edge memory may change. -/
structure State.Tends (s t : State) : Prop where
  mgmt : t.mgmt = s.mgmt
  core : ∀ l, (s.core l).Tends (t.core l)

/-- A core's view depends on the cores and the counts of the row domains alone. -/
theorem State.core_congr {s t : State} (hc : t.cores = s.cores) (hy : t.cycles = s.cycles) (l : Nat) : t.core l = s.core l := by
  simp [State.core, State.dcyc, hc, hy]
theorem State.Tends.of {s t : State} (hm : t.mgmt = s.mgmt) (hc : t.cores = s.cores) (hy : t.cycles = s.cycles) : s.Tends t :=
  ⟨hm, fun l => by rw [State.core_congr hc hy]; exact Core.Tends.refl _⟩
theorem State.Tends.refl (s : State) : s.Tends s := State.Tends.of rfl rfl rfl
theorem State.Tends.trans {s t u : State} (h : s.Tends t) (g : t.Tends u) : s.Tends u :=
  ⟨g.mgmt.trans h.mgmt, fun l => (h.core l).trans (g.core l)⟩
theorem State.Tends.foldl {α : Type} (f : State → α → State) (h : ∀ (s : State) a, s.Tends (f s a)) (l : List α) (s : State) : s.Tends (l.foldl f s) :=
  List.foldlRecOn (motive := fun t => s.Tends t) l f (.refl s) fun t ht a _ => ht.trans (h t a)
theorem State.tends_setCore (s : State) (l : Nat) (c : Core) (h : (s.core l).Tends c) : s.Tends (s.setCore l c) := by
  refine ⟨rfl, fun j => ?_⟩
  by_cases hj : j = l
  · rw [hj, State.core_setCore]
    exact h
  · rw [State.core_setCore_ne s hj]
    exact Core.Tends.refl _
theorem State.tends_modCore (s : State) (l : Nat) (f : Core → Core) (h : ∀ c : Core, c.Tends (f c)) : s.Tends (s.modCore l f) :=
  s.tends_setCore l _ (h _)
theorem State.tends_modBrick (s : State) (b : Nat) (f : Brick → Brick) : s.Tends (s.modBrick b f) := State.Tends.of rfl rfl rfl
theorem State.tends_setBrick (s : State) (b : Nat) (k : Brick) : s.Tends (s.setBrick b k) := State.Tends.of rfl rfl rfl

theorem State.tends_sample (s : State) (l qty : Nat) (ch : BitVec 6) (v : Nat) : s.Tends (s.sample l qty ch v) := .of rfl rfl rfl
theorem State.tends_sampleWait (s : State) (l : Nat) (c d : Core) (k : BitVec 3) : s.Tends (s.sampleWait l c d k) := by
  unfold State.sampleWait
  split
  · exact s.tends_sample _ _ _ _
  · exact .refl s
theorem State.tends_sampleStood (s : State) (l : Nat) (c d : Core) : s.Tends (s.sampleStood l c d) := by
  unfold State.sampleStood
  exact .foldl _ (fun t _ => t.tends_sample _ _ _ _) _ s
theorem State.tends_wakeCore (s : State) (l : Nat) : s.Tends (s.wakeCore l) := by
  unfold State.wakeCore
  dsimp only
  have hw := s.tends_setCore l _ ((s.core l).tends_wake.trans (Core.tends_promote _))
  exact (hw.trans (State.tends_sampleStood _ _ _ _)).trans (.foldl _ (fun t k => t.tends_sampleWait l _ _ k) _ _)
theorem State.tends_modWake (s : State) (l : Nat) (f : Core → Core) (h : ∀ c : Core, c.Tends (f c)) : s.Tends (s.modWake l f) :=
  ((s.tends_modCore l f h).trans (State.tends_sampleStood _ _ _ _)).trans (State.tends_wakeCore _ l)
theorem State.tends_completed (s : State) (l : Nat) (k : BitVec 3) (id : Nat) : s.Tends (s.completed l k id) :=
  s.tends_modCore l _ fun c => c.tends_modStrand k _ fun _ h => h
theorem State.tends_dropReq (s : State) (id : Nat) : s.Tends (s.dropReq id) := State.Tends.of rfl rfl rfl
theorem State.tends_fireWatch (s : State) (w : Watch) : s.Tends (s.fireWatch w) := by
  unfold State.fireWatch
  split
  · exact ((s.tends_dropReq _).trans (State.tends_modWake _ _ _ fun c => c.tends_finishTag _)).trans (State.tends_completed _ _ _ _)
  · exact .refl s
theorem State.tends_compareWatches (s : State) (b pa n : Nat) : s.Tends (s.compareWatches b pa n) := by
  unfold State.compareWatches
  dsimp only
  split
  · exact .refl s
  · exact (s.tends_modBrick b _).trans (State.Tends.foldl _ State.tends_fireWatch _ _)
theorem State.tends_devWrite (s : State) (pa : Nat) (bs : List Byte) : s.Tends (s.devWrite pa bs) := by
  unfold State.devWrite
  split
  · exact .refl s
  · refine State.Tends.trans ?_ (State.tends_compareWatches _ _ _ _)
    split <;> exact State.Tends.of rfl rfl rfl
theorem State.tends_flushLine (s : State) (b pa : Nat) : s.Tends (s.flushLine b pa) := by
  unfold State.flushLine
  split
  · exact .refl s
  · dsimp only
    split <;> exact State.Tends.of rfl rfl rfl
theorem State.tends_sysWrite (s : State) (pa : Nat) (bs : List Byte) : s.Tends (s.sysWrite pa bs) := by
  unfold State.sysWrite
  dsimp only
  split
  · exact (s.tends_devWrite pa bs).trans (State.tends_flushLine _ _ _)
  · exact s.tends_devWrite pa bs
theorem State.tends_sysWriteWords (s : State) (pa : Nat) (bs : List Byte) : s.Tends (s.sysWriteWords pa bs) :=
  State.Tends.foldl _ (fun t _ => t.tends_sysWrite _ _) _ s

/-! ### Translation, and the dealer's accesses -/

theorem State.tends_crossing (s : State) (b i : Nat) : s.Tends (s.crossing b i) := by
  unfold State.crossing
  dsimp only
  split
  · exact .refl s
  · split
    · exact s.tends_setBrick b _
    · split
      · exact s.tends_setBrick b _
      · exact (s.tends_sysWriteWords _ _).trans (State.tends_modBrick _ b _)
theorem State.tends_countPage (s : State) (b va bits home : Nat) : s.Tends (s.countPage b va bits home) := by
  have id_ : s.Tends { s with nextId := s.nextId + 1 } := State.Tends.of rfl rfl rfl
  unfold State.countPage
  dsimp only
  split
  · exact .refl s
  · split
    · split
      · exact id_
      · split
        · exact id_
        · split
          · exact (id_.trans (State.tends_setBrick _ b _)).trans (State.tends_crossing _ b _)
          · exact id_.trans (State.tends_setBrick _ b _)
    · split
      · exact id_.trans (State.tends_setBrick _ b _)
      · split <;> exact id_.trans (State.tends_setBrick _ b _)
theorem State.tends_translate (s : State) (b va : Nat) (write : Bool) : s.Tends (s.translate b va write).1 := by
  unfold State.translate
  extract_lets walked
  have hw : s.Tends walked.1 := by
    dsimp only [walked]
    split
    · exact .refl s
    · split
      · exact .refl s
      · exact (s.tends_devWrite _ _).trans (State.tends_modBrick _ b fun k => k.cache _)
  split
  · split
    · exact hw
    · split <;> exact .refl s
  · exact hw
theorem State.tends_translatePieces (s : State) (b : Nat) (write : Bool) (ps : List Piece) : s.Tends (s.translatePieces b write ps).s := by
  unfold State.translatePieces
  refine List.foldlRecOn (motive := fun x : Xlate => s.Tends x.s) ps _ (.refl s) fun x hx p _ => ?_
  dsimp only
  split
  · exact hx
  · have ht := hx.trans (x.s.tends_translate b p.va write)
    split
    · rename_i e
      rw [e] at ht
      exact ht
    · rename_i e
      rw [e] at ht
      split
      · exact ht.trans (State.tends_countPage _ b _ _ _)
      · exact ht
theorem State.tends_seqRead (s : State) (b va n : Nat) : s.Tends (s.seqRead b va n).1 := by
  have ht := s.tends_translatePieces b false (wordPieces va n [])
  unfold State.seqRead
  dsimp only
  split
  · exact ht
  · split <;> exact ht
theorem State.tends_dealRead (s : State) (va n : Nat) : s.Tends (s.dealRead va n).1 := by
  have ht := s.tends_seqRead s.mgmt.leadBrick (va / 8 * 8) ((va + n + 7) / 8 * 8 - va / 8 * 8)
  unfold State.dealRead
  dsimp only
  split <;> rename_i e <;> rw [e] at ht <;> exact ht
theorem State.tends_dealReads (l : List (Nat × Nat)) : ∀ s : State, s.Tends (s.dealReads l).1 := by
  induction l with
  | nil => exact fun s => .refl s
  | cons a t ih =>
    intro s
    have ht := s.tends_dealRead a.1 a.2
    unfold State.dealReads
    split
    · rename_i e
      rw [e] at ht
      exact ht
    · rename_i u _ e
      rw [e] at ht
      have hu := ht.trans (ih u)
      split <;> rename_i e' <;> rw [e'] at hu <;> exact hu
theorem State.tends_readImage (s : State) (va : Nat) : s.Tends (s.readImage va).1 := by
  have h1 := s.tends_dealRead va 64
  unfold State.readImage
  split
  · rename_i e
    rw [e] at h1
    exact h1
  · rename_i u h e
    rw [e] at h1
    have h2 := h1.trans (u.tends_dealReads (tableReads va h))
    split
    · rename_i e'
      rw [e'] at h2
      exact h2
    · rename_i v ts e'
      rw [e'] at h2
      have h3 := h2.trans (v.tends_dealReads (contentReads va ts))
      split <;> rename_i e'' <;> rw [e''] at h3 <;> exact h3
theorem State.tends_brickWrite (s : State) (b va : Nat) (bs : List Byte) : s.Tends (s.brickWrite b va bs) := by
  have ht := s.tends_translatePieces b true (wordPieces va bs.length bs)
  unfold State.brickWrite
  dsimp only
  split
  · exact ht
  · exact ht.trans (State.Tends.foldl _ (fun t _ => t.tends_sysWrite _ _) _ _)
theorem State.tends_dealWrite (s : State) (va v : Nat) : s.Tends (s.dealWrite va v) := by
  unfold State.dealWrite
  split
  · exact .refl s
  · exact s.tends_brickWrite _ _ _
theorem State.tends_writeStatus (s : State) (p : PartRec) (state cause count fcol frow : Nat) :
    s.Tends (s.writeStatus p state cause count fcol frow) := s.tends_dealWrite _ _
@[simp] theorem State.writeStatus_mgmt (s : State) (p : PartRec) (state cause count fcol frow : Nat) :
    (s.writeStatus p state cause count fcol frow).mgmt = s.mgmt := (s.tends_writeStatus p state cause count fcol frow).mgmt
/-- The end of a record raises its vector, if it asks for it, and is else an access to edge memory. -/
theorem State.endRecord_eq (s : State) (p : PartRec) (state cause count fcol frow : Nat) :
    ∃ t i, s.Tends t ∧ s.endRecord p state cause count fcol frow = { t with mgmt := { t.mgmt with irqs := i } } := by
  have ht := (s.tends_writeStatus p state cause count fcol frow).trans (State.tends_dealWrite _ (p.recVa + 64) s.time)
  unfold State.endRecord
  dsimp only
  split
  · exact ⟨_, _, ht, rfl⟩
  · exact ⟨_, _, ht, rfl⟩

end Sys2Proof.Machine
end

section
/-! The dealer's selection and loading, and the messages of the configuration class (R23, R173, R368, R423). -/

namespace Sys2Proof.Machine

/-! ### Selection (R368) -/

theorem qPrio_lt (q : BitVec 128) : qPrio q < 8 := Nat.mod_lt _ (by decide)
theorem Mgmt.mem_served (m : Mgmt) (q : Nat) : q ∈ m.served ↔ q < 64 ∧ qEn (m.queue (BitVec.ofNat 6 q)) = true := by
  have hp : qPrio (m.queue (BitVec.ofNat 6 q)) ∈ [7, 6, 5, 4, 3, 2, 1, 0] := by
    have := qPrio_lt (m.queue (BitVec.ofNat 6 q))
    generalize qPrio (m.queue (BitVec.ofNat 6 q)) = n at this ⊢
    revert n
    decide
  refine ⟨fun h => ?_, fun ⟨hq, he⟩ => List.mem_flatten.2 ⟨_, List.mem_map.2 ⟨_, hp, rfl⟩, List.mem_filter.2 ⟨List.mem_range.2 hq, ?_⟩⟩⟩
  · obtain ⟨l, hl, hq⟩ := List.mem_flatten.1 h
    obtain ⟨pr, _, rfl⟩ := List.mem_map.1 hl
    obtain ⟨hr, hc⟩ := List.mem_filter.1 hq
    rw [Bool.and_eq_true] at hc
    exact ⟨List.mem_range.1 hr, hc.1⟩
  · rw [he, beq_self_eq_true]
    rfl
/-- The order of service: descending PRIO, then ascending number. -/
theorem Mgmt.served_pairwise (m : Mgmt) : m.served.Pairwise fun a b =>
    qPrio (m.queue (BitVec.ofNat 6 b)) < qPrio (m.queue (BitVec.ofNat 6 a)) ∨
      (qPrio (m.queue (BitVec.ofNat 6 a)) = qPrio (m.queue (BitVec.ofNat 6 b)) ∧ a < b) := by
  have prio : ∀ {pr q : Nat}, q ∈ (List.range 64).filter (fun q => qEn (m.queue (BitVec.ofNat 6 q)) && qPrio (m.queue (BitVec.ofNat 6 q)) == pr) →
      qPrio (m.queue (BitVec.ofNat 6 q)) = pr := fun h => by
    have hq := (List.mem_filter.1 h).2
    rw [Bool.and_eq_true, beq_iff_eq] at hq
    exact hq.2
  refine List.pairwise_flatten.2 ⟨fun l hl => ?_, List.pairwise_map.2 ?_⟩
  · obtain ⟨pr, _, rfl⟩ := List.mem_map.1 hl
    exact (List.pairwise_lt_range.filter _).imp_of_mem fun ha hb hab => .inr ⟨(prio ha).trans (prio hb).symm, hab⟩
  · have desc : [7, 6, 5, 4, 3, 2, 1, 0].Pairwise fun a b : Nat => b < a := by decide
    exact desc.imp fun hab x hx y hy => .inl (by rw [prio hx, prio hy]; exact hab)

/-- What keeps the dealer from selecting: a record being loaded, a boot that is not done, a takeover. -/
theorem execDealerSelection_waits (s : State) (h : s.mgmt.loading ≠ none ∨ s.mgmt.bootProg.getLsbD 4 = false ∨ s.mgmt.takeover = true) :
    execDealerSelection s = .next s := by
  refine if_pos ?_
  simpa [Option.isSome_iff_ne_none] using h
/-- Else a partition that a remap has moved comes first, and then the first record that can start. -/
theorem execDealerSelection_selects (s : State) (hl : s.mgmt.loading = none) (hb : s.mgmt.bootProg.getLsbD 4 = true) (ht : s.mgmt.takeover = false) :
    (∀ p, s.mgmt.readyRemap = some p → execDealerSelection s = .next { s with mgmt := { s.mgmt with loading := some p } }) ∧
    (s.mgmt.readyRemap = none → ∀ u, s.firstReady s.mgmt.served = (u, none) → execDealerSelection s = .next u) ∧
    ∀ u p, s.mgmt.readyRemap = none → s.firstReady s.mgmt.served = (u, some p) → ∃ t, execDealerSelection s = .next t ∧
      t.mgmt.loading = some p ∧ t.mgmt.sentinels.filter (fun e => e.1 == p.queue) = [(p.queue, p.recVa)] := by
  unfold execDealerSelection
  rw [if_neg (by simp [hl, hb, ht])]
  refine ⟨fun p hp => by rw [hp], fun hr u hu => by rw [hr]; simp only [hu], fun u p hr hu => ?_⟩
  rw [hr]
  simp only [hu]
  refine ⟨_, rfl, rfl, ?_⟩
  rw [List.filter_append, List.filter_filter]
  simp
theorem Mgmt.readyRemap_eq_none (m : Mgmt) (h : (m.parts.find? fun p => p.st == .frozen && m.remapDone p) = none) : m.readyRemap = none := by
  rw [Mgmt.readyRemap, h]; rfl
theorem Mgmt.readyRemap_eq_some (m : Mgmt) {p : PartRec} (h : (m.parts.find? fun p => p.st == .frozen && m.remapDone p) = some p) :
    m.readyRemap = some { p with image := p.save, kind := 1, olaunch := false, st := .selected } := by
  rw [Mgmt.readyRemap, h]; rfl

/-! ### Folds over cores -/

/-- What each step of a fold sets for its own place and keeps for every other holds at the end for every place of the list. -/
theorem foldl_reaches {α β : Type} {P : β → α → Prop} (f : β → α → β) (sets : ∀ b a, P (f b a) a) (keeps : ∀ b a x, P b x → P (f b a) x) :
    ∀ (l : List α) (b : β), ∀ a ∈ l, P (l.foldl f b) a
  | [], _, _, h => absurd h List.not_mem_nil
  | a :: t, b, x, h => by
    rcases List.mem_cons.1 h with rfl | h
    · exact List.foldlRecOn (motive := fun c => P c x) t f (sets b x) fun c hc y _ => keeps c y x hc
    · exact foldl_reaches f sets keeps t (f b a) x h

/-! ### Loading: the end (Table 1.3, step 6) -/

@[simp] theorem State.regrants_mgmt (s : State) (p : PartRec) : (s.regrants p).mgmt = s.mgmt := by
  unfold State.regrants
  exact foldl_keeps State.mgmt State.regrant (fun _ _ => rfl) _ s
@[simp] theorem State.regrants_core (s : State) (p : PartRec) (l : Nat) : (s.regrants p).core l = s.core l := by
  unfold State.regrants
  exact foldl_keeps (fun t : State => t.core l) State.regrant (fun _ _ => rfl) _ s
@[simp] theorem State.sendStart_mgmt (s : State) (l : Nat) : (s.sendStart l).mgmt = s.mgmt := rfl
theorem State.sendStart_core_ne (s : State) {l k : Nat} (h : k ≠ l) : (s.sendStart l).core k = s.core k := s.core_modCore_ne h _
theorem State.sendStart_locals (s : State) (l : Nat) :
    ((s.sendStart l).core l).locals = (s.core l).locals ++ [⟨startMsg, 1, 0, true, s.time, .fresh⟩] := by
  simp [State.sendStart, Core.spend]
theorem State.sendStart_strand (s : State) (l : Nat) (k : BitVec 3) : ((s.sendStart l).core l).strand k = (s.core l).strand k := by
  simp [State.sendStart, Core.spend, Core.strand]
theorem State.sendStart_owner (s : State) (l : Nat) : ((s.sendStart l).core l).owner = (s.core l).owner := by
  simp [State.sendStart, Core.spend, Core.owner]
/-- The start message stands at a core's local port. -/
def State.started (s : State) (l : Nat) : Prop := ∃ z, z ∈ (s.core l).locals ∧ z.msg = startMsg
theorem State.started_sendStart (s : State) (l : Nat) : (s.sendStart l).started l := by
  exact ⟨⟨startMsg, 1, 0, true, s.time, .fresh⟩, by rw [State.sendStart_locals]; exact List.mem_concat_self, rfl⟩
theorem State.started_keeps_sendStart (s : State) (l k : Nat) (h : s.started k) : (s.sendStart l).started k := by
  by_cases hk : k = l
  · rw [hk]
    exact s.started_sendStart l
  · rw [State.started, s.sendStart_core_ne hk]
    exact h
theorem State.noneWaits_sendStart (s : State) (l k : Nat) (h : (s.core k).noneWaits) : ((s.sendStart l).core k).noneWaits := by
  by_cases hk : k = l
  · intro j
    rw [hk, s.sendStart_strand l j]
    exact hk ▸ h j
  · rw [s.sendStart_core_ne hk]
    exact h
/-- An access to edge memory leaves the start message of a core where no strand waits. -/
theorem State.Tends.started {s t : State} (h : s.Tends t) {l : Nat} (hn : (s.core l).noneWaits) (hs : s.started l) : t.started l := by
  rw [State.started, ((h.core l).idle hn).2]
  exact hs

/-- A launch whose class has delivered: its partition runs, and every core of it has its start message. -/
theorem State.finishLoad_launch (s : State) (p : PartRec) (hk : p.kind = 0) (hn : ∀ l, l ∈ p.cores → (s.core l).noneWaits) :
    (s.finishLoad p).mgmt.loading = none ∧ (∀ q, q ∈ (s.finishLoad p).mgmt.parts → q.recVa = p.recVa → q.st = .running) ∧
      ∀ l, l ∈ p.cores → (s.finishLoad p).started l := by
  have quiet : ∀ l, l ∈ p.cores → ((p.cores.foldl State.sendStart s).core l).noneWaits := fun l hl =>
    List.foldlRecOn (motive := fun t : State => (t.core l).noneWaits) p.cores State.sendStart (hn l hl)
      fun t ht k _ => t.noneWaits_sendStart k l ht
  have sent := foldl_reaches State.sendStart State.started_sendStart State.started_keeps_sendStart p.cores s
  unfold State.finishLoad
  rw [hk]
  simp only [show ((0 : BitVec 2) = 1) = False by decide, if_false]
  generalize p.cores.foldl State.sendStart s = u at quiet sent
  refine ⟨by simp, fun q hq hr => ?_, fun l hl => ?_⟩
  · simp only [State.writeStatus_mgmt, State.modPart, List.mem_map] at hq
    obtain ⟨x, _, rfl⟩ := hq
    split at hr
    · rw [if_pos ‹_›]
    · exact absurd hr ‹_›
  · exact (State.tends_writeStatus _ p 3 0 0 0 0).started (quiet l hl) (sent l hl)

/-! ### Loading: the checks and the dealing (R423; Table 1.3, steps 4 and 5) -/

/-- What the cores of a record's partition have of it. -/
def PartRec.owner (p : PartRec) : Nat × Option Nat × Word × Bool := (p.recVa, some p.part, p.sigs, p.priv)
theorem Core.owner_takeRecord (c : Core) (p : PartRec) (plb : Vector Dword 16) (brick col row : Nat) :
    (c.takeRecord p plb brick col row).owner = p.owner := rfl
theorem Core.owner_eq_iff (c : Core) (p : PartRec) :
    c.owner = p.owner ↔ c.skein = p.recVa ∧ c.part = some p.part ∧ c.sigSeed = p.sigs ∧ c.priv = p.priv := by
  simp [Core.owner, PartRec.owner]

/-- Something of a record's transfers stands with the dealer or at a core of its rectangle. -/
theorem State.classDone_eq_false (s : State) (p : PartRec) : s.classDone p = false ↔
    (∃ e, e ∈ s.mgmt.cfgNet ∧ e.2.1.record = p.recVa) ∨ ∃ l z, l ∈ p.cores ∧ z ∈ (s.core l).cfgIn ∧ z.rec_ = p.recVa := by
  simp only [State.classDone, Bool.and_eq_false_iff, List.all_eq_false, bne_iff_ne, ne_eq, Classical.not_not, Bool.not_eq_true]
  exact or_congr Iff.rfl ⟨fun ⟨l, hl, z, hz, e⟩ => ⟨l, z, hl, hz, e⟩, fun ⟨l, z, hl, hz, e⟩ => ⟨l, hl, z, hz, e⟩⟩
theorem Mgmt.recordCause_eq_one (m : Mgmt) (p : PartRec)
    (h : p.resv = true ∨ p.kind = 3 ∨ m.gridC < 16 * (p.col0 + p.ncol) ∨ m.gridR < 8 * (p.row0 + p.nrow)) : m.recordCause p = 1 := by
  refine if_pos ?_
  simp only [Bool.or_eq_true, decide_eq_true_eq, beq_iff_eq]
  exact .inl (or_assoc.2 (or_assoc.2 (by simpa [or_assoc] using h)))
theorem State.failLoad_mgmt (s : State) (p : PartRec) (cause col row : Nat) (h : p.remap = false) :
    (s.failLoad p cause col row).mgmt.loading = none ∧ (s.failLoad p cause col row).mgmt.parts = s.mgmt.parts := by
  obtain ⟨t, i, ht, he⟩ := ({ s with mgmt := { s.mgmt with loading := none } } : State).endRecord_eq p 5 cause 0 col row
  have hf : s.failLoad p cause col row = { t with mgmt := { t.mgmt with irqs := i } } := by
    rw [← he, State.failLoad, h]
    rfl
  rw [hf]
  simp only [ht.mgmt, and_self]

/-- A core of the partition has been dealt: it is its record's, and so is its place in the skein tree. -/
def State.dealt (p : PartRec) (s : State) (l : Nat) : Prop := (s.core l).owner = p.owner ∧ (s.core l).cfgOuts = p.treeOuts l
/-- A step that deals one core of a partition. -/
theorem State.dealt_modCore (p : PartRec) (s : State) (l : Nat) (f : Core → Core) (ho : ∀ c, (f c).owner = p.owner)
    (ht : ∀ c, (f c).cfgOuts = p.treeOuts l) : State.dealt p (s.modCore l f) l ∧ ∀ k, State.dealt p s k → State.dealt p (s.modCore l f) k := by
  have self : State.dealt p (s.modCore l f) l := by
    rw [State.dealt, State.core_modCore]
    exact ⟨ho _, ht _⟩
  refine ⟨self, fun k hk => ?_⟩
  by_cases h : k = l
  · rw [h]
    exact self
  · rw [State.dealt, State.core_modCore_ne s h]
    exact hk
@[simp] theorem State.dealing_mgmt (s : State) (p : PartRec) (ms : List CfgMsg) : (s.dealing p ms).mgmt =
    { s.mgmt with parts := s.mgmt.parts.filter (fun q => q.recVa != p.recVa) ++ [{ p with st := .loading }],
                  loading := some { p with st := .loading }, cfgNet := s.mgmt.cfgNet ++ ms.map fun x => (p.root, x, 0),
                  sent := s.mgmt.sent ++ ms.map fun x => (p.root, x) } := by
  simp only [State.dealing, State.regrants_mgmt]
  rfl
@[simp] theorem State.dealing_core (s : State) (p : PartRec) (ms : List CfgMsg) (l : Nat) : (s.dealing p ms).core l = s.core l := by
  simp only [State.dealing, State.regrants_core]
  rfl
/-- A launch clears the cluster SRAM and the joins of a hub (R310). -/
def State.clearHub (s : State) (h : Nat) : State := s.modHub h fun u => { u with sram := [], ue := [], joins := Vector.replicate 32 Join.reset }
/-- A launch gives one core its share of the image and what it takes from the record. -/
def State.dealCore (p : PartRec) (g : Image) (plb : Vector Dword 16) (s : State) (l : Nat) : State :=
  s.modCore l fun x =>
    { (((({ g.share (p.rel l).1 (p.rel l).2 with sections := [] } : CoreImage).deal x.idle).getD x.idle).takeRecord p plb (s.ebrick l)
        (p.rel l).1 (p.rel l).2) with cfgOuts := p.treeOuts l }
/-- A launch clears the hubs of its rectangle, gives each core its share, and sends the code down the tree. -/
theorem State.dealLaunch_eq (s : State) (p : PartRec) (g : Image) : s.dealLaunch p g =
    (p.cores.foldl (State.dealCore { p with rowdiv := BitVec.ofNat 4 g.rowdiv } g (s.mgmt.domainPlb p.domain))
      (p.hubs.foldl State.clearHub s)).dealing { p with rowdiv := BitVec.ofNat 4 g.rowdiv } [.code p.recVa g.sections] := rfl
theorem State.dealLaunch_mgmt (s : State) (p : PartRec) (g : Image) : (s.dealLaunch p g).mgmt =
    { s.mgmt with
      parts := s.mgmt.parts.filter (fun q => q.recVa != p.recVa) ++ [{ p with rowdiv := BitVec.ofNat 4 g.rowdiv, st := .loading }],
      loading := some { p with rowdiv := BitVec.ofNat 4 g.rowdiv, st := .loading },
      cfgNet := s.mgmt.cfgNet ++ [(p.root, .code p.recVa g.sections, 0)], sent := s.mgmt.sent ++ [(p.root, .code p.recVa g.sections)] } := by
  rw [State.dealLaunch_eq, State.dealing_mgmt, foldl_keeps State.mgmt (State.dealCore _ _ _) (fun _ _ => rfl),
    foldl_keeps State.mgmt State.clearHub (fun _ _ => rfl)]
  rfl
theorem State.dealLaunch_core (s : State) (p : PartRec) (g : Image) (l : Nat) (hl : l ∈ p.cores) : State.dealt p (s.dealLaunch p g) l := by
  rw [State.dealLaunch_eq, State.dealt, State.dealing_core]
  exact foldl_reaches (P := State.dealt p) (State.dealCore { p with rowdiv := BitVec.ofNat 4 g.rowdiv } g (s.mgmt.domainPlb p.domain))
    (fun t k => (State.dealt_modCore p t k _ (fun _ => rfl) fun _ => rfl).1)
    (fun t k => (State.dealt_modCore p t k _ (fun _ => rfl) fun _ => rfl).2) p.cores _ l hl

/-! ### LAUNCH_LOAD (R23, R423) -/

/-- What keeps LAUNCH_LOAD from going on: no record, a takeover, a partition in the way, a transfer under way. -/
theorem execLaunchLoad_none (s : State) (h : s.mgmt.loading = none) : execLaunchLoad s = .next s := by
  rw [execLaunchLoad, h]
theorem execLaunchLoad_takeover (s : State) {p : PartRec} (h : s.mgmt.loading = some p) (ht : s.mgmt.takeover = true) :
    execLaunchLoad s = .next s := by
  simp only [execLaunchLoad, h, ht, if_true]
theorem execLaunchLoad_inTheWay (s : State) {p : PartRec} (h : s.mgmt.loading = some p) (ht : s.mgmt.takeover = false) (hs : p.st ≠ .loading)
    (hk : p.kind ≠ 2) (hw : s.mgmt.inTheWay p ≠ []) : execLaunchLoad s = .next s := by
  simp only [execLaunchLoad, h, ht, Bool.false_eq_true, if_false, hs, if_pos (And.intro hk hw)]
theorem execLaunchLoad_undelivered (s : State) {p : PartRec} (h : s.mgmt.loading = some p) (ht : s.mgmt.takeover = false) (hs : p.st = .loading)
    (hc : s.classDone p = false) : execLaunchLoad s = .next s := by
  simp [execLaunchLoad, h, ht, hs, hc]
theorem execLaunchLoad_delivered (s : State) {p : PartRec} (h : s.mgmt.loading = some p) (ht : s.mgmt.takeover = false) (hs : p.st = .loading)
    (hc : s.classDone p = true) : execLaunchLoad s = .next (s.finishLoad p) := by
  simp [execLaunchLoad, h, ht, hs, hc]
/-- Nothing stands in a record's way: STATUS shows that it loads, and its checks decide. -/
theorem execLaunchLoad_checks (s : State) {p : PartRec} (h : s.mgmt.loading = some p) (ht : s.mgmt.takeover = false) (hs : p.st ≠ .loading)
    (hw : p.kind = 2 ∨ s.mgmt.inTheWay p = []) : execLaunchLoad s = .next (
      if s.mgmt.recordCause p ≠ 0 then (s.writeStatus p 2 0 0 0 0).failLoad p (s.mgmt.recordCause p) 0 0
      else if p.kind = 1 then (s.writeStatus p 2 0 0 0 0).loadResume p else (s.writeStatus p 2 0 0 0 0).loadImage p) := by
  have hw' : ¬ (p.kind ≠ 2 ∧ s.mgmt.inTheWay p ≠ []) := by
    rintro ⟨hk, hi⟩
    exact hw.elim hk hi
  simp only [execLaunchLoad, h, ht, Bool.false_eq_true, if_false, hs, hw', State.writeStatus_mgmt]
/-- A launch whose image passes its checks is dealt. -/
theorem State.loadImage_launch (s u : State) (p : PartRec) (g : Image) (hk : p.kind = 0) (hr : s.readImage p.image = (u, .image g))
    (hc : u.imageCause p g = none) : s.loadImage p = u.dealLaunch p g := by
  simp [State.loadImage, hr, hc, hk]

/-- LAUNCH_LOAD deals a launch that passes every check. -/
theorem execLaunchLoad_launch (s : State) {u : State} {p : PartRec} {g : Image} (h : s.mgmt.loading = some p) (ht : s.mgmt.takeover = false)
    (hs : p.st ≠ .loading) (hw : p.kind = 2 ∨ s.mgmt.inTheWay p = []) (hc : s.mgmt.recordCause p = 0) (hk : p.kind = 0)
    (hr : (s.writeStatus p 2 0 0 0 0).readImage p.image = (u, .image g)) (hi : u.imageCause p g = none) :
    execLaunchLoad s = .next (u.dealLaunch p g) ∧ u.mgmt = s.mgmt := by
  refine ⟨?_, ?_⟩
  · rw [execLaunchLoad_checks s h ht hs hw, if_neg (not_not_intro hc), if_neg (by rw [hk]; decide), State.loadImage_launch _ u p g hk hr hi]
  · have read := (s.writeStatus p 2 0 0 0 0).tends_readImage p.image
    rw [hr] at read
    exact read.mgmt.trans (s.writeStatus_mgmt p 2 0 0 0 0)
/-- A record that fails its first checks starts no partition. -/
theorem execLaunchLoad_fails (s : State) {p : PartRec} (h : s.mgmt.loading = some p) (ht : s.mgmt.takeover = false) (hs : p.st ≠ .loading)
    (hw : p.kind = 2 ∨ s.mgmt.inTheWay p = []) (hc : s.mgmt.recordCause p ≠ 0) (hr : p.remap = false) :
    ∃ t, execLaunchLoad s = .next t ∧ t.mgmt.loading = none ∧ t.mgmt.parts = s.mgmt.parts := by
  have failed := (s.writeStatus p 2 0 0 0 0).failLoad_mgmt p (s.mgmt.recordCause p) 0 0 hr
  rw [State.writeStatus_mgmt] at failed
  exact ⟨_, (execLaunchLoad_checks s h ht hs hw).trans (by rw [if_pos hc]), failed⟩

/-! ### The configuration class (R168, R172, R173) -/

theorem countOf_addCount (k : Nat × Nat) (n : Nat) (l : List ((Nat × Nat) × Nat)) : countOf k (addCount k n l) = countOf k l + n := by
  induction l with
  | nil =>
    unfold addCount
    split <;> simp [countOf, *]
  | cons e t ih =>
    obtain ⟨j, m⟩ := e
    by_cases h : j = k
    · simp [addCount, countOf, h]
    · simpa [addCount, countOf, h] using ih
theorem countOf_addCount_ne {k j : Nat × Nat} (h : k ≠ j) (n : Nat) (l : List ((Nat × Nat) × Nat)) :
    countOf k (addCount j n l) = countOf k l := by
  induction l with
  | nil =>
    unfold addCount
    split <;> simp [countOf, h.symm]
  | cons e t ih =>
    obtain ⟨i, m⟩ := e
    by_cases hi : i = j
    · simp [addCount, countOf, hi, h.symm]
    · by_cases hk : i = k
      · simp [addCount, countOf, hk, h]
      · simpa [addCount, countOf, hi, hk] using ih
/-- A flit that leaves on each of several outputs takes one credit of each. -/
theorem countOf_foldl_addCount (o : Nat) : ∀ (outs : List Nat) (u : List ((Nat × Nat) × Nat)), outs.Nodup → o ∈ outs →
    countOf (o, cfgClass) (outs.foldl (fun u o => addCount (o, cfgClass) 1 u) u) = countOf (o, cfgClass) u + 1
  | a :: t, u, hn, ho => by
    obtain ⟨ha, ht⟩ := List.nodup_cons.1 hn
    rw [List.foldl_cons]
    by_cases h : o = a
    · have rest : ∀ v, countOf (o, cfgClass) (t.foldl (fun u o => addCount (o, cfgClass) 1 u) v) = countOf (o, cfgClass) v := fun v =>
        List.foldlRecOn (motive := fun w => countOf (o, cfgClass) w = countOf (o, cfgClass) v) t _ rfl fun w hw b hb =>
          (countOf_addCount_ne (fun e => ha (by rw [← h, (Prod.mk.inj e).1]; exact hb)) 1 w).trans hw
      rw [rest, h, countOf_addCount]
    · rw [countOf_foldl_addCount o t _ ht ((List.mem_cons.1 ho).resolve_left h), countOf_addCount_ne fun e => h (Prod.mk.inj e).1]

/-- A write to core SRAM changes the memory and what the core knows of its errors, and nothing else. -/
theorem Core.store_eq (c : Core) (a : Nat) (bs : List Byte) :
    c.store a bs = { c with sram := Memory.write c.sram a bs, ue := (c.store a bs).ue, ce := (c.store a bs).ce, sramce := (c.store a bs).sramce } := by
  unfold Core.store Core.addCe
  dsimp only
  split
  · rfl
  · split <;> rfl
/-- What a core holds of the class, and of its credits on the links. -/
def Core.flow (c : Core) : List CfgFlit × List ((Nat × Nat) × Nat) × List ((Nat × Nat) × Nat) := (c.cfgIn, c.used, c.owed)
theorem Core.flow_store (c : Core) (a : Nat) (bs : List Byte) : (c.store a bs).flow = c.flow := by rw [Core.store_eq]; rfl

theorem State.deliverClass_mgmt (s : State) (l : Nat) (m : CfgMsg) : (s.deliverClass l m).mgmt = s.mgmt := by
  unfold State.deliverClass
  split
  · rfl
  · split <;> rfl
  · split <;> rfl
  · rfl
theorem State.deliverClass_core_ne (s : State) {l k : Nat} (h : k ≠ l) (m : CfgMsg) : (s.deliverClass l m).core k = s.core k := by
  unfold State.deliverClass
  split
  · exact s.core_modCore_ne h _
  · split
    · rfl
    · exact s.core_modCore_ne h _
  · split
    · exact s.core_modCore_ne h _
    · rfl
  · rfl
theorem State.deliverClass_flow (s : State) (l : Nat) (m : CfgMsg) : ((s.deliverClass l m).core l).flow = (s.core l).flow := by
  unfold State.deliverClass
  split
  · rw [State.core_modCore]
    exact foldl_keeps Core.flow (fun (c : Core) (x : Section) => c.store x.addr x.data) (fun c x => c.flow_store x.addr x.data) _ _
  · split
    · rfl
    · rw [State.core_modCore]
      rfl
  · split
    · rw [State.core_modCore]
      rfl
    · rfl
  · rfl
/-- A splice stays at the configuration port, once. -/
theorem State.deliverClass_splice (s : State) (l r : Nat) (g : Image) (plb : Vector Dword 16) (h : ∃ p, p ∈ s.mgmt.parts ∧ p.recVa = r) :
    ((s.deliverClass l (.splice r g plb)).core l).cfg =
      if ((s.core l).cfg.any fun a => a.record == r) || (s.core l).skein == r then (s.core l).cfg else (s.core l).cfg ++ [.splice r g plb] := by
  obtain ⟨p, hp, hr⟩ := h
  have found : ∃ q, (s.mgmt.parts.find? fun p => p.recVa == r) = some q :=
    Option.isSome_iff_exists.1 (List.find?_isSome.2 ⟨p, hp, by simpa using hr⟩)
  obtain ⟨q, hq⟩ := found
  have e : s.deliverClass l (.splice r g plb) =
      if (s.core l).hasCfg r ∨ (s.core l).skein = r then s else s.modCore l fun c => { c with cfg := c.cfg ++ [.splice r g plb] } := by
    unfold State.deliverClass
    rw [show (s.mgmt.parts.find? fun p => p.recVa == (CfgMsg.splice r g plb).record) = some q from hq]
  by_cases h : (s.core l).hasCfg r ∨ (s.core l).skein = r
  · rw [e, if_pos h, if_pos (by simpa [Core.hasCfg] using h)]
  · rw [e, if_neg h, if_neg (by simpa [Core.hasCfg] using h), State.core_modCore]
/-- The code of a transfer goes to SRAM. -/
theorem State.deliverClass_code (s : State) (l r : Nat) (ss : List (Reg40 × Section)) (p : PartRec) (sec : Section)
    (hp : (s.mgmt.parts.find? fun p => p.recVa == r) = some p) (hm : mine (p.rel l).1 (p.rel l).2 ss = [sec]) :
    ((s.deliverClass l (.code r ss)).core l).sram = Memory.write (s.core l).sram sec.addr sec.data := by
  simp only [State.deliverClass, CfgMsg.record, hp, hm, State.core_modCore, List.foldl_cons, List.foldl_nil]
  rw [Core.store_eq]

/-- A flit of the class comes to the router at output o, at the input opposite to it. -/
def State.sendClass (c : Nat) (f : CfgFlit) (s : State) (o : Nat) : State :=
  s.modCore (s.mgmt.torus c o).1 fun y => { y with cfgIn := y.cfgIn ++ [{ f with port := opposite o }] }
theorem State.sendClass_mgmt (c : Nat) (f : CfgFlit) (s : State) (o : Nat) : (s.sendClass c f o).mgmt = s.mgmt := rfl
theorem State.sendClass_core_ne (c : Nat) (f : CfgFlit) (s : State) (o : Nat) {l : Nat} (h : l ≠ (s.mgmt.torus c o).1) :
    (s.sendClass c f o).core l = s.core l := s.core_modCore_ne h _
theorem State.sendClass_cfgIn (c : Nat) (f : CfgFlit) (s : State) (o : Nat) :
    ((s.sendClass c f o).core (s.mgmt.torus c o).1).cfgIn = (s.core (s.mgmt.torus c o).1).cfgIn ++ [{ f with port := opposite o }] := by
  rw [State.sendClass, State.core_modCore]
theorem State.foldl_sendClass_mgmt (c : Nat) (f : CfgFlit) (outs : List Nat) (s : State) : (outs.foldl (State.sendClass c f) s).mgmt = s.mgmt :=
  foldl_keeps State.mgmt (State.sendClass c f) (State.sendClass_mgmt c f) outs s
theorem State.foldl_sendClass_core_ne (c : Nat) (f : CfgFlit) (l : Nat) (outs : List Nat) (s : State)
    (h : l ∉ outs.map (fun o => (s.mgmt.torus c o).1)) : (outs.foldl (State.sendClass c f) s).core l = s.core l := by
  induction outs generalizing s with
  | nil => rfl
  | cons o t ih =>
    rw [List.map_cons, List.mem_cons, not_or] at h
    exact (ih (s.sendClass c f o) h.2).trans (s.sendClass_core_ne c f o h.1)
/-- Each output's router gets the flit. -/
theorem State.foldl_sendClass_cfgIn (c : Nat) (f : CfgFlit) (o : Nat) (outs : List Nat) (s : State)
    (hn : (outs.map fun o => (s.mgmt.torus c o).1).Nodup) (ho : o ∈ outs) :
    ((outs.foldl (State.sendClass c f) s).core (s.mgmt.torus c o).1).cfgIn =
      (s.core (s.mgmt.torus c o).1).cfgIn ++ [{ f with port := opposite o }] := by
  induction outs generalizing s with
  | nil => exact absurd ho List.not_mem_nil
  | cons a t ih =>
    obtain ⟨ha, ht⟩ := List.nodup_cons.1 hn
    rw [List.foldl_cons]
    by_cases h : o = a
    · subst h
      rw [State.foldl_sendClass_core_ne c f (s.mgmt.torus c o).1 t (s.sendClass c f o) ha, State.sendClass_cfgIn]
    · have ho' := (List.mem_cons.1 ho).resolve_left h
      have hne : (s.mgmt.torus c o).1 ≠ (s.mgmt.torus c a).1 := fun e => ha (List.mem_map.2 ⟨o, ho', e⟩)
      rw [← s.sendClass_core_ne c f a hne]
      exact ih (s.sendClass c f a) ht ho'

/-- The router from which the oldest flit of the class leaves: its input's credit goes back, and it takes one of each output. -/
def Core.passesClass (f : CfgFlit) (t : List CfgFlit) (outs : List Nat) (x : Core) : Core :=
  { (if f.port < 4 then x.oweClass f.port 1 else x) with
    cfgIn := t, used := outs.foldl (fun u o => addCount (o, cfgClass) 1 u) x.used }
theorem State.passClass_held (s : State) (c : Nat)
    (h : (s.core c).cfgIn = [] ∨ ∃ o, o ∈ (s.core c).cfgOuts.filter (· < 4) ∧ s.credit c o cfgClass = false) : s.passClass c = s := by
  unfold State.passClass
  dsimp only
  split
  · rfl
  · rename_i e
    obtain ⟨o, ho, hc⟩ := h.resolve_left (by rw [e]; exact List.cons_ne_nil _ _)
    refine if_neg fun ha => ?_
    rw [List.all_eq_true.1 ha o ho] at hc
    exact absurd hc (by decide)
theorem State.passClass_goes (s : State) (c : Nat) {f : CfgFlit} {t : List CfgFlit} (h : (s.core c).cfgIn = f :: t) {outs : List Nat}
    (ho : (s.core c).cfgOuts.filter (· < 4) = outs) (hc : ∀ o, o ∈ outs → s.credit c o cfgClass = true) :
    s.passClass c = f.brings.elim (outs.foldl (State.sendClass c f) (s.modCore c (Core.passesClass f t outs)))
      ((outs.foldl (State.sendClass c f) (s.modCore c (Core.passesClass f t outs))).deliverClass c) := by
  unfold State.passClass
  simp only [h, ho]
  rw [if_pos (List.all_eq_true.2 hc)]
  unfold State.sendClass Core.passesClass
  cases f.brings <;> rfl

/-- What the input of the root's router and the dealer hold once the dealer's next flit has entered there, where it can. -/
def Mgmt.admits (m : Mgmt) (c : Nat) (l : List CfgFlit) : List CfgFlit × List (Nat × CfgMsg × Nat) :=
  if 4 ≤ l.length then (l, m.cfgNet)
  else match takeFirst (fun a : Nat × CfgMsg × Nat => a.1 == c) m.cfgNet with
    | none => (l, m.cfgNet)
    | some ((_, z, k), net) => (l ++ [z.flit k], if k + 1 < z.flits then (c, z, k + 1) :: net else net)
theorem State.admitClass_eq (s : State) (c : Nat) :
    (((s.admitClass c).core c).cfgIn, (s.admitClass c).mgmt.cfgNet) = s.mgmt.admits c (s.core c).cfgIn ∧
      (∀ l, l ≠ c → (s.admitClass c).core l = s.core l) ∧
      ∃ i, (s.admitClass c).core c = { s.core c with cfgIn := i } := by
  unfold State.admitClass Mgmt.admits
  split
  · exact ⟨rfl, fun _ _ => rfl, _, rfl⟩
  · cases takeFirst (fun a : Nat × CfgMsg × Nat => a.1 == c) s.mgmt.cfgNet with
    | none => exact ⟨rfl, fun _ _ => rfl, _, rfl⟩
    | some e =>
      refine ⟨?_, fun l h => State.core_modCore_ne _ h _, _, State.core_modCore _ _ _⟩
      simp only [State.core_modCore]
      rfl

theorem Core.passesClass_sram (f : CfgFlit) (t : List CfgFlit) (outs : List Nat) (x : Core) : (x.passesClass f t outs).sram = x.sram := by
  unfold Core.passesClass; split <;> rfl
theorem Core.passesClass_cfg (f : CfgFlit) (t : List CfgFlit) (outs : List Nat) (x : Core) : (x.passesClass f t outs).cfg = x.cfg := by
  unfold Core.passesClass; split <;> rfl
theorem Core.passesClass_skein (f : CfgFlit) (t : List CfgFlit) (outs : List Nat) (x : Core) : (x.passesClass f t outs).skein = x.skein := by
  unfold Core.passesClass; split <;> rfl
theorem Core.passesClass_owed (f : CfgFlit) (t : List CfgFlit) (outs : List Nat) (x : Core) (h : f.port < 4) :
    countOf (f.port, cfgClass) (x.passesClass f t outs).owed = countOf (f.port, cfgClass) x.owed + 1 := by
  unfold Core.passesClass
  rw [if_pos h]
  exact countOf_addCount _ 1 _
/-- The oldest flit goes: the state before what it brings is delivered. -/
theorem State.passClass_sends (s : State) (c : Nat) {f : CfgFlit} {t : List CfgFlit} (h : (s.core c).cfgIn = f :: t) {outs : List Nat}
    (ho : (s.core c).cfgOuts.filter (· < 4) = outs) (hc : ∀ o, o ∈ outs → s.credit c o cfgClass = true)
    (hn : (outs.map fun o => (s.mgmt.torus c o).1).Nodup) (hs : c ∉ outs.map fun o => (s.mgmt.torus c o).1) :
    ∃ w : State, s.passClass c = f.brings.elim w (w.deliverClass c) ∧ w.mgmt = s.mgmt ∧ w.core c = (s.core c).passesClass f t outs ∧
      ∀ o, o ∈ outs → (w.core (s.mgmt.torus c o).1).cfgIn = (s.core (s.mgmt.torus c o).1).cfgIn ++ [{ f with port := opposite o }] := by
  refine ⟨_, s.passClass_goes c h ho hc, State.foldl_sendClass_mgmt c f outs _, ?_, fun o hm => ?_⟩
  · rw [State.foldl_sendClass_core_ne c f c outs (s.modCore c _) hs, State.core_modCore]
  · have hne : (s.mgmt.torus c o).1 ≠ c := fun e => hs (List.mem_map.2 ⟨o, hm, e⟩)
    rw [← s.core_modCore_ne hne (Core.passesClass f t outs)]
    exact State.foldl_sendClass_cfgIn c f o outs (s.modCore c _) hn hm
/-- What a delivery leaves alone, if there is one. -/
theorem State.elim_deliverClass (w : State) (c : Nat) (b : Option CfgMsg) : (b.elim w (w.deliverClass c)).mgmt = w.mgmt ∧
    (∀ k, k ≠ c → (b.elim w (w.deliverClass c)).core k = w.core k) ∧ ((b.elim w (w.deliverClass c)).core c).flow = (w.core c).flow := by
  cases b with
  | none => exact ⟨rfl, fun _ _ => rfl, rfl⟩
  | some m => exact ⟨w.deliverClass_mgmt c m, fun k h => w.deliverClass_core_ne h m, w.deliverClass_flow c m⟩

/-- CONFIG_CLASS_MESSAGE where no flit can go: only the dealer's next one may enter. -/
theorem execConfigClassMessage_held (s : State) (c : Nat)
    (h : (s.core c).cfgIn = [] ∨ ∃ o, o ∈ (s.core c).cfgOuts.filter (· < 4) ∧ s.credit c o cfgClass = false) :
    ∃ t, execConfigClassMessage c s = .next t ∧ ((t.core c).cfgIn, t.mgmt.cfgNet) = s.mgmt.admits c (s.core c).cfgIn ∧
      (∀ l, l ≠ c → t.core l = s.core l) ∧ (t.core c).used = (s.core c).used ∧ (t.core c).owed = (s.core c).owed ∧
      (t.core c).sram = (s.core c).sram ∧ (t.core c).cfg = (s.core c).cfg := by
  obtain ⟨hin, hne, i, hc⟩ := s.admitClass_eq c
  refine ⟨s.admitClass c, by rw [execConfigClassMessage, s.passClass_held c h], hin, hne, ?_⟩
  rw [hc]
  exact ⟨rfl, rfl, rfl, rfl⟩
/-- CONFIG_CLASS_MESSAGE where the oldest flit goes. -/
theorem execConfigClassMessage_goes (s : State) (c : Nat) {z : CfgFlit} {rest : List CfgFlit} (h : (s.core c).cfgIn = z :: rest) {outs : List Nat}
    (ho : (s.core c).cfgOuts.filter (· < 4) = outs) (hc : ∀ o, o ∈ outs → s.credit c o cfgClass = true)
    (hn : (outs.map fun o => (s.mgmt.torus c o).1).Nodup) (hs : c ∉ outs.map fun o => (s.mgmt.torus c o).1) :
    ∃ t, execConfigClassMessage c s = .next t ∧ ((t.core c).cfgIn, t.mgmt.cfgNet) = s.mgmt.admits c rest ∧
      (∀ o, o ∈ outs → (t.core (s.mgmt.torus c o).1).cfgIn = (s.core (s.mgmt.torus c o).1).cfgIn ++ [{ z with port := opposite o }] ∧
        countOf (o, cfgClass) (t.core c).used = countOf (o, cfgClass) (s.core c).used + 1) ∧
      (z.port < 4 → countOf (z.port, cfgClass) (t.core c).owed = countOf (z.port, cfgClass) (s.core c).owed + 1) ∧
      (z.brings = none → (t.core c).sram = (s.core c).sram ∧ (t.core c).cfg = (s.core c).cfg) ∧
      (∀ r g plb, z.brings = some (.splice r g plb) → (∃ p, p ∈ s.mgmt.parts ∧ p.recVa = r) → (t.core c).cfg =
        if ((s.core c).cfg.any fun a => a.record == r) || (s.core c).skein == r then (s.core c).cfg else (s.core c).cfg ++ [.splice r g plb]) ∧
      (∀ r ss p sec, z.brings = some (.code r ss) → (s.mgmt.parts.find? fun p => p.recVa == r) = some p →
        mine (p.rel c).1 (p.rel c).2 ss = [sec] → (t.core c).sram = Memory.write (s.core c).sram sec.addr sec.data) := by
  obtain ⟨w, hw, hm, hwc, hto⟩ := s.passClass_sends c h ho hc hn hs
  obtain ⟨um, une, ucl⟩ := w.elim_deliverClass c z.brings
  rw [← hw] at um une ucl
  obtain ⟨hin, hne, i, hcore⟩ := (s.passClass c).admitClass_eq c
  obtain ⟨uin, uused, uowed⟩ : ((s.passClass c).core c).cfgIn = rest ∧
      ((s.passClass c).core c).used = ((s.core c).passesClass z rest outs).used ∧
      ((s.passClass c).core c).owed = ((s.core c).passesClass z rest outs).owed := by
    rw [hwc] at ucl
    simp only [Core.flow, Prod.mk.injEq] at ucl
    exact ucl
  refine ⟨_, rfl, ?_, fun o hm' => ⟨?_, ?_⟩, fun hp => ?_, fun hb => ?_, fun r g plb hb hp => ?_, fun r ss p sec hb hp hmine => ?_⟩
  · rw [hin, uin, um, hm]
  · have ht : (s.mgmt.torus c o).1 ≠ c := fun e => hs (List.mem_map.2 ⟨o, hm', e⟩)
    rw [hne _ ht, une _ ht, hto o hm']
  · rw [hcore]
    exact (congrArg _ uused).trans (countOf_foldl_addCount o outs _ ((List.pairwise_map.1 hn).imp fun h e => h (by rw [e])) hm')
  · rw [hcore]
    exact (congrArg _ uowed).trans (Core.passesClass_owed z rest outs _ hp)
  · rw [hcore, hw, hb]
    simp only [Option.elim_none, hwc, Core.passesClass_sram, Core.passesClass_cfg, and_self]
  · rw [hcore, hw, hb]
    have hd := w.deliverClass_splice c r g plb (hm ▸ hp)
    rw [hwc, Core.passesClass_cfg, Core.passesClass_skein] at hd
    exact hd
  · rw [hcore, hw, hb]
    have hd := w.deliverClass_code c r ss p sec (hm ▸ hp) hmine
    rw [hwc, Core.passesClass_sram] at hd
    exact hd

/-! ### SPLICE_ACCEPT (R106, R371) -/

/-- Core c belongs to the skein of record p, and no record waits behind it. -/
structure State.Heads (s : State) (c : Nat) (p : PartRec) : Prop where
  owner : (s.core c).owner = p.owner
  front : ∀ q, q ∈ s.mgmt.parts → q.succOf ≠ some p.recVa

theorem State.Heads.tends {s t : State} {c : Nat} {p : PartRec} (h : s.Heads c p) (ht : s.Tends t) : t.Heads c p :=
  ⟨(ht.core c).owner.trans h.owner, by rw [ht.mgmt]; exact h.front⟩
/-- A change that leaves the cores, and lets a record lose its predecessor at most. -/
theorem State.Heads.of {s t : State} {c : Nat} {p : PartRec} (h : s.Heads c p) (hc : t.core c = s.core c)
    (hp : ∀ q, q ∈ t.mgmt.parts → q.succOf = none ∨ ∃ x, x ∈ s.mgmt.parts ∧ q.succOf = x.succOf) : t.Heads c p := by
  refine ⟨by rw [hc]; exact h.owner, fun q hq => ?_⟩
  rcases hp q hq with e | ⟨x, hx, e⟩
  · rw [e]
    exact Option.some_ne_none _ |>.symm
  · rw [e]
    exact h.front x hx
theorem State.Heads.same {s t : State} {c : Nat} {p : PartRec} (h : s.Heads c p) (hc : t.core c = s.core c) (hp : t.mgmt.parts = s.mgmt.parts) :
    t.Heads c p :=
  h.of hc fun q hq => .inr ⟨q, hp ▸ hq, rfl⟩
theorem State.Heads.modPart {s : State} {c : Nat} {p : PartRec} (h : s.Heads c p) (va : Nat) (f : PartRec → PartRec)
    (hf : ∀ q, (f q).succOf = none ∨ (f q).succOf = q.succOf) : (s.modPart va f).Heads c p := by
  refine h.of rfl fun q hq => ?_
  obtain ⟨x, hx, rfl⟩ := List.mem_map.1 hq
  split
  · exact (hf x).imp_right fun e => ⟨x, hx, e⟩
  · exact .inr ⟨x, hx, rfl⟩
theorem State.Heads.endRecord {s : State} {c : Nat} {p : PartRec} (h : s.Heads c p) (q : PartRec) (state cause count fcol frow : Nat) :
    (s.endRecord q state cause count fcol frow).Heads c p := by
  obtain ⟨t, i, ht, he⟩ := s.endRecord_eq q state cause count fcol frow
  rw [he]
  exact (h.tends ht).same (State.core_congr rfl rfl c) rfl

theorem State.withdraw_core_ne (s : State) {l c : Nat} (h : c ≠ l) (k : BitVec 3) : (s.withdraw l k).core c = s.core c := by
  unfold State.withdraw
  split
  · rfl
  · exact State.core_modCore_ne _ h _
theorem State.withdraw_mgmt (s : State) (l : Nat) (k : BitVec 3) : (s.withdraw l k).mgmt = s.mgmt := by
  unfold State.withdraw
  split <;> rfl
theorem State.releaseCore_core_ne (s : State) {l c : Nat} (h : c ≠ l) : (s.releaseCore l).core c = s.core c := by
  unfold State.releaseCore
  refine (State.core_congr (State.modDomain_cores _ _ _) (State.modDomain_cycles _ _ _) c).trans ?_
  exact (foldl_keeps (fun t : State => t.core c) (fun t k => t.withdraw l k) (fun t k => t.withdraw_core_ne h k) slots _).trans
    (State.core_congr rfl rfl c)
theorem State.releaseCore_mgmt (s : State) (l : Nat) : (s.releaseCore l).mgmt = s.mgmt := by
  unfold State.releaseCore
  refine (State.modDomain_mgmt _ _ _).trans ?_
  exact foldl_keeps State.mgmt (fun t k => t.withdraw l k) (fun t k => t.withdraw_mgmt l k) slots _

/-- The end of a skein on one core (R284, R370). -/
def State.endCore (q : PartRec) (s : State) (l : Nat) : State :=
  if (s.core l).skein = q.recVa then
    ({ s.releaseCore l with colls := s.colls.map (·.rehome l nobody) } : State).modCore l fun c =>
      { c with routes := Vector.replicate 64 0, streams := Vector.replicate 16 Stream.reset, part := none, skein := 0, priv := false, splice := false }
  else s
theorem State.endSkein_eq (s : State) (q : PartRec) :
    s.endSkein q = ((q.cores.foldl (State.endCore q) s).dropPart q.recVa).regrants q := rfl
theorem State.Heads.endCore {s : State} {c : Nat} {p : PartRec} (h : s.Heads c p) (q : PartRec) (hq : q.recVa ≠ p.recVa) (l : Nat) :
    (s.endCore q l).Heads c p := by
  unfold State.endCore
  split
  · rename_i hl
    have hc : c ≠ l := by
      rintro rfl
      exact hq (hl.symm.trans (((s.core c).owner_eq_iff p).1 h.owner).1)
    have released := h.same (s.releaseCore_core_ne hc) (congrArg Mgmt.parts (s.releaseCore_mgmt l))
    generalize s.releaseCore l = u at released
    exact released.same (State.core_modCore_ne _ hc _) rfl
  · exact h
/-- The end of another skein leaves a core that is not its own. -/
theorem State.Heads.endSkein {s : State} {c : Nat} {p : PartRec} (h : s.Heads c p) (q : PartRec) (hq : q.recVa ≠ p.recVa) :
    (s.endSkein q).Heads c p := by
  have hf := List.foldlRecOn (motive := fun t : State => t.Heads c p) q.cores (State.endCore q) h fun t ht l _ => ht.endCore q hq l
  rw [State.endSkein_eq]
  generalize q.cores.foldl (State.endCore q) s = u at hf
  refine hf.of ((State.regrants_core _ q c).trans (State.core_congr rfl rfl c)) fun x hx => ?_
  rw [State.regrants_mgmt] at hx
  exact .inr ⟨x, (List.mem_filter.1 hx).1, rfl⟩
theorem State.Heads.endPredecessors {s : State} {c : Nat} {p : PartRec} (h : s.Heads c p) : s.endPredecessors.Heads c p := by
  unfold State.endPredecessors
  refine List.foldlRecOn (motive := fun t : State => t.Heads c p) s.mgmt.parts _ h fun t ht q _ => ?_
  split
  · exact ht
  · rename_i y hy
    have hne : q.recVa ≠ p.recVa := fun e => ht.front y (List.mem_of_find?_eq_some hy) (by simpa [e] using List.find?_some hy)
    split
    · exact ((ht.endRecord q 4 0 q.accepted 0 0).endSkein q hne).modPart _ _ fun _ => .inl rfl
    · exact ht

/-- SPLICE_ACCEPT waits for the core's splice point and for the last strand of the predecessor to be gone. -/
theorem execSpliceAccept_waits (s : State) (c : Nat) {r : Nat} {g : Image} {plb : Vector Dword 16} {rest : List CfgMsg}
    (hc : (s.core c).cfg = .splice r g plb :: rest) (h : (s.core c).splice = false ∨ (s.core c).residents ≠ []) : execSpliceAccept c s = .next s := by
  unfold execSpliceAccept
  simp only [hc]
  exact if_pos (by simpa using h)
/-- Then the core belongs to the successor. -/
theorem execSpliceAccept_takes (s : State) (c : Nat) {r : Nat} {g : Image} {plb : Vector Dword 16} {rest : List CfgMsg} {p : PartRec}
    (hc : (s.core c).cfg = .splice r g plb :: rest) (hs : (s.core c).splice = true) (hr : (s.core c).residents = [])
    (hp : (s.mgmt.parts.find? fun q => q.recVa == r) = some p) (hf : ∀ q, q ∈ s.mgmt.parts → q.succOf ≠ some r) :
    ∃ t, execSpliceAccept c s = .next t ∧ (t.core c).owner = p.owner := by
  have hpr : p.recVa = r := by simpa using List.find?_some hp
  unfold execSpliceAccept
  simp only [hc, hs, hr, hp]
  refine ⟨_, rfl, State.Heads.owner ((State.Heads.endPredecessors (p := p) ?_).same rfl rfl)⟩
  refine State.Heads.tends ?_ (State.tends_writeStatus _ p 3 0 _ 0 0)
  refine State.Heads.modPart ?_ r _ fun _ => .inr rfl
  refine ⟨?_, ?_⟩
  · rw [State.sendStart_owner, State.core_setCore, Core.owner_takeRecord]
  · rw [State.sendStart_mgmt, State.setCore_mgmt, State.releaseCore_mgmt, hpr]
    exact hf

end Sys2Proof.Machine
end

section
/-! The obligation on the dealer. -/

namespace Sys2Proof.Machine

/-- Settles O57, clause by clause from what selection, loading, the configuration class and a splice's acceptance do. -/
theorem dealerStarts : Obligations.DealerStarts := by
  unfold Obligations.DealerStarts
  intro s c
  refine ⟨s.mgmt.served_pairwise, s.mgmt.mem_served, execDealerSelection_waits s, fun hl hb ht => ?_, execLaunchLoad_none s, fun p hp => ?_,
    execConfigClassMessage_held s c, fun z rest hz hc hn hs => ?_, fun r g plb rest hc => ⟨execSpliceAccept_waits s c hc, fun p hs hr hp hf => ?_⟩⟩
  · obtain ⟨hmoved, hnone, hsome⟩ := execDealerSelection_selects s hl hb ht
    exact ⟨fun p hp => ⟨_, hmoved _ (s.mgmt.readyRemap_eq_some hp), rfl, rfl, rfl⟩, fun hm => hnone (s.mgmt.readyRemap_eq_none hm),
      fun u p hm => hsome u p (s.mgmt.readyRemap_eq_none hm)⟩
  · refine ⟨execLaunchLoad_takeover s hp, execLaunchLoad_inTheWay s hp,
      fun ht hst => ⟨fun hu => execLaunchLoad_undelivered s hp ht hst ((s.classDone_eq_false p).2 hu), fun hu hk hw => ?_⟩,
      s.mgmt.recordCause_eq_one p, fun ht hst hw => ⟨execLaunchLoad_fails s hp ht hst hw, fun u g hc hk hi hg => ?_⟩⟩
    · have done : s.classDone p = true := by
        rw [← Bool.not_eq_false, s.classDone_eq_false p]
        exact hu
      exact ⟨s.finishLoad p, execLaunchLoad_delivered s hp ht hst done, s.finishLoad_launch p hk fun l hl j => hw l j hl⟩
    · obtain ⟨he, hum⟩ := execLaunchLoad_launch s hp ht hst hw hc hk hi hg
      refine ⟨u.dealLaunch p g, { p with rowdiv := BitVec.ofNat 4 g.rowdiv, st := .loading }, he, ?_⟩
      rw [u.dealLaunch_mgmt p g, hum]
      refine ⟨rfl, rfl, rfl, rfl, rfl, fun l hl => ?_⟩
      obtain ⟨ho, hc⟩ := u.dealLaunch_core p g l hl
      obtain ⟨hskein, hpart, hsig, hpriv⟩ := (Core.owner_eq_iff _ p).1 ho
      exact ⟨hskein, hpart, hpriv, hsig, hc⟩
  · obtain ⟨t, ht, hin, houts, howed, hnone, hsplice, hcode⟩ := execConfigClassMessage_goes s c hz rfl hc hn hs
    refine ⟨t, ht, hin, houts, howed, hnone, hsplice, fun r ss p sec hb hp hm hwf hlen i hi => ?_⟩
    rw [hcode r ss p sec hb hp hm]
    have hat := Memory.get_write_at sec.data sec.addr hwf (by omega) i hi
    rwa [Nat.mod_eq_of_lt (by omega)] at hat
  · obtain ⟨t, ht, ho⟩ := execSpliceAccept_takes s c hc hs hr hp hf
    obtain ⟨hskein, hpart, hsig, hpriv⟩ := (Core.owner_eq_iff _ p).1 ho
    have hpr : p.recVa = r := by simpa using List.find?_some hp
    exact ⟨t, ht, hskein.trans hpr, hpart, hsig, hpriv⟩

end Sys2Proof.Machine
end

section
/-! Scalar floating point (R113 to R116): the result of the unit with its flags, and the obligation on it. -/

namespace Sys2Proof.Machine

/-- A result of the scalar FP unit completes and writes g[d] with its flags. -/
theorem State.fpResult_writes (s : State) (d : BitVec 4) (v : Word) (fl : FFlags) (lat : Nat) :
    ∃ t, s.fpResult d v fl lat = .next t ∧ s.writesGFlags t d v lat (fl.zeroExtend 7) true s.me :=
  ⟨_, rfl, s.writesGFlags_flagged d v lat _ true⟩
/-- The same with the divide and square-root unit taken for n core cycles. -/
theorem State.fpResult_useFdiv_writes (s : State) (n : Nat) (d : BitVec 4) (v : Word) (fl : FFlags) (lat : Nat) :
    ∃ t, (s.useFdiv n).fpResult d v fl lat = .next t ∧ s.writesGFlags t d v lat (fl.zeroExtend 7) true
      (s.me.withUnits fun u => { u with fdiv := s.cc + n }) :=
  ⟨_, rfl, s.writesGFlags_unitBefore d v lat _ true fun c => { c.units with fdiv := c.cc + n }⟩

/-- A NaN is made where it stands for the result and for no operand. -/
theorem madeNan_eq_all (v : Val) (ops : List Val) : madeNan v ops = (v.isNan && ops.all fun o => !o.isNan) := by
  rw [madeNan, List.not_any_eq_all_not]
theorem fpIV_one (x : Word) (c : Bool) : fpIV [x] c = if c || isSnan x then 0b00001 else 0 := by
  simp [fpIV, fIV]
theorem fpIV_two (x y : Word) (c : Bool) : fpIV [x, y] c = if c || (isSnan x || isSnan y) then 0b00001 else 0 := by
  simp [fpIV, fIV]
theorem fpIV_three (x y z : Word) (c : Bool) :
    fpIV [x, y, z] c = if c || (isSnan x || isSnan y) || isSnan z then 0b00001 else 0 := by
  simp [fpIV, fIV, Bool.or_assoc]

/-- Settles O16: each instruction is one result of the unit, and its IV is the model's in the words of Table 5.6. -/
theorem floatResults : Obligations.FloatResults := by
  unfold Obligations.FloatResults
  constructor
  · intro s d a b m p sx ty i v fl lat x y z md sn made iv h
    have hmade : ∀ r ops, made r ops = madeNan r ops := fun r ops => (madeNan_eq_all r ops).symm
    have hsn : iv sn = fpIV [s.g a, s.g b] false := (fpIV_two _ _ false).symm
    have htwo : ∀ c, iv (c || sn) = fpIV [s.g a, s.g b] c := fun c => (fpIV_two _ _ c).symm
    have hthree : ∀ c, iv (c || sn || isSnan (s.g d)) = fpIV [s.g a, s.g b, s.g d] c := fun c => (fpIV_three _ _ _ c).symm
    simp only [List.mem_cons, List.not_mem_nil, or_false, Prod.mk.injEq, hmade, hsn, htwo, hthree] at h
    rcases h with ⟨rfl, rfl, rfl, rfl⟩ | ⟨rfl, rfl, rfl, rfl⟩ | ⟨rfl, rfl, rfl, rfl⟩ | ⟨rfl, rfl, rfl, rfl⟩ | ⟨rfl, rfl, rfl, rfl⟩ |
      ⟨rfl, rfl, rfl, rfl⟩ | ⟨rfl, rfl, rfl, rfl⟩ | ⟨rfl, rfl, rfl, rfl⟩ | ⟨rfl, rfl, rfl, rfl⟩ | ⟨rfl, rfl, rfl, rfl⟩ <;>
    exact s.fpResult_writes ..
  · intro s d a b m x y q r iv dz
    have hdiv : iv ((x.div y).isNan && !x.isNan && !y.isNan || isSnan (s.g a) || isSnan (s.g b)) =
        fpIV [s.g a, s.g b] (madeNan (x.div y) [x, y]) := by
      simp [fpIV_two, madeNan_eq_all, iv, Bool.and_assoc, Bool.or_assoc]
    have hsqrt : iv (x.sqrt.isNan && !x.isNan || isSnan (s.g a)) = fpIV [s.g a] (madeNan x.sqrt [x]) := by
      simp [fpIV_one, madeNan_eq_all, iv]
    rw [hdiv, hsqrt]
    exact ⟨s.fpResult_useFdiv_writes .., s.fpResult_useFdiv_writes ..⟩

end Sys2Proof.Machine
end

section
/-! Bits of words: sign extension, the counts of Table 5.1 and the fields of R112, and the obligation on them. -/

namespace Sys2Proof.Machine

/-! ### Sign extension -/

/-- SEXT of the low n bits is the two's-complement value of those n bits. -/
theorem sext_eq_toInt (x n : Nat) : sext x n = (BitVec.ofNat n x).toInt := by
  simp [sext, BitVec.toInt]
/-- SEXT placed in a word is the sign extension of the low n bits. -/
theorem ofInt_sext (w x n : Nat) : BitVec.ofInt w (sext x n) = (BitVec.ofNat n x).signExtend w := by
  rw [sext_eq_toInt, BitVec.signExtend]
theorem getLsbD_ofInt_sext (w x n j : Nat) (hn : 0 < n) :
    (BitVec.ofInt w (sext x n)).getLsbD j = (decide (j < w) && if j < n then x.testBit j else x.testBit (n - 1)) := by
  rw [ofInt_sext, BitVec.getLsbD_signExtend, BitVec.msb_eq_getLsbD_last, BitVec.getLsbD_ofNat, BitVec.getLsbD_ofNat]
  by_cases h : j < n
  · rw [if_pos h, if_pos h, decide_eq_true h, Bool.true_and]
  · rw [if_neg h, if_neg h, decide_eq_true (show n - 1 < n by omega), Bool.true_and]
/-- The low n bits of SEXT placed in a wider word are those it was made from. -/
theorem ofInt_sext_toNat_mod {w n : Nat} (hn : 0 < n) (h : n ≤ w) (x : Nat) : (BitVec.ofInt w (sext x n)).toNat % 2 ^ n = x % 2 ^ n := by
  refine Nat.eq_of_testBit_eq fun j => ?_
  rw [Nat.testBit_mod_two_pow, Nat.testBit_mod_two_pow, BitVec.testBit_toNat, getLsbD_ofInt_sext w x n j hn]
  by_cases hj : j < n
  · simp [hj, show j < w by omega]
  · simp [hj]

/-! ### Counts -/

theorem leadZeros_le (w : Word) : ∀ n, leadZeros w n ≤ n
  | 0 => Nat.le_refl 0
  | n + 1 => by
    have := leadZeros_le w n
    rw [leadZeros]
    split <;> omega
theorem leadZeros_zeros (w : Word) : ∀ n k, k < leadZeros w n → w.getLsbD (n - 1 - k) = false
  | n + 1, k, h => by
    rw [leadZeros] at h
    split at h
    · omega
    · next hn =>
      cases k with
      | zero => simpa using hn
      | succ k =>
        rw [show n + 1 - 1 - (k + 1) = n - 1 - k by omega]
        exact leadZeros_zeros w n k (by omega)
theorem leadZeros_stop (w : Word) : ∀ n, leadZeros w n < n → w.getLsbD (n - 1 - leadZeros w n) = true
  | n + 1, h => by
    rw [leadZeros] at h ⊢
    split
    · next hn => simpa using hn
    · next hn =>
      rw [if_neg hn] at h
      rw [show n + 1 - 1 - (leadZeros w n + 1) = n - 1 - leadZeros w n by omega]
      exact leadZeros_stop w n (by omega)

theorem trailZeros_le (w : Word) : ∀ n i, trailZeros w n i ≤ n
  | 0, _ => Nat.le_refl 0
  | n + 1, i => by
    have := trailZeros_le w n (i + 1)
    rw [trailZeros]
    split <;> omega
theorem trailZeros_zeros (w : Word) : ∀ n i k, k < trailZeros w n i → w.getLsbD (i + k) = false
  | n + 1, i, k, h => by
    rw [trailZeros] at h
    split at h
    · omega
    · next hi =>
      cases k with
      | zero => simpa using hi
      | succ k =>
        rw [show i + (k + 1) = i + 1 + k by omega]
        exact trailZeros_zeros w n (i + 1) k (by omega)
theorem trailZeros_stop (w : Word) : ∀ n i, trailZeros w n i < n → w.getLsbD (i + trailZeros w n i) = true
  | n + 1, i, h => by
    rw [trailZeros] at h ⊢
    split
    · next hi => simpa using hi
    · next hi =>
      rw [if_neg hi] at h
      rw [show i + (trailZeros w n (i + 1) + 1) = i + 1 + trailZeros w n (i + 1) by omega]
      exact trailZeros_stop w n (i + 1) (by omega)

theorem ones_eq_countP (w : Word) : ∀ n, ones w n = (List.range n).countP fun k => w.getLsbD k
  | 0 => rfl
  | n + 1 => by
    rw [ones, ones_eq_countP w n, List.range_succ, List.countP_append, List.countP_singleton]
    rfl

/-! ### Fields -/

theorem testBit_field (x : Word) (lo len j : Nat) : (field x.toNat lo len).testBit j = (decide (j < len) && x.getLsbD (lo + j)) := by
  rw [field, Nat.testBit_mod_two_pow, Nat.testBit_div_two_pow, Nat.add_comm, BitVec.testBit_toNat]
/-- BFX: bits p+w:p of x, and above them zeros, or with sx = 1 copies of bit p+w. -/
theorem getLsbD_extracted (x : Word) (sx : BitVec 1) (p w j : Nat) (hj : j < 32) :
    (if sx = 1 then BitVec.ofInt 32 (sext (field x.toNat p (w + 1)) (w + 1)) else BitVec.ofNat 32 (field x.toNat p (w + 1))).getLsbD j =
      if j ≤ w then x.getLsbD (p + j) else sx == 1 && x.getLsbD (p + w) := by
  have hlt : (j < w + 1) = (j ≤ w) := propext Nat.lt_succ_iff
  have hlast : decide (w < w + 1) = true := decide_eq_true w.lt_succ_self
  by_cases hs : sx = 1
  · rw [if_pos hs, getLsbD_ofInt_sext 32 _ (w + 1) j w.succ_pos, testBit_field, testBit_field, beq_iff_eq.2 hs, decide_eq_true hj,
      Nat.add_sub_cancel, hlast]
    by_cases hw : j ≤ w <;> simp only [hlt, hw, decide_true, if_true, if_false, Bool.true_and]
  · rw [if_neg hs, BitVec.getLsbD_ofNat, testBit_field, beq_false_of_ne hs, decide_eq_true hj]
    by_cases hw : j ≤ w <;> simp only [hlt, hw, decide_true, decide_false, if_true, if_false, Bool.true_and, Bool.false_and]
/-- The w + 1 ones from bit p on. -/
theorem getLsbD_mask (p w j : Nat) (hj : j < 32) :
    (BitVec.ofNat 32 (2 ^ (w + 1) - 1) <<< p).getLsbD j = decide (p ≤ j ∧ j ≤ p + w) := by
  rw [BitVec.getLsbD_shiftLeft, BitVec.getLsbD_ofNat, Nat.testBit_two_pow_sub_one]
  rw [Bool.eq_iff_iff]
  simp
  omega
/-- BFI: bits p+w:p from x, the others from old. -/
theorem getLsbD_inserted (old x mask : Word) (p w j : Nat) (hj : j < 32) (hm : mask = BitVec.ofNat 32 (2 ^ (w + 1) - 1) <<< p) :
    ((old &&& ~~~mask) ||| ((x <<< p) &&& mask)).getLsbD j =
      if p ≤ j ∧ j ≤ p + w then x.getLsbD (j - p) else old.getLsbD j := by
  subst hm
  rw [BitVec.getLsbD_or, BitVec.getLsbD_and, BitVec.getLsbD_and, BitVec.getLsbD_not, getLsbD_mask p w j hj, BitVec.getLsbD_shiftLeft]
  by_cases h : p ≤ j ∧ j ≤ p + w
  · simp [h, hj]
  · simp [h, hj]

/-- An integer result completes and writes g[d]. -/
theorem State.result_writes (s : State) (d : BitVec 4) (v : Word) : ∃ t, s.result d v = .next t ∧ s.writesG t d v 1 :=
  ⟨_, rfl, s.writesG_setG d v 1⟩

/-- Settles O12: the counts by recursion on the bits they have looked at, the fields bit by bit. -/
theorem bitCountsAndFields : Obligations.BitCountsAndFields := by
  unfold Obligations.BitCountsAndFields
  refine ⟨fun s d a => ⟨?_, ?_, ?_⟩, fun s d a sx p w _ => ⟨?_, ?_⟩⟩
  · obtain ⟨t, ht, hw⟩ := s.result_writes d (BitVec.ofNat 32 (leadZeros (s.g a) 32))
    exact ⟨t, _, ht, hw, leadZeros_le _ 32, leadZeros_zeros _ 32, leadZeros_stop _ 32⟩
  · obtain ⟨t, ht, hw⟩ := s.result_writes d (BitVec.ofNat 32 (trailZeros (s.g a) 32 0))
    refine ⟨t, _, ht, hw, trailZeros_le _ 32 0, fun k hk => ?_, fun h => ?_⟩
    · simpa using trailZeros_zeros _ 32 0 k hk
    · simpa using trailZeros_stop _ 32 0 h
  · rw [← ones_eq_countP]
    exact s.result_writes d _
  · obtain ⟨t, ht, hw⟩ := s.result_writes d _
    exact ⟨t, _, ht, hw, getLsbD_extracted (s.g a) sx p.toNat w.toNat⟩
  · obtain ⟨t, ht, hw⟩ := s.result_writes d _
    exact ⟨t, _, ht, hw, fun j hj => getLsbD_inserted _ _ _ _ _ j hj rfl⟩

end Sys2Proof.Machine
end

section
/-! Vector registers: what a lane and a side pair read after the results of R120, and what an instruction that writes one
through the vector unit leaves behind. -/

namespace Sys2Proof.Machine

theorem getD_map_range {α : Type} (g : Nat → α) (d : α) {n i : Nat} (h : i < n) : ((List.range n).map g).getD i d = g i := by
  simp [h]

theorem getD_replicate_lt {α : Type} (x d : α) {n i : Nat} (h : i < n) : (List.replicate n x).getD i d = x := by
  rw [List.getD_eq_getElem?_getD, List.getElem?_replicate, if_pos h, Option.getD_some]

/-! ### Lanes -/

theorem lanesOf_eq (f : BitVec 3) : lanesOf f = 16 ∨ lanesOf f = 32 := by
  unfold lanesOf
  split <;> simp
theorem lanesOf_le (f : BitVec 3) : lanesOf f ≤ 32 := by
  rcases lanesOf_eq f with h | h <;> omega
/-- What a lane of a format holds of a word: all of it, or its low 16 bits (Table 5.7). -/
def laneFit (f : BitVec 3) (w : Word) : Word := if lanesOf f = 16 then w else (w.truncate 16 : BitVec 16).zeroExtend 32

theorem VReg.lane16_ofFn (g : Fin 32 → BitVec 16) (sd : Word) {i : Nat} (h : i < 32) :
    (⟨Vector.ofFn g, sd⟩ : VReg).lane16 i = g ⟨i, h⟩ := by
  simp [VReg.lane16, h]
theorem word_halves (w : Word) : BitVec.ofNat 16 (w.toNat / 65536 ^ 1) ++ BitVec.ofNat 16 (w.toNat / 65536 ^ 0) = w := by
  refine BitVec.eq_of_toNat_eq ?_
  rw [BitVec.toNat_append, ← Nat.shiftLeft_add_eq_or_of_lt (BitVec.isLt _), Nat.shiftLeft_eq, BitVec.toNat_ofNat, BitVec.toNat_ofNat]
  omega
theorem VReg.lane_withLanes (r : VReg) (f : BitVec 3) (ls : List Word) {i : Nat} (h : i < lanesOf f) :
    (r.withLanes f ls).lane f i = laneFit f (ls.getD i 0) := by
  rcases lanesOf_eq f with h16 | h32
  · have hi : i < 16 := h16 ▸ h
    rw [laneFit, if_pos h16, VReg.lane, if_pos h16, VReg.withLanes, VReg.lane16_ofFn _ _ (by omega), VReg.lane16_ofFn _ _ (by omega),
      if_pos h16, if_pos h16]
    simp only [show (2 * i + 1) / 2 = i by omega, show (2 * i + 1) % 2 = 1 by omega, show 2 * i / 2 = i by omega,
      show 2 * i % 2 = 0 by omega]
    exact word_halves _
  · have hn : ¬ lanesOf f = 16 := by omega
    rw [laneFit, if_neg hn, VReg.lane, if_neg hn, VReg.withLanes, VReg.lane16_ofFn _ _ (by omega), if_neg hn]
@[simp] theorem laneFit_lane (f : BitVec 3) (r : VReg) (i : Nat) : laneFit f (r.lane f i) = r.lane f i := by
  by_cases h : lanesOf f = 16 <;> simp [laneFit, VReg.lane, h]
/-- The lanes that a mask selects replaced by words, the others kept. -/
theorem VReg.lane_withSelected (r : VReg) (f : BitVec 3) (m : Word) (g : Nat → Word) {i : Nat} (h : i < lanesOf f) :
    (r.withLanes f ((List.range (lanesOf f)).map fun j => if selected m j then g j else r.lane f j)).lane f i =
      if m.getLsbD i = true then laneFit f (g i) else r.lane f i := by
  rw [VReg.lane_withLanes r f _ h, getD_map_range _ _ h, selected]
  split
  · rfl
  · rw [laneFit_lane]

/-! ### Side pairs -/

theorem VReg.sideOf_withLanes (r : VReg) (f : BitVec 3) (ls : List Word) (p : Nat) : (r.withLanes f ls).sideOf p = r.sideOf p := by
  rw [VReg.sideOf, VReg.sideOf, VReg.withLanes]
/-- Each half of a side word is the side pair of its block. -/
theorem sideOf_sideWord (lanes : Vector (BitVec 16) 32) (side : Nat → BitVec 16) {p : Nat} (h : p < 2) :
    VReg.sideOf ⟨lanes, sideWord (side 0) (side 1)⟩ p = side p := by
  have e : (sideWord (side 0) (side 1)).toNat = (side 1).toNat * 65536 + (side 0).toNat := by
    rw [sideWord, BitVec.toNat_append, ← Nat.shiftLeft_add_eq_or_of_lt (BitVec.isLt _), Nat.shiftLeft_eq]
  refine BitVec.eq_of_toNat_eq ?_
  rw [VReg.sideOf, e, BitVec.toNat_ofNat]
  obtain rfl | rfl : p = 0 ∨ p = 1 := by omega
  all_goals omega
theorem any_selected_iff (m : Word) (b : Nat) :
    ((List.range 16).any fun i => selected m (16 * b + i)) = true ↔ ∃ j, j < 16 ∧ m.getLsbD (16 * b + j) = true := by
  simp [selected]

/-! ### Raw results -/

theorem VReg.lane_rawResult (old : VReg) (f : BitVec 3) (m : Word) (new : List Word) (side : Word) {i : Nat} (h : i < lanesOf f) :
    (old.rawResult f m new side).lane f i = if m.getLsbD i = true then laneFit f (new.getD i 0) else old.lane f i := by
  rw [← VReg.lane_withSelected old f m (fun j => new.getD j 0) h, VReg.rawResult]
  split <;> rfl
/-- The side pair of block b after a raw result (R120). -/
def VReg.rawSide (old : VReg) (m side : Word) (b : Nat) : BitVec 16 :=
  if (List.range 16).any fun i => selected m (16 * b + i) then BitVec.ofNat 16 (side.toNat / 65536 ^ b) else old.sideOf b
/-- In a B format the side pairs of the touched blocks of r come from `side`; every other side pair is the old one (R120). -/
def VReg.sidesFrom (old r : VReg) (f : BitVec 3) (m side : Word) : Prop := ∀ p, p < 2 → r.sideOf p =
  if isB f = true ∧ ∃ j, j < 16 ∧ m.getLsbD (16 * p + j) = true then BitVec.ofNat 16 (side.toNat / 65536 ^ p) else old.sideOf p
theorem VReg.sidesFrom_rawResult (old : VReg) (f : BitVec 3) (m : Word) (new : List Word) (side : Word) :
    old.sidesFrom (old.rawResult f m new side) f m side := by
  intro p hp
  by_cases hf : isB f = true
  · rw [VReg.rawResult, if_pos hf]
    refine (sideOf_sideWord _ (old.rawSide m side) hp).trans ?_
    simp only [VReg.rawSide, any_selected_iff, hf, true_and]
  · rw [VReg.rawResult, if_neg hf, if_neg fun h => hf h.1, VReg.sideOf_withLanes]

/-! ### Value results -/

theorem VReg.side_valueResult (old : VReg) (f : BitVec 3) (m : Word) (x : List Val) (ie : IntEnc) (md : Mode) (rnd : List Nat)
    (hf : isB f = false) : (old.valueResult f m x ie md rnd).side = old.side := by
  simp [VReg.valueResult, hf, VReg.withLanes]
theorem VReg.lane_valueResult (old : VReg) (f : BitVec 3) (m : Word) (x : List Val) (ie : IntEnc) (md : Mode) (rnd : List Nat)
    (hf : isB f = false) {i : Nat} (h : i < lanesOf f) : (old.valueResult f m x ie md rnd).lane f i =
      if m.getLsbD i = true then laneFit f (encLane f ie md (rnd.getD i 0) (x.getD i .nan)) else old.lane f i := by
  rw [VReg.valueResult, if_neg (by simp [hf])]
  exact VReg.lane_withSelected old f m (fun j => encLane f ie md (rnd.getD j 0) (x.getD j .nan)) h

theorem packMix_length (f : BitVec 3) (x : List (Val × Mode)) (rnd : List Nat) : (packMix f x rnd).m.length = x.length := by
  unfold packMix
  split
  · simp [satblock]
  · split <;> simp [satblock]
theorem VReg.half_length (r : VReg) {b : Nat} (h : b < 2) : (r.half b).length = 16 := by
  rw [VReg.half, List.length_take, List.length_drop, Vector.length_toList]
  omega
theorem VReg.half_getD (r : VReg) (b : Nat) {i : Nat} (h : i < 16) : (r.half b).getD i 0 = r.lane16 (16 * b + i) := by
  simp [VReg.half, VReg.lane16, h]
theorem VReg.blockResult_length (old : VReg) (f : BitVec 3) (m : Word) (x : List Val) (md : Mode) (rnd : List Nat) {b : Nat} (h : b < 2) :
    (old.blockResult f m x md rnd b).1.length = 16 := by
  unfold VReg.blockResult
  split
  · simp [Block.row, packMix_length]
  · exact old.half_length h
theorem VReg.blockResult_unselected (old : VReg) (f : BitVec 3) (m : Word) (x : List Val) (md : Mode) (rnd : List Nat) (b : Nat)
    (h : ∀ i, i < 16 → m.getLsbD (16 * b + i) = false) : old.blockResult f m x md rnd b = (old.half b, old.sideOf b) := by
  rw [VReg.blockResult, if_neg]
  rw [any_selected_iff]
  rintro ⟨j, hj, hs⟩
  simp [h j hj] at hs
/-- In a B format block b of a value result is the block of R120. -/
theorem VReg.valueResult_block (old : VReg) (f : BitVec 3) (m : Word) (x : List Val) (ie : IntEnc) (md : Mode) (rnd : List Nat)
    (hf : isB f = true) {b : Nat} (hb : b < 2) :
    (old.valueResult f m x ie md rnd).sideOf b = (old.blockResult f m x md rnd b).2 ∧ ∀ i, i < 16 →
      (old.valueResult f m x ie md rnd).lane16 (16 * b + i) = (old.blockResult f m x md rnd b).1.getD i 0 := by
  have h0 := old.blockResult_length f m x md rnd (show 0 < 2 by decide)
  rw [VReg.valueResult, if_pos hf]
  refine ⟨?_, fun i hi => ?_⟩
  · exact sideOf_sideWord _ (fun b => (old.blockResult f m x md rnd b).2) hb
  · rw [VReg.lane16_ofFn _ _ (by omega)]
    obtain rfl | rfl : b = 0 ∨ b = 1 := by omega
    · simp only [Nat.mul_zero, Nat.zero_add, List.getD_eq_getElem?_getD]
      rw [List.getElem?_append_left (by omega)]
    · simp only [List.getD_eq_getElem?_getD]
      rw [List.getElem?_append_right (by omega), h0, show 16 * 1 + i - 16 = i by omega]

/-! ### Writing through the vector unit -/

/-- The executing core with its vector unit taken for n core cycles (R134). -/
def State.vecTaken (s : State) (n : Nat) : Core := s.me.withUnits fun u => { u with vector := s.cc + n }
theorem State.writesV_useVector (s : State) (n : Nat) (d : BitVec 4) (x : VReg) (lat : Nat) :
    s.writesV ((s.useVector n).setV d x lat).advance d x lat (s.vecTaken n) :=
  s.writesV_setV (fun c => { c with units := { c.units with vector := c.cc + n } }) d x lat rfl rfl rfl rfl
/-- A vector result completes and writes v[d]. -/
theorem State.vecResult_writes (s : State) (d : BitVec 4) (x : VReg) (lat : Nat) :
    ∃ t, s.vecResult d x lat = .next t ∧ s.writesV t d x lat (s.vecTaken 1) := ⟨_, rfl, s.writesV_useVector 1 d x lat⟩
theorem State.modMe_modMe (s : State) (f g : Core → Core) : (s.modMe f).modMe g = s.modMe fun c => g (f c) := by
  simp only [State.modMe, State.modCore, State.setCore, State.core, lookup_insert_self, insert_insert]

theorem Strand.putM_eq (t : Strand) (d : BitVec 2) (v : Word) : t.putM d v = { t with m := (t.putM d v).m } := by
  unfold Strand.putM; split <;> rfl
theorem Strand.getM_mark (t : Strand) (r : Reg) (n : Option Nat) (i : BitVec 2) : (t.mark r n).getM i = t.getM i := rfl

/-- From s to t the executing strand passes its instruction, which writes m[d] with a result latency; the executing core is `c` but
for its strands, and no byte of memory changes (R44, R45, R93). -/
def State.writesMIn (s t : State) (d : BitVec 2) (v : Word) (lat : Nat) (c : Core) : Prop :=
  t.m d = (if d = 0 then 0xFFFFFFFF else v) ∧ (∀ r, r ≠ d → t.m r = s.m r) ∧ s.pends t (.m d) lat ∧ s.st.passed t.st ∧
    t.st = { s.st with m := t.st.m, pend := t.st.pend, pc := t.st.pc, fill := t.st.fill } ∧ s.ownCoreIs t c ∧ s.sameMemory t
theorem State.writesMIn_setM (s : State) (d : BitVec 2) (v : Word) (lat : Nat) :
    s.writesMIn (s.setM d v lat).advance d v lat s.me := by
  have e : (s.setM d v lat).advance = s.modSt fun t => ((t.putM d v).mark (.m d) (some (s.cc + lat))).next := by
    rw [State.advance, State.setM, State.modSt_modSt]
  obtain ⟨hcore, hmem⟩ := s.strandOnly_modSt fun t => ((t.putM d v).mark (.m d) (some (s.cc + lat))).next
  rw [e]
  refine ⟨?_, fun r h => ?_, ?_, ?_, ?_, hcore, hmem⟩
  · simp only [State.m, State.st_modSt, Strand.getM_next, Strand.getM_mark, Strand.getM_putM]
    by_cases h : d = 0
    · subst h
      rfl
    · rw [if_pos ⟨trivial, h⟩, if_neg h]
  · simp [State.m, Strand.getM_putM, Strand.getM_mark, h]
  · rw [State.pends, State.st_modSt, Strand.next_pend, Strand.mark_eq, Strand.putM_eq]
  · rw [State.st_modSt]
    refine Strand.passed_of ?_ ?_ ?_ ?_ <;> rw [Strand.mark_eq, Strand.putM_eq]
  · rw [State.st_modSt, Strand.next_eq]
    simp only [Strand.mark_eq]
    rw [Strand.putM_eq]

/-! What the vector unit, once taken, leaves of the state that the instruction found. -/

section
variable (s : State) (n : Nat)

theorem State.me_useVector : (s.useVector n).me = s.vecTaken n := s.me_modMe _
theorem State.st_useVector : (s.useVector n).st = s.st := by
  rw [State.st, State.me_useVector]
  rfl
theorem State.cc_useVector : (s.useVector n).cc = s.cc := by
  rw [State.cc, State.me_useVector]
  rfl
theorem State.otherCoresSame_of_useVector {t : State} (h : (s.useVector n).otherCoresSame t) : s.otherCoresSame t :=
  ⟨h.1, fun l hl => (h.2 l hl).trans (s.core_modCore_ne hl _)⟩
theorem State.ownCoreIs_of_useVector {t : State} {c : Core} (h : (s.useVector n).ownCoreIs t c) : s.ownCoreIs t c := by
  obtain ⟨hcores, hstrands, hme⟩ := h
  refine ⟨s.otherCoresSame_of_useVector n hcores, fun k hk => ?_, hme⟩
  rw [hstrands k hk, State.me_useVector]
  rfl

/-- A write of g[d] with the vector unit taken, then past the instruction. -/
theorem State.writesGIn_useVector (d : BitVec 4) (v : Word) (lat : Nat) :
    s.writesGIn ((s.useVector n).setG d v lat).advance d v lat (s.vecTaken n) := by
  obtain ⟨hg, hp, hpass, hsame, hcore, -⟩ := (s.useVector n).writesG_setG d v lat
  rw [State.me_useVector] at hcore
  have hown := s.ownCoreIs_of_useVector n hcore
  rw [State.st_useVector] at hpass hsame
  rw [State.pends, State.st_useVector, State.cc_useVector] at hp
  simp only [State.holdsG, State.g, State.st_useVector] at hg
  exact ⟨hg, hp, hpass, hsame, hown, s.sameMemory_of _ hown.1 (by rw [hown.2.2]; rfl)⟩
/-- A write of m[d] with the vector unit taken, then past the instruction. -/
theorem State.writesMIn_useVector (d : BitVec 2) (v : Word) (lat : Nat) :
    s.writesMIn ((s.useVector n).setM d v lat).advance d v lat (s.vecTaken n) := by
  obtain ⟨hd, hr, hp, hpass, hsame, hcore, -⟩ := (s.useVector n).writesMIn_setM d v lat
  rw [State.me_useVector] at hcore
  have hown := s.ownCoreIs_of_useVector n hcore
  rw [State.st_useVector] at hpass hsame
  rw [State.pends, State.st_useVector, State.cc_useVector] at hp
  simp only [State.m, State.st_useVector] at hr
  exact ⟨hd, hr, hp, hpass, hsame, hown, s.sameMemory_of _ hown.1 (by rw [hown.2.2]; rfl)⟩

end

end Sys2Proof.Machine
end

section
/-! The obligation on the vector instructions with value results. -/

namespace Sys2Proof.Machine

theorem Mode.ofCode_eq_sr_iff (m : BitVec 3) : Mode.ofCode m = .sr ↔ m = 4 := by
  revert m
  decide
/-- The values that VCVT encodes: lanes pair up by their numbers, h choosing the half of the larger side (R128). -/
def cvtValues (f sf : BitVec 3) (h : BitVec 1) (src : List Val) : List Val :=
  if lanesOf sf = 32 ∧ lanesOf f = 16 then src.drop (16 * h.toNat)
  else if lanesOf sf = 16 ∧ lanesOf f = 32 then List.replicate (16 * h.toNat) .nan ++ src ++ List.replicate 16 .nan else src
/-- The lanes that VCVT writes (R128). -/
def cvtMask (f sf : BitVec 3) (h : BitVec 1) (m : Word) : Word :=
  if lanesOf sf = 16 ∧ lanesOf f = 32 then m &&& (0xFFFF <<< (16 * h.toNat)) else m

section
variable (s : State) (d a : BitVec 4) (h : BitVec 1) (k : BitVec 2) (f sf : BitVec 3)

theorem execVcvt_eq {m : BitVec 3} (hm : m ≠ 4) : execVcvt d a h m k f sf s = s.vecResult d
    ((s.v d).valueResult f (cvtMask f sf h (s.m k)) (cvtValues f sf h ((s.v a).vals sf)) .conv (Mode.ofCode m) []) 5 := by
  have hsr : Mode.ofCode m ≠ .sr := fun h => hm ((Mode.ofCode_eq_sr_iff m).1 h)
  simp only [execVcvt, cvtMask, cvtValues, hsr, if_false, Bool.and_eq_true, beq_iff_eq]
theorem execVcvt_sr_eq {m : BitVec 3} (hm : m = 4) : execVcvt d a h m k f sf s = (s.modMe fun c => { c with srVcvt := xs32 s.me.srVcvt }).vecResult d
    ((s.v d).valueResult f (cvtMask f sf h (s.m k)) (cvtValues f sf h ((s.v a).vals sf)) .conv .sr (srdraws (xs32 s.me.srVcvt))) 5 := by
  have hsr : Mode.ofCode m = .sr := (Mode.ofCode_eq_sr_iff m).2 hm
  simp only [execVcvt, cvtMask, cvtValues, hsr, if_true, Bool.and_eq_true, beq_iff_eq]
/-- VCVT with SR leaves the generator advanced and writes v[d]. -/
theorem execVcvt_sr_writes : ∃ t, execVcvt d a h 4 k f sf s = .next t ∧ s.writesV t d ((s.v d).valueResult f (cvtMask f sf h (s.m k))
    (cvtValues f sf h ((s.v a).vals sf)) .conv .sr (srdraws (xs32 s.me.srVcvt))) 5 { s.vecTaken 1 with srVcvt := xs32 s.me.srVcvt } := by
  rw [execVcvt_sr_eq s d a h k f sf rfl, State.vecResult, State.useVector, State.modMe_modMe]
  exact ⟨_, rfl, s.writesV_setV _ d _ 5 rfl rfl rfl rfl⟩

end

/-- Settles O18: each instruction is one result of the vector unit, and of a value result the lanes and blocks are read apart. -/
theorem vectorValueResults : Obligations.VectorValueResults := by
  unfold Obligations.VectorValueResults
  constructor
  · intro s d a b c sx h m o k f sf imm i x lat occ x1 y1 z1 ie val n src cv cm
    refine ⟨fun hi => ?_, fun hm => ?_, ?_⟩
    · simp only [List.mem_cons, List.not_mem_nil, or_false, Prod.mk.injEq] at hi
      rcases hi with ⟨rfl, rfl, rfl, rfl⟩ | ⟨rfl, rfl, rfl, rfl⟩ | ⟨rfl, rfl, rfl, rfl⟩ | ⟨rfl, rfl, rfl, rfl⟩ | ⟨rfl, rfl, rfl, rfl⟩ |
        ⟨rfl, rfl, rfl, rfl⟩ | ⟨rfl, rfl, rfl, rfl⟩ | ⟨rfl, rfl, rfl, rfl⟩ | ⟨rfl, rfl, rfl, rfl⟩ | ⟨rfl, rfl, rfl, rfl⟩ |
        ⟨rfl, rfl, rfl, rfl⟩ | ⟨rfl, rfl, rfl, rfl⟩ | ⟨rfl, rfl, rfl, rfl⟩
      rotate_right
      · exact ⟨_, rfl, s.writesV_useVector 2 ..⟩ -- VRED takes the unit for two cycles
      all_goals exact s.vecResult_writes ..
    · obtain ⟨t, ht, hw⟩ := s.vecResult_writes d _ 5
      exact ⟨t, (execVcvt_eq s d a h k f sf hm).trans ht, hw⟩
    · exact execVcvt_sr_writes s d a h k f sf
  · intro old f m x ie md rnd
    refine ⟨fun hf => ⟨old.side_valueResult f m x ie md rnd hf, fun i hi => old.lane_valueResult f m x ie md rnd hf hi⟩,
      fun hf b hb hm => ?_⟩
    obtain ⟨hside, hlanes⟩ := old.valueResult_block f m x ie md rnd hf hb
    rw [old.blockResult_unselected f m x md rnd b hm] at hside hlanes
    exact ⟨hside, fun i hi => (hlanes i hi).trans (old.half_getD b hi)⟩

end Sys2Proof.Machine
end

section
/-! The obligation on the raw lane instructions (R124, R131). -/

namespace Sys2Proof.Machine

/-! ### Elements in their lanes -/

/-- Outside the two formats of 16 lanes an element lies in the lane's 16 bits (Table 5.7). -/
theorem shiftWidth_le_lane : ∀ f : BitVec 3, f ≠ 7 → lanesOf f ≠ 16 → shiftWidth f ≤ 16 := by decide
theorem shiftWidth_pos : ∀ f : BitVec 3, 0 < shiftWidth f := by decide
theorem shiftWidth_le : ∀ f : BitVec 3, shiftWidth f ≤ 32 := by decide
theorem shiftWidth_block : ∀ f : BitVec 3, f ≠ 7 → ¬ (f = 4 ∨ f = 6) → f ≠ 3 → (if f = 5 then 8 else mbits f) = shiftWidth f := by decide

/-- A lane keeps the bits of an element of its format. -/
theorem laneFit_toNat_mod (f : BitVec 3) (w : Word) (hf : f ≠ 7) : (laneFit f w).toNat % 2 ^ shiftWidth f = w.toNat % 2 ^ shiftWidth f := by
  rw [laneFit]
  split
  · rfl
  · next h =>
    have hd : 2 ^ shiftWidth f ∣ 2 ^ 16 := Nat.pow_dvd_pow 2 (shiftWidth_le_lane f hf h)
    have ht : ((w.truncate 16 : BitVec 16).zeroExtend 32).toNat = w.toNat % 2 ^ 16 := by
      simp only [BitVec.truncate_eq_setWidth, BitVec.toNat_setWidth]
      omega
    rw [ht, Nat.mod_mod_of_dvd _ hd]
theorem toNat_emod_two_pow_lt (z : Int) (n : Nat) : (z % 2 ^ n).toNat < 2 ^ n := by
  have hpos : (0 : Int) < 2 ^ n := Int.pow_pos (by decide)
  rw [Int.toNat_lt (Int.emod_nonneg _ (Int.ne_of_gt hpos))]
  exact_mod_cast Int.emod_lt_of_pos z hpos
theorem placeShift_toNat_mod (f : BitVec 3) {x : Nat} (h : x < 2 ^ shiftWidth f) :
    (placeShift f (shiftWidth f) x).toNat % 2 ^ shiftWidth f = x := by
  rw [placeShift]
  split
  · rw [BitVec.toNat_ofNat, Nat.mod_mod_of_dvd _ (Nat.pow_dvd_pow 2 (shiftWidth_le f)), Nat.mod_eq_of_lt h]
  · rw [ofInt_sext_toNat_mod (shiftWidth_pos f) (shiftWidth_le f), Nat.mod_eq_of_lt h]
theorem laneWord_toNat_mod (f : BitVec 3) (x : Word) (hf : f ≠ 7) :
    (laneWord f x).toNat % 2 ^ shiftWidth f = x.toNat % 2 ^ shiftWidth f := by
  rw [laneWord]
  split
  · rfl
  · next h46 =>
    split
    · next h3 =>
      subst h3
      exact (congrArg (· % 2 ^ 16) (Nat.and_two_pow_sub_one_eq_mod x.toNat 16)).trans (Nat.mod_mod _ _)
    · next h3 =>
      rw [shiftWidth_block f hf h46 h3, ofInt_sext_toNat_mod (shiftWidth_pos f) (shiftWidth_le f)]

theorem laneFit_and (f : BitVec 3) (u v : Word) : laneFit f (u &&& v) = laneFit f u &&& laneFit f v := by
  unfold laneFit; split <;> simp [BitVec.setWidth_and]
theorem laneFit_or (f : BitVec 3) (u v : Word) : laneFit f (u ||| v) = laneFit f u ||| laneFit f v := by
  unfold laneFit; split <;> simp [BitVec.setWidth_or]
theorem laneFit_xor (f : BitVec 3) (u v : Word) : laneFit f (u ^^^ v) = laneFit f u ^^^ laneFit f v := by
  unfold laneFit; split <;> simp [BitVec.setWidth_xor]

/-! ### The instructions -/

/-- A raw result completes: the selected lanes take the new words, a touched block of a B format its side pair from `side`. -/
theorem State.rawResult_writes (s : State) (d : BitVec 4) (k : BitVec 2) (f : BitVec 3) (new : List Word) (side : Word) :
    ∃ t r, s.vecResult d ((s.v d).rawResult f (s.m k) new side) 2 = .next t ∧ s.writesV t d r 2 (s.vecTaken 1) ∧
      (s.v d).sidesFrom r f (s.m k) side ∧
      ∀ j, j < lanesOf f → r.lane f j = if (s.m k).getLsbD j = true then laneFit f (new.getD j 0) else (s.v d).lane f j := by
  obtain ⟨t, ht, hw⟩ := s.vecResult_writes d ((s.v d).rawResult f (s.m k) new side) 2
  exact ⟨t, _, ht, hw, (s.v d).sidesFrom_rawResult f _ _ _, fun j hj => (s.v d).lane_rawResult f _ _ _ hj⟩
/-- A raw lane operation on two sources. -/
theorem State.vecRaw_writes (s : State) (d a b : BitVec 4) (k : BitVec 2) (f : BitVec 3) (op : Word → Word → Word) :
    ∃ t r, s.vecRaw d a b k f op = .next t ∧ s.writesV t d r 2 (s.vecTaken 1) ∧
      (s.v d).sidesFrom r f (s.m k) (s.v a).side ∧
      ∀ j, j < lanesOf f → r.lane f j =
        if (s.m k).getLsbD j = true then laneFit f (op ((s.v a).lane f j) ((s.v b).lane f j)) else (s.v d).lane f j := by
  obtain ⟨t, r, ht, hw, hside, hlane⟩ := s.rawResult_writes d k f _ (s.v a).side
  exact ⟨t, r, ht, hw, hside, fun j hj => by rw [hlane j hj, getD_map_range _ _ hj]⟩

/-- VINS of a lane changes that lane alone. -/
theorem execVins_writes (s : State) (d a : BitVec 4) (l : BitVec 8) (f : BitVec 3) (hl : l.toNat < lanesOf f) :
    ∃ t r, execVins d a l f s = .next t ∧ s.writesV t d r 2 (s.vecTaken 1) ∧ r.side = (s.v d).side ∧
      ∀ j, j < lanesOf f → r.lane f j = if j = l.toNat then laneFit f (laneWord f (s.g a)) else (s.v d).lane f j := by
  have hl32 : l ≠ 32 := by
    rintro rfl
    exact absurd (lanesOf_le f) (Nat.not_le_of_lt hl)
  rw [execVins, if_neg hl32]
  obtain ⟨t, ht, hw⟩ := s.vecResult_writes d ((s.v d).withLanes f
    ((List.range (lanesOf f)).map fun i => if i = l.toNat then laneWord f (s.g a) else (s.v d).lane f i)) 2
  refine ⟨t, _, ht, hw, by rw [VReg.withLanes], fun j hj => ?_⟩
  rw [VReg.lane_withLanes _ _ _ hj, getD_map_range _ _ hj]
  split
  · rfl
  · rw [laneFit_lane]

/-- Settles O19: each instruction is a raw result of R120, and a lane keeps the element that the operation made. -/
theorem vectorLaneResults : Obligations.VectorLaneResults := by
  unfold Obligations.VectorLaneResults
  intro s d a b k f l hf unit sel n sides
  refine ⟨fun i op hi => ?_, fun i op hi => ?_, ?_, fun hl => ?_, s.vecResult_writes d _ 2⟩
  · obtain ⟨hexec, hfit⟩ : exec i s = s.vecRaw d a b k f op ∧
        ∀ j, laneFit f (op ((s.v a).lane f j) ((s.v b).lane f j)) = op ((s.v a).lane f j) ((s.v b).lane f j) := by
      simp only [List.mem_cons, List.not_mem_nil, or_false, Prod.mk.injEq] at hi
      rcases hi with ⟨rfl, rfl⟩ | ⟨rfl, rfl⟩ | ⟨rfl, rfl⟩ | ⟨rfl, rfl⟩
      · exact ⟨rfl, fun j => by rw [laneFit_and, laneFit_lane, laneFit_lane]⟩
      · exact ⟨rfl, fun j => by rw [laneFit_or, laneFit_lane, laneFit_lane]⟩
      · exact ⟨rfl, fun j => by rw [laneFit_xor, laneFit_lane, laneFit_lane]⟩
      · exact ⟨rfl, fun j => laneFit_lane f _ j⟩
    obtain ⟨t, r, ht, hw, hside, hlane⟩ := s.vecRaw_writes d a b k f op
    exact ⟨t, r, hexec.trans ht, hw, hside, fun j hj => by rw [hlane j hj, hfit]⟩
  · obtain ⟨hexec, hlt⟩ : exec i s = s.vecRaw d a b k f (fun u v => placeShift f n (op u.toNat (v.toNat % 256))) ∧
        ∀ e sh, op e sh < 2 ^ n := by
      have hpos : 0 < 2 ^ n := Nat.two_pow_pos n
      simp only [List.mem_cons, List.not_mem_nil, or_false, Prod.mk.injEq] at hi
      rcases hi with ⟨rfl, rfl⟩ | ⟨rfl, rfl⟩ | ⟨rfl, rfl⟩
      · refine ⟨rfl, fun e sh => ?_⟩
        dsimp only
        split
        · exact hpos
        · exact Nat.mod_lt _ hpos
      · exact ⟨rfl, fun e sh => Nat.lt_of_le_of_lt (Nat.div_le_self _ _) (Nat.mod_lt _ hpos)⟩
      · exact ⟨rfl, fun e sh => toNat_emod_two_pow_lt _ n⟩
    obtain ⟨t, r, ht, hw, hside, hlane⟩ := s.vecRaw_writes d a b k f fun u v => placeShift f n (op u.toNat (v.toNat % 256))
    refine ⟨t, r, hexec.trans ht, hw, hside, fun j hj => ?_⟩
    rw [hlane j hj]
    split
    · rw [laneFit_toNat_mod f _ hf, placeShift_toNat_mod f (hlt _ _)]
    · rfl
  · obtain ⟨t, r, ht, hw, hside, hlane⟩ := s.rawResult_writes d k f (List.replicate (lanesOf f) (laneWord f (s.g a)))
      (((s.g a) >>> 16) ||| (s.g a &&& 0xFFFF0000))
    refine ⟨t, r, ht, hw, hside, fun j hj => ?_⟩
    rw [hlane j hj]
    split
    · rw [laneFit_toNat_mod f _ hf, getD_replicate_lt _ _ hj, laneWord_toNat_mod f _ hf]
    · rfl
  · obtain ⟨t, r, ht, hw, hside, hlane⟩ := execVins_writes s d a l f hl
    refine ⟨t, r, ht, hw, hside, ?_, fun j hj hne => by rw [hlane j hj, if_neg hne]⟩
    rw [hlane _ hl, if_pos rfl, laneFit_toNat_mod f _ hf, laneWord_toNat_mod f _ hf]

end Sys2Proof.Machine
end

section
/-! The obligation on signs, compares and the moves between the register files (R123, R125, R131). -/

namespace Sys2Proof.Machine

/-! ### Signs -/

section
variable (s : State) (d a : BitVec 4) (sx : BitVec 1) (k : BitVec 2) (f : BitVec 3) (neg : Bool)

theorem State.vecSign_float (hf : f = 3 ∨ f = 4) : s.vecSign d a sx k f neg = s.vecResult d ((s.v d).rawResult f (s.m k)
    ((List.range (lanesOf f)).map fun i => if neg then (s.v a).lane f i ^^^ (if f = 3 then 0x8000 else 0x80000000)
      else (s.v a).lane f i &&& ~~~(if f = 3 then 0x8000 else 0x80000000)) 0) 2 := by
  obtain ⟨hblock, hint⟩ : ¬ isB f = true ∧ ¬ tagInt f = true := by rcases hf with rfl | rfl <;> decide
  rw [State.vecSign, if_neg hblock, if_neg hint]
theorem State.vecSign_int (hf : f = 5 ∨ f = 6) : s.vecSign d a sx k f neg = s.vecResult d ((s.v d).valueResult f (s.m k)
    (((s.v a).vals f).map fun v => if neg then v.neg else v.abs) (satEnc sx) .rne []) 2 := by
  obtain ⟨hblock, hint⟩ : ¬ isB f = true ∧ tagInt f = true := by rcases hf with rfl | rfl <;> decide
  rw [State.vecSign, if_neg hblock, if_pos hint]
theorem State.vecSign_block (hf : isB f = true) (op : Int → Int) (hop : op = fun x => if neg then -x else (x.natAbs : Int)) :
    s.vecSign d a sx k f neg = s.vecResult d
      ⟨Vector.ofFn fun i : Fin 32 => ((signBlock f (s.m k) (s.v a) (s.v d) (d == a) op 0).1 ++
          (signBlock f (s.m k) (s.v a) (s.v d) (d == a) op 1).1).getD i.val 0,
        sideWord (signBlock f (s.m k) (s.v a) (s.v d) (d == a) op 0).2 (signBlock f (s.m k) (s.v a) (s.v d) (d == a) op 1).2⟩ 2 := by
  rw [State.vecSign, if_pos hf, hop]

end

/-! ### Compares -/

/-- The words that `wordOfBits` adds up have their bits apart. -/
theorem bitsFrom_range (b : Nat → Bool) : ∀ n, let w := (List.range n).foldl (fun w i => if b i then w + 2 ^ i else w) 0
    w < 2 ^ n ∧ ∀ j, w.testBit j = (decide (j < n) && b j)
  | 0 => by simp
  | n + 1 => by
    obtain ⟨hlt, hbit⟩ := bitsFrom_range b n
    simp only [List.range_succ, List.foldl_append, List.foldl_cons, List.foldl_nil]
    generalize (List.range n).foldl (fun w i => if b i then w + 2 ^ i else w) 0 = w at hlt hbit
    have hadd : w + 2 ^ n = 2 ^ n ||| w := by
      simpa [Nat.add_comm] using Nat.two_pow_add_eq_or_of_lt hlt 1
    refine ⟨by split <;> omega, fun j => ?_⟩
    have hnew : (if b n = true then w + 2 ^ n else w).testBit j = (b n && decide (n = j) || w.testBit j) := by
      split
      · next hb => rw [hadd, Nat.testBit_or, Nat.testBit_two_pow, hb, Bool.true_and]
      · next hb => simp [hb]
    rw [hnew, hbit]
    by_cases hj : j = n
    · simp [hj]
    · simp [Ne.symm hj, show j < n + 1 ↔ j < n by omega]
theorem getLsbD_wordOfBits (n : Nat) (b : Nat → Bool) {j : Nat} (hj : j < 32) :
    (wordOfBits n b).getLsbD j = (decide (j < n) && b j) := by
  rw [wordOfBits, BitVec.getLsbD_ofNat, (bitsFrom_range b n).2]
  simp [hj]

/-! ### Moves -/

/-- m0 reads as all ones (R44). -/
theorem State.m_eq (s : State) (r : BitVec 2) : s.m r = if r = 0 then 0xFFFFFFFF else s.m r := by
  split
  · next h => rw [State.m, Strand.getM, if_pos h]
  · rfl
/-- The word that VEXT moves to a general register. -/
theorem execVext_eq (s : State) (d a : BitVec 4) (l : BitVec 8) (f : BitVec 3) (hl : l.toNat < lanesOf f) :
    execVext d a l f s = .next ((s.useVector 1).setG d (if f = 3 ∨ f = 4 ∨ f = 6 then (s.v a).lane f l.toNat
      else (((s.v a).lane f l.toNat).truncate 16 : BitVec 16).signExtend 32) 3).advance := by
  have hl32 : l ≠ 32 := by
    rintro rfl
    exact absurd (lanesOf_le f) (Nat.not_le_of_lt hl)
  have hfp : (f = 4 ∨ f = 6 ∨ f = 3) ↔ (f = 3 ∨ f = 4 ∨ f = 6) := by rw [← or_assoc, or_comm]
  simp only [execVext, if_neg hl32, hfp, ofInt_sext, BitVec.ofNat_toNat, BitVec.truncate_eq_setWidth]

/-- Settles O20: each instruction is one result of the vector unit in v[d], m[d] or g[d]. -/
theorem vectorSignsAndMoves : Obligations.VectorSignsAndMoves := by
  unfold Obligations.VectorSignsAndMoves
  constructor
  · intro s d a sx k f i neg unit sign op blk hi
    have hexec : exec i s = s.vecSign d a sx k f neg := by
      simp only [List.mem_cons, List.not_mem_nil, or_false, Prod.mk.injEq] at hi
      rcases hi with ⟨rfl, rfl⟩ | ⟨rfl, rfl⟩ <;> rfl
    rw [hexec]
    refine ⟨fun hf => ?_, fun hf => ?_, fun hf => ?_⟩
    · rw [s.vecSign_float d a sx k f neg hf]
      exact s.vecResult_writes ..
    · rw [s.vecSign_int d a sx k f neg hf]
      exact s.vecResult_writes ..
    · rw [s.vecSign_block d a sx k f neg hf op rfl]
      exact s.vecResult_writes ..
  · intro s d a b p md k ma f l unit writesM writesGU
    refine ⟨⟨_, _, rfl, s.writesMIn_useVector 1 md _ 3, fun j hj => ?_⟩, ⟨_, rfl, s.writesMIn_useVector 1 md _ 2⟩, ?_,
      ⟨_, rfl, s.writesGIn_useVector 1 d _ 3⟩, fun hl => ⟨_, execVext_eq s d a l f hl, s.writesGIn_useVector 1 d _ 3⟩⟩
    · rw [getLsbD_wordOfBits _ _ hj, selected, Bool.and_assoc]
    · rw [← s.m_eq ma]
      exact ⟨_, rfl, s.writesGIn_useVector 1 d _ 2⟩

end Sys2Proof.Machine
end
